-- ==== Sys2Proof/Word.lean ====
section
/-! DEFINITION. The words of the machine: bytes, registers, addresses, lanes, lines. -/
namespace Sys2Proof

/-- A 64-bit register or memory doubleword (R79, R80). -/
abbrev Word := BitVec 64
/-- A byte of memory. -/
abbrev Byte := BitVec 8
/-- A 56-bit virtual address (R155). -/
abbrev Addr := BitVec 56
/-- A lane of `va` (R132), `lc` (R81), `vm` (R132). -/
abbrev W32 := BitVec 32
/-- A 128-byte line of a cache (R163). -/
abbrev Line := BitVec 1024
/-- A sparse table: entries with their keys; an unlisted key has the default record of the table's reader. -/
abbrev Table (α : Type) := List (Nat × α)

end Sys2Proof
end

