-- ==== Sys2Proof/Config.lean ====
section
/-! DEFINITION. What the implementation fixes and the spec does not give: the free values. None has a body that a
proof can see; a claim holds whatever they are. -/
namespace Sys2Proof.Config

/-- The seed that Keel derives from the on-die physically unclonable function (R451). -/
opaque pufSeed (package : Nat) : List Byte

/-- The Falcon-1024 public key expanded from a seed, 1,793 bytes (R451). -/
opaque falconPublic (seed : List Byte) : List Byte

/-- A Falcon-1024 signature over SHAKE256 of a message under the key of a seed (R451). -/
opaque falconSign (seed message : List Byte) : List Byte

/-- Whether a Falcon-1024 signature over SHAKE256 of a message verifies under a public key (R464). -/
opaque falconVerify (publicKey message signature : List Byte) : Bool

/-- Whether a Deck image carries a Falcon-1024 signature that verifies under a public key (R450); where it lies in the image
is open. -/
opaque deckSigned (publicKey image : List Byte) : Bool

/-- The bytes that stand for a slice's clusters, units and ports in LAYOUT (R451). -/
opaque layoutBytes (clusters units ports : List Nat) : List Byte

/-- The Keel ROM: the digest of the Yunalyn key that it holds (R464). -/
opaque keelKeyDigest : List Byte

/-- The hash of the Keel ROM (R451). -/
opaque keelRomHash : List Byte

/-- A sensor reading of the platform, by the free-value counter and the sensor's number (R463, R470). -/
opaque sensor (tick number : Nat) : Nat

/-- A value that the spec leaves open, by the free-value counter. -/
opaque freeWord (tick : Nat) : Word

end Sys2Proof.Config
end

