-- ==== Sys2Proof/Syntax.lean ====
section
/-! DEFINITION. The instructions of R31 and the internal and host steps of the opcode table, one constructor each. -/
namespace Sys2Proof

/-- Instruction lengths (R18). -/
inductive Form where
  | S | M | L
  deriving DecidableEq, Repr

/-- PRED (R28): always, P = 1 (`.p`, `.own`), P = 0 (`.np`, `.nown`), bound (`.th`). -/
inductive Pred where
  | always | own | nown | th
  deriving DecidableEq, Repr

/-- Form and predicate of an instruction. -/
structure Hdr where
  form : Form
  pred : Pred
  deriving DecidableEq, Repr

/-- TYPE (R27); `pb c` is the block type of width c + 1. -/
inductive Ty where
  | i8 | i16 | i32 | i64 | ui8 | ui16 | ui32 | ui64
  | f64 | f32 | f16 | bf16 | f8e4 | f8e5 | f4
  | pb (c : BitVec 3)
  deriving DecidableEq, Repr

/-- The memory modes of R23: 000 to 100. -/
inductive MemMode where
  | ind | postInc | postStride | preDec
  | disp (d : Word)
  deriving DecidableEq, Repr

/-- An operand (R23, R85); an immediate is its field sign-extended to 64 bits (R25). -/
inductive Opnd where
  | mem (n : BitVec 3) (m : MemMode)
  | ptr (n : BitVec 3)
  | imm (v : Word)
  | a
  | va
  deriving DecidableEq, Repr

/-- ORD (R29). -/
inductive Ord where
  | plain | acq | rel | ar
  deriving DecidableEq, Repr

/-- SCOPE (R29). -/
inductive Scope where
  | co | cl | di | pk | dm | pd
  deriving DecidableEq, Repr

/-- An ordering qualifier with its scope (R29). -/
structure Qual where
  ord : Ord
  scope : Scope
  deriving DecidableEq, Repr

/-- Rounding modes of `fcvt` and `vcvt` (R99). -/
inductive Rm where
  | rne | rz | rdn | rup
  deriving DecidableEq, Repr

/-- The target of `call` (R104). -/
inductive CallTgt where
  | rel (disp : BitVec 34)
  | abs (address : Word)
  | ptr (n : BitVec 3)
  | mem (n : BitVec 3) (m : MemMode)
  deriving DecidableEq, Repr

/-- The target of `jmp` (R105). -/
inductive JmpTgt where
  | ptr (n : BitVec 3)
  | mem (n : BitVec 3) (m : MemMode)
  | abs (address : Word)
  deriving DecidableEq, Repr

/-- The byte range of a range instruction (R177); `nb` counts come from the instruction, `acc` from `a`. -/
inductive RangeCnt where
  | nb (n : BitVec 24)
  | acc
  deriving DecidableEq, Repr

/-- The operand of a range instruction (R177). -/
inductive Range where
  | all
  | bytes (n : BitVec 3) (m : MemMode) (cnt : RangeCnt)
  deriving DecidableEq, Repr

/-- What `bank` switches (R182). -/
inductive BankArg where
  | imm (mode : BitVec 2) (bank : BitVec 5)
  | acc
  deriving DecidableEq, Repr

/-- A small number that stands in the instruction or comes from `a`. -/
inductive NumArg (w : Nat) where
  | imm (v : BitVec w)
  | acc
  deriving DecidableEq, Repr

/-- What `hwait` waits on (R274). -/
inductive WaitOn where
  | handle (h : BitVec 3)
  | token (src : Opnd)
  deriving DecidableEq, Repr

/-- The record operand of `mw` and `mx` (R329). -/
inductive RecAt where
  | mem (n : BitVec 3) (m : MemMode)
  | abs (address : Word)
  deriving DecidableEq, Repr

/-- The scale operand of `xclr` and `xscale` (R352). -/
inductive ScaleArg where
  | imm (s : BitVec 16)
  | acc
  | none
  deriving DecidableEq, Repr

/-- A position in a tile (R352): ROW and CG, or `a[9:0]`. -/
inductive PosArg where
  | imm (row : BitVec 7) (cg : BitVec 3)
  | acc
  deriving DecidableEq, Repr

/-- The argument of `xrank.init` (R352, R357). -/
inductive RankArg where
  | imm (logk : BitVec 3) (row : BitVec 7)
  | acc
  deriving DecidableEq, Repr

/-- The selection of `xthr` (R361). -/
inductive ThrSel where
  | off
  | row (tile : BitVec 4) (row : BitVec 7)
  | acc (tile : BitVec 4)
  deriving DecidableEq, Repr

/-- The count operand of `launch.ind` (R386, R389). -/
inductive CountAt where
  | mem (n : BitVec 3) (m : MemMode)
  | abs (address : Word)
  deriving DecidableEq, Repr

/-- The MODE of `podbar` (R302). -/
inductive PodMode where
  | both | arrive | wait
  deriving DecidableEq, Repr

/-- Site kinds (R402). -/
inductive SiteKind where
  | branch | load | loop
  deriving DecidableEq, Repr

/-- `mchain` configuration (R329). -/
structure ChainCfg where
  west : Bool
  east : Bool
  cntM1 : BitVec 2
  first : BitVec 2
  deriving DecidableEq, Repr

/-- Range operations share one target field (R177). -/
inductive CacheTgt where
  | l1 | nc | home
  deriving DecidableEq, Repr

/-- A source of channels (R187), with the key of its core, cluster or package. -/
inductive Src where
  | core (core : Nat)
  | near (cluster : Nat)
  | engine (cluster : Nat)
  | host (package : Nat)
  deriving DecidableEq, Repr

/-- A home (R187): the home slice of a cluster, or a scratchpad bank. -/
inductive HomeId where
  | slice (cluster : Nat)
  | bank (cluster bank : Nat)
  deriving DecidableEq, Repr

/-- One page entry that a `MAP` command writes (R173): virtual page base, page size as the table level (2, 3, 4),
permissions, and the package whose HBM backs the frames. -/
structure MapReq where
  va : Addr
  level : Nat
  pages : Nat
  rd : Bool
  wr : Bool
  ex : Bool
  uc : Bool
  back : Nat
  contents : List Byte
  deriving DecidableEq, Repr

/-- The contents of a region control block that the host writes (R438). -/
structure RcbArg where
  region : Nat
  parent : Nat
  fd : Bool
  prio : Nat
  budgets : List W32
  deriving DecidableEq, Repr

/-- The slice that `PART_CREATE` names (R437). -/
structure SliceArg where
  number : Nat
  clusters : List Nat
  units : List Nat
  ports : List Nat
  deriving DecidableEq, Repr

/-- What `FABRIC_CONFIG` carries (R378, R447, R448): configuration number, members, the head that they elect, the load-store
domains, the fabric ports that are used, and the port of each package that is routed to. -/
structure FabricArg where
  config : Nat
  members : List Nat
  head : Nat
  domains : List (Nat × Nat)
  ports : List Nat
  routes : List (Nat × Nat)
  deriving DecidableEq, Repr

/-- A write of the host (R444, R445): a posted or a non-posted write of PCIe, a write of CXL.mem. -/
inductive HostReq where
  | posted | nonPosted | mem
  deriving DecidableEq, Repr

/-- The requested outcome of a remote time-out (R226): whether the write was performed at its home. -/
inductive Performed where
  | yes | no
  deriving DecidableEq, Repr

/-- What waits for a reply from another package (R226): a thread's access, or a beat of an engine. -/
inductive Remote where
  | thread (thread : Nat)
  | beat (cluster chan tid beat : Nat)
  deriving DecidableEq, Repr

/-- Who issues a host command: a berth of a package, or its physical function (R442). -/
structure Cmd where
  package : Nat
  berth : Option Nat
  tag : BitVec 16
  deriving DecidableEq, Repr

/-- The instructions and steps of spec/opcode_table.json, one constructor per row, in the table's order. A thread
instruction acts on the thread that `State.cur` names; an internal or host step names in its arguments what it acts on. -/
inductive Instr where
  -- threads (03)
  | nop (form : Form)
  | yield (p : Pred)
  | halt (p : Pred)
  | enq (h : Hdr) (ty : Ty) (q : BitVec 2) (src : Opnd)
  | deq (h : Hdr) (ty : Ty) (dst : Opnd) (q : BitVec 2)
  | qlink (p : Pred) (q : BitVec 2) (bank : BitVec 5)
  | fork (h : Hdr) (disp : BitVec 34) (ctr : BitVec 3) (site : BitVec 16)
  | join (h : Hdr) (ctr : BitVec 3) (disp : BitVec 34) (site : BitVec 16)
  | tow (n : BitVec 4)
  | cast
  -- control transfers (04)
  | br (h : Hdr) (back : Bool) (disp : BitVec 34) (site : BitVec 16)
  | bc (h : Hdr) (cond : BitVec 4) (back : Bool) (disp : BitVec 34) (site : BitVec 16)
  | call (h : Hdr) (tgt : CallTgt) (link : BitVec 3)
  | ret (p : Pred) (link : BitVec 3)
  | jmp (h : Hdr) (tgt : JmpTgt)
  | loop (h : Hdr) (back : Bool) (disp : BitVec 34) (site : BitVec 16)
  | ldlc (h : Hdr) (ty : Ty) (src : Opnd)
  -- scalar integer (04)
  | lda (h : Hdr) (ty : Ty) (q : Qual) (src : Opnd) (site : BitVec 16)
  | sta (h : Hdr) (ty : Ty) (q : Qual) (dst src : Opnd)
  | add (h : Hdr) (ty : Ty) (dst src : Opnd)
  | sub (h : Hdr) (ty : Ty) (dst src : Opnd)
  | mul (h : Hdr) (ty : Ty) (dst src : Opnd)
  | mulh (h : Hdr) (ty : Ty) (dst src : Opnd)
  | div (h : Hdr) (ty : Ty) (dst src : Opnd)
  | rem (h : Hdr) (ty : Ty) (dst src : Opnd)
  | and (h : Hdr) (ty : Ty) (dst src : Opnd)
  | or (h : Hdr) (ty : Ty) (dst src : Opnd)
  | xor (h : Hdr) (ty : Ty) (dst src : Opnd)
  | shl (h : Hdr) (ty : Ty) (dst src : Opnd)
  | shr (h : Hdr) (ty : Ty) (dst src : Opnd)
  | sar (h : Hdr) (ty : Ty) (dst src : Opnd)
  | min (h : Hdr) (ty : Ty) (dst src : Opnd)
  | max (h : Hdr) (ty : Ty) (dst src : Opnd)
  | neg (h : Hdr) (ty : Ty) (dst src : Opnd)
  | not (h : Hdr) (ty : Ty) (dst src : Opnd)
  | clz (h : Hdr) (ty : Ty) (dst src : Opnd)
  | popc (h : Hdr) (ty : Ty) (dst src : Opnd)
  | cmp (h : Hdr) (ty : Ty) (cond : BitVec 4) (s1 s2 : Opnd)
  | tst (h : Hdr) (ty : Ty) (cond : BitVec 4) (s1 s2 : Opnd)
  | sel (h : Hdr) (ty : Ty) (s1 s2 : Opnd)
  | ext (h : Hdr) (ty : Ty) (src : Opnd)
  -- scalar floating point (04)
  | fadd (h : Hdr) (ty : Ty) (dst src : Opnd)
  | fsub (h : Hdr) (ty : Ty) (dst src : Opnd)
  | fmul (h : Hdr) (ty : Ty) (dst src : Opnd)
  | fdiv (h : Hdr) (ty : Ty) (dst src : Opnd)
  | fsqrt (h : Hdr) (ty : Ty) (dst src : Opnd)
  | ffma (h : Hdr) (ty : Ty) (s1 s2 : Opnd)
  | fmin (h : Hdr) (ty : Ty) (dst src : Opnd)
  | fmax (h : Hdr) (ty : Ty) (dst src : Opnd)
  | fcmp (h : Hdr) (ty : Ty) (cond : BitVec 4) (s1 s2 : Opnd)
  | fcvt (h : Hdr) (dty : Ty) (dst src : Opnd) (sty : Ty) (rm : Rm)
  -- pointers (04)
  | lp (h : Hdr) (n : BitVec 3) (src : Opnd)
  | stp (h : Hdr) (dst : Opnd) (n : BitVec 3)
  | padd (h : Hdr) (n : BitVec 3) (src : Opnd)
  | pset (h : Hdr) (n : BitVec 3) (src : Opnd)
  | pmov (p : Pred) (n m : BitVec 3)
  -- vectors (06)
  | vadd (h : Hdr) (ty : Ty) (dst src : Opnd)
  | vsub (h : Hdr) (ty : Ty) (dst src : Opnd)
  | vmul (h : Hdr) (ty : Ty) (dst src : Opnd)
  | vfma (h : Hdr) (s1 s2 : Opnd)
  | vmin (h : Hdr) (ty : Ty) (dst src : Opnd)
  | vmax (h : Hdr) (ty : Ty) (dst src : Opnd)
  | vabs (h : Hdr) (ty : Ty) (dst src : Opnd)
  | vneg (h : Hdr) (ty : Ty) (dst src : Opnd)
  | vand (h : Hdr) (ty : Ty) (dst src : Opnd)
  | vor (h : Hdr) (ty : Ty) (dst src : Opnd)
  | vxor (h : Hdr) (ty : Ty) (dst src : Opnd)
  | vshl (h : Hdr) (ty : Ty) (dst src : Opnd)
  | vshr (h : Hdr) (ty : Ty) (dst src : Opnd)
  | vmov (h : Hdr) (ty : Ty) (dst src : Opnd)
  | vld (h : Hdr) (ty : Ty) (q : Qual) (src : Opnd) (site : BitVec 16)
  | vst (h : Hdr) (ty : Ty) (q : Qual) (dst : Opnd) (sr : Bool)
  | vldx (h : Hdr) (ty : Ty) (n : BitVec 3) (site : BitVec 16)
  | vstx (h : Hdr) (ty : Ty) (n : BitVec 3) (src : Opnd)
  | vbc (h : Hdr) (ty : Ty) (src : Opnd)
  | vcmp (h : Hdr) (ty : Ty) (cond : BitVec 4) (set : Bool) (s1 s2 : Opnd)
  | vsel (h : Hdr) (ty : Ty) (s1 s2 : Opnd)
  | vcvt (h : Hdr) (dty : Ty) (dst src : Opnd) (sty : Ty) (rm : Rm)
  | vperm (h : Hdr) (src : Opnd)
  | vrcp (h : Hdr) (dst src : Opnd)
  | vrsq (h : Hdr) (dst src : Opnd)
  | vexp2 (h : Hdr) (dst src : Opnd)
  | vlog2 (h : Hdr) (dst src : Opnd)
  | vredmax (h : Hdr) (ty : Ty) (src : Opnd)
  | vredmin (h : Hdr) (ty : Ty) (src : Opnd)
  | vxsum (h : Hdr) (ty : Ty) (src : Opnd) (fx : Bool) (scale : BitVec 16)
  -- storage (07)
  | pf (h : Hdr) (tgt : CacheTgt) (r : Range)
  | prefetchLineLookup (core : Nat)
  | inv (h : Hdr) (tgt : CacheTgt) (r : Range)
  | wbk (h : Hdr) (tgt : CacheTgt) (r : Range)
  | bank (h : Hdr) (hn : BitVec 3) (arg : BankArg) (z : Bool)
  | bankSwitchComplete (cluster bank : Nat)
  | bankq (p : Pred) (j : NumArg 5)
  | tlbinv (h : Hdr) (r : Range)
  | walkStart (package die : Nat)
  | walkComplete (cluster : Nat) (root : Nat) (key : Nat)
  -- ordering and atomics (08)
  | fence (p : Pred) (q : Qual)
  | ifence (p : Pred)
  | ldq (h : Hdr) (q : Qual) (src : Opnd)
  | stq (h : Hdr) (q : Qual) (dst : Opnd)
  | amoAdd (h : Hdr) (ty : Ty) (q : Qual) (tgt src : Opnd)
  | amoAnd (h : Hdr) (ty : Ty) (q : Qual) (tgt src : Opnd)
  | amoOr (h : Hdr) (ty : Ty) (q : Qual) (tgt src : Opnd)
  | amoXor (h : Hdr) (ty : Ty) (q : Qual) (tgt src : Opnd)
  | amoMin (h : Hdr) (ty : Ty) (q : Qual) (tgt src : Opnd)
  | amoMax (h : Hdr) (ty : Ty) (q : Qual) (tgt src : Opnd)
  | amoSwap (h : Hdr) (ty : Ty) (q : Qual) (tgt src : Opnd)
  | uadd (h : Hdr) (ty : Ty) (tgt src : Opnd)
  | cas64 (h : Hdr) (q : Qual) (tgt src : Opnd)
  | cas128 (h : Hdr) (q : Qual) (tgt : Opnd)
  | amoNib (h : Hdr) (q : Qual) (tgt src : Opnd)
  | l1Drop (core line : Nat)
  | nearCacheAccept (core : Nat)
  | nearCacheRead (core : Nat)
  | nearCacheWriteback (cluster line : Nat)
  | nearCacheDrop (cluster loc : Nat)
  | send (src : Src)
  | deliver (src : Src) (home : HomeId)
  | strip (src : Src) (home : HomeId)
  | merge (core line : Nat)
  | hostWrite (package berth : Nat) (va : Addr) (bytes : List Byte) (kind : HostReq)
  | hostRead (package berth : Nat) (va : Addr) (len : Nat)
  -- ferry engines and handles (11)
  | fcopy (h : Hdr) (hn : BitVec 3) (req : Opnd) (follow : Word)
  | fcopyTry (h : Hdr) (hn : BitVec 3) (req : Opnd) (follow : Word)
  | fcopyOn (h : Hdr) (hn : BitVec 3) (req : Opnd) (trig : BitVec 34) (follow : Word)
  | hwait (p : Pred) (on : WaitOn)
  | htest (p : Pred) (hn : BitVec 3) (tok : Bool)
  | hcancel (p : Pred) (hn : BitVec 3)
  | fmark (p : Pred) (ch : NumArg 4)
  | landInit (h : Hdr) (word value : Opnd)
  | landWait (h : Hdr) (word gen : Opnd)
  | shapeFence (p : Pred)
  | ferryTakeRequest (cluster : Nat)
  | ferryBeat (cluster chan : Nat) (tid beat : Nat)
  | ferryBeatCount (cluster chan : Nat) (tid beat : Nat)
  | followOnIssue (cluster chan : Nat) (tid : Nat)
  | beatHoldTimeout (cluster chan : Nat) (tid beat : Nat)
  | remoteTimeout (who : Remote) (performed : Performed)
  -- rings and barriers (13)
  | ringInit (h : Hdr) (ring : BitVec 3) (src : Opnd)
  | ringArrive (p : Pred) (ring : BitVec 3) (nw : Bool)
  | ringStat (p : Pred) (ring : BitVec 3)
  | barInit (p : Pred) (bar : BitVec 5) (src : Opnd)
  | barArrive (p : Pred) (bar : BitVec 5)
  | barWait (p : Pred) (bar : BitVec 5) (src : Opnd)
  | podbar (h : Hdr) (mode : PodMode) (site : BitVec 16)
  | podBarrierComplete (grid : Nat)
  -- matrix arrays (14)
  | mw (h : Hdr) (hn : BitVec 3) (rec : RecAt)
  | mx (h : Hdr) (hn : BitVec 3) (rec : RecAt)
  | mxg (p : Pred) (hn : BitVec 3) (rec : Opnd) (table : Word)
  | mxgAdd (p : Pred) (arr : BitVec 2) (run : Opnd)
  | mxgClose (p : Pred) (arr : BitVec 2)
  | mchain (p : Pred) (hn : BitVec 3) (cfg : ChainCfg)
  | mchainLink (cluster : Nat) (first : Nat)
  | mq (p : Pred) (arr : BitVec 2) (hi : Bool)
  | mstat (p : Pred) (arr : BitVec 2)
  | matrixPassBoundary (cluster head : Nat)
  | matrixOpComplete (cluster head : Nat)
  | pairMatch (cluster : Nat)
  | pairingTimeout (cluster head : Nat)
  | mxgCloseTimeout (cluster head : Nat)
  -- tiles and ranked lists (15)
  | xclr (h : Hdr) (tile : BitVec 4) (sc : ScaleArg)
  | xadd (h : Hdr) (ty : Ty) (tile : BitVec 4) (pos : PosArg) (src : Opnd)
  | xrd (h : Hdr) (ty : Ty) (dst : Opnd) (tile : BitVec 4) (pos : PosArg) (sr : Bool)
  | xscale (p : Pred) (tile : BitVec 4) (sc : ScaleArg)
  | xrankInit (p : Pred) (tile : BitVec 4) (arg : RankArg)
  | xrankIns (h : Hdr) (tile : BitVec 4) (row : NumArg 7) (src : Opnd)
  | xrankMerge (h : Hdr) (tile : BitVec 4) (row : NumArg 7) (src : Opnd)
  | xrankRd (h : Hdr) (dst : Opnd) (tile : BitVec 4) (row : NumArg 7)
  | xthr (p : Pred) (sel : ThrSel)
  -- manifests and grids (17)
  | mfPatch (h : Hdr) (mf : NumArg 12) (word : BitVec 5) (src : Opnd)
  | mfArm (p : Pred) (mf : NumArg 12) (off : Bool)
  | launch (h : Hdr) (mf : NumArg 12) (qov : Bool) (q : BitVec 4)
  | launchInd (h : Hdr) (mf : NumArg 12) (cnt : CountAt)
  | launchTimeout (thread : Nat) (ordered : Performed)
  | gcancel (p : Pred)
  | gabort (p : Pred)
  | gstat (p : Pred) (own : Bool) (sel : Bool)
  | launchOrder (head : Nat)
  | dependenceSatisfied (grid : Nat)
  | indirectCountRead (grid : Nat)
  | dealingStart (grid : Nat)
  | dealRound (grid : Nat)
  | dealReclaim (grid : Nat)
  | groupPlace (package : Nat) (part : Nat)
  | forkSteal (thread : Nat)
  | groupRetire (group : Nat)
  | faultReportArrival (index : Nat)
  | gridComplete (grid : Nat)
  | gridAbortDelivery (grid : Nat) (package : Nat)
  | gridAdrift (grid : Nat)
  -- pre-emption (09)
  | preemption (group : Nat)
  | drainLimitExpiry (group : Nat)
  | groupRestore (group : Nat) (cluster : Nat)
  -- the wake (19)
  | wsel (p : Pred) (slot : BitVec 16) (nvM1 : BitVec 3) (disp : BitVec 34)
  | wbr (p : Pred) (slot : BitVec 16) (thr : BitVec 8) (disp : BitVec 34)
  | wpf (p : Pred) (slot : BitVec 16) (tgt : CacheTgt) (n : BitVec 3) (m : MemMode) (unit : BitVec 24)
  | wunr (p : Pred) (ty : Ty) (src : Opnd) (w : Bool) (slot : BitVec 16) (umax : BitVec 2)
  | wrd (p : Pred) (slot : BitVec 16)
  | wnote (p : Pred) (ty : Ty) (kind : SiteKind) (src : Opnd) (slot : BitVec 16)
  | wakeUpdatePerform (cluster : Nat)
  | wakeDropFlush (cluster : Nat) (copy : Nat)
  | wakeReadFill (thread : Nat)
  -- traps and system registers (09)
  | trap (p : Pred) (n : BitVec 4)
  | eret (p : Pred)
  | rdsr (p : Pred) (dst : Opnd) (num : BitVec 9)
  | wrsr (p : Pred) (num : BitVec 9) (src : Opnd)
  -- host, berths, Keel (21, 22, 23)
  | crtailDoorbell (package fn : Nat) (tail : Nat) (hostWrites : List (Nat × List Byte))
  | erheadWrite (package fn : Nat) (head : Nat)
  | bar0RegisterWrite (package fn : Nat) (offset : Nat) (value : Word)
  | identify (c : Cmd) (buffer : Nat)
  | attest (c : Cmd) (nonce : List Byte) (buffer : Nat)
  | partCreate (c : Cmd) (slice : SliceArg)
  | partDestroy (c : Cmd) (number : Nat)
  | berthBind (c : Cmd) (berth part region trust cls : Nat)
  | setLimits (c : Cmd) (part : Nat) (drain delay : Nat)
  | fabricConfig (c : Cmd) (arg : FabricArg)
  | regionWrite (c : Cmd) (rcb : RcbArg)
  | regionRemove (c : Cmd) (region : Nat)
  | map (c : Cmd) (req : MapReq)
  | unmap (c : Cmd) (va : Addr) (pages : Nat) (keepRd keepWr : Bool)
  | mfBuild (c : Cmd) (words : List Word)
  | mfRemove (c : Cmd) (mf : Nat)
  | launchCommand (c : Cmd) (mf : Nat)
  | cancel (c : Cmd) (grid : Word)
  | imageLoad (c : Cmd) (address length : Nat)
  | imageUnload (c : Cmd) (handle : Word)
  | copy (c : Cmd) (toDevice : Bool) (host : Nat) (va : Addr) (len : Nat)
  | deckLoad (c : Cmd) (address length : Nat)
  | unknownCommand (c : Cmd) (opc : BitVec 8)
  | frameFree (part : Nat) (frame : Nat)
  | errDomain (part region : Nat) (cause : BitVec 10)
  | functionLevelReset (package berth : Nat)
  | powerOn (package : Nat)
  | packageReset (package : Nat)
  | trainingEnd (package : Nat)
  | powerSample (package : Nat)
  | thermalTrip (package : Nat)
  | pageRetire (package frame : Nat)
  | deckWatchdog (package : Nat)
  | deckHint (package : Nat) (waiting victim : Nat)
  | pldmMonitoring (package sensor : Nat)
  | pldmFirmwareUpdate (package : Nat) (deck : Bool) (bytes : List Byte)
  deriving DecidableEq, Repr

end Sys2Proof
end

