-- ==== Sys2Proof/WellFormed.lean ====
section
/-! DEFINITION. Which instructions the scanner accepts (R22 to R32 and the field tables of each chapter). The slot
count of an image (R30) is the scanner's own argument: `Instr.slotOf` gives the slot that it is held against. -/
namespace Sys2Proof

/-! ### Types (R27) -/

/-- Types 0x0 to 0x7. -/
def Ty.isInt : Ty → Bool
  | .i8 | .i16 | .i32 | .i64 | .ui8 | .ui16 | .ui32 | .ui64 => true
  | _ => false

/-- Types 0x8 to 0xE. -/
def Ty.isFloat : Ty → Bool
  | .f64 | .f32 | .f16 | .bf16 | .f8e4 | .f8e5 | .f4 => true
  | _ => false

/-- Type 0xF. -/
def Ty.isPb : Ty → Bool
  | .pb _ => true
  | _ => false

/-- Bits of one element; a block element of code c has c + 1 bits (R27). -/
def Ty.bits : Ty → Nat
  | .i8 | .ui8 | .f8e4 | .f8e5 => 8
  | .i16 | .ui16 | .f16 | .bf16 => 16
  | .i32 | .ui32 | .f32 => 32
  | .i64 | .ui64 | .f64 => 64
  | .f4 => 4
  | .pb c => c.toNat + 1

/-- Types 0x0 to 0xD (R88). -/
def Ty.scalar (t : Ty) : Bool := t.isInt || (t.isFloat && t != .f4)
/-- Types 0x8 to 0xB (R96). -/
def Ty.fp (t : Ty) : Bool := t == .f64 || t == .f32 || t == .f16 || t == .bf16
/-- Types 0x2, 0x6, 0x9 (R136, R140). -/
def Ty.lane (t : Ty) : Bool := t == .i32 || t == .ui32 || t == .f32
/-- Types 0x2, 0x6. -/
def Ty.laneInt (t : Ty) : Bool := t == .i32 || t == .ui32
/-- Types 0x0-0x2, 0x4-0x6, 0x9-0xD: the elements of gathers and broadcasts (R140). -/
def Ty.elem (t : Ty) : Bool := t.scalar && t != .i64 && t != .ui64 && t != .f64
/-- Types of `vld` and `vst` (R140); code 0 of a block type is reserved and it exists only in the M form (R27). -/
def Ty.vmem (t : Ty) (f : Form) : Bool :=
  match t with
  | .pb c => c != 0 && f == .M
  | t => t.elem || t == .f4
/-- Destination types of `vcvt` (R140). -/
def Ty.cvtDst (t : Ty) : Bool := t.laneInt || (t.isFloat && t != .f64)

/-! ### Operand classes (R23, R88, R135) -/

def Opnd.isMem : Opnd → Bool
  | .mem _ _ => true
  | _ => false
def Opnd.isImm : Opnd → Bool
  | .imm _ => true
  | _ => false
def MemMode.isDisp : MemMode → Bool
  | .disp _ => true
  | _ => false
def Opnd.isDisp : Opnd → Bool
  | .mem _ m => m.isDisp
  | _ => false
/-- Modes 100 and 110: extended operands (R24). -/
def Opnd.isExt (o : Opnd) : Bool := o.isImm || o.isDisp
/-- A source of R88. -/
def Opnd.src (o : Opnd) : Bool := o != .va
/-- A destination of R88. -/
def Opnd.dst (o : Opnd) : Bool := o.isMem || o == .a
/-- Memory modes 000 to 011. -/
def Opnd.mem3 (o : Opnd) : Bool := o.isMem && !o.isDisp
/-- A vector source (R135). -/
def Opnd.vsrc (o : Opnd) : Bool := o.isMem || o == .va || o == .a || o.isImm
/-- A vector destination (R135). -/
def Opnd.vdst (o : Opnd) : Bool := o.isMem || o == .va
/-- A memory operand, an immediate or `a` (R100, R140). -/
def Opnd.mia (o : Opnd) : Bool := o.isMem || o == .a || o.isImm
def Opnd.isPtr : Opnd → Bool
  | .ptr _ => true
  | _ => false

/-! ### Extended operands (R24, R25) -/

/-- How an immediate is read (R25). -/
inductive ImmTy where
  | int
  | float (bits : Nat)
  | none
  deriving DecidableEq, Repr

/-- How an immediate of a type is read (R25). -/
def Ty.immTy (t : Ty) : ImmTy :=
  match t with
  | .pb _ => .none
  | t => if t.isInt then .int else .float t.bits

/-- v is the sign extension of its low n bits. -/
def fitsSigned (n : Nat) (v : Word) : Bool := decide ((v.setWidth n).signExtend 64 = v)

/-- v may stand as an immediate in a field of w bits (R25). -/
def immFits (k : ImmTy) (w : Nat) (v : Word) : Bool :=
  match k with
  | .int => fitsSigned w v
  | .float b => decide (v.toNat < 2 ^ b) && (w == 64 || (b ≤ 32 && fitsSigned w v))
  | .none => false

/-- The extension value of o fits a field of w bits. -/
def Opnd.fits (k : ImmTy) (w : Nat) : Opnd → Bool
  | .mem _ (.disp d) => fitsSigned w d
  | .imm v => immFits k w v
  | _ => true

/-- A second extended operand stands in X15, which holds no floating-point immediate (R25). -/
def Opnd.fitsX15 (k : ImmTy) (o : Opnd) : Bool := o.fits k 15 && (!o.isImm || k == .int)

/-- The allotment of R24 for the operands o1 and o2 in form f: `w` bits stand where R24 speaks of X34, `two` says
that X15 may take a second one, `k` is how an immediate outside X64 is read and `kl` how one in X64 is. -/
def extOk (k kl : ImmTy) (w : Nat) (two : Bool) (f : Form) (o1 o2 : Opnd) : Bool :=
  match f with
  | .S => !o1.isDisp && !o2.isDisp && !(o1.isImm && o2.isImm) && o1.fits k w && o2.fits k w
  | .M =>
    if o1.isExt && o2.isExt then two && o1.fits k w && o2.fitsX15 k
    else o1.fits k w && o2.fits k w
  | .L =>
    !(o1.isImm && o2.isImm) && !(o1.isDisp && o2.isDisp) &&
      o1.fits kl (if o1.isImm then 64 else w) && o2.fits kl (if o2.isImm then 64 else w)

/-- Two operands of type t, both extensions allowed. -/
def extOk2 (t : Ty) (f : Form) (o1 o2 : Opnd) : Bool := extOk t.immTy t.immTy 34 true f o1 o2

/-- One operand, of a type k, with its extension in X34 (X64 in the L form). -/
def extOk1 (k : ImmTy) (f : Form) (o : Opnd) : Bool := extOk k k 34 false f o .a

/-! ### Header fields -/

/-- S, M and L forms (R31). -/
def Form.sm (f : Form) : Bool := f != .L
def Form.ml (f : Form) : Bool := f != .S

/-- PRED 00 to 10. -/
def Pred.plain (p : Pred) : Bool := p != .th

/-- W and SLOT stand in the M form only (R30). -/
def siteOk (f : Form) (site : BitVec 16) : Bool := f == .M || site == 0

/-- ORD and SCOPE (R29): a plain access holds scope 0, a qualifier stands in the M form. -/
def Qual.ok (q : Qual) (f : Form) (acq rel ar : Bool) : Bool :=
  match q.ord with
  | .plain => q.scope == .co
  | .acq => acq && f == .M
  | .rel => rel && f == .M
  | .ar => ar && f == .M

/-- S = 1 asks for a negative displacement (R101). -/
def backOk (s : Bool) (disp : BitVec 34) : Bool := !s || disp.msb

/-- A memory operand of a group 0x9 instruction, of `vxsum` or of a range instruction: X34 holds control, so a
displacement takes X15, in the M form (R177, R352). -/
def disp15 (f : Form) (o : Opnd) : Bool := !o.isDisp || (f == .M && o.fits .none 15)

/-- A register or control field that may come from `a` (R386). -/
def NumArg.isAcc {w : Nat} : NumArg w → Bool
  | .acc => true
  | _ => false

/-- A range (R177); ALL and each target as the instruction allows. -/
def Range.ok (r : Range) (f : Form) : Bool :=
  match r with
  | .all => f.sm
  | .bytes n m _ =>
    (m == .ind || m == .postInc || m.isDisp) && f.sm && disp15 f (.mem n m)

/-- Group 0x1 two-operand instructions (R88). -/
def arithOk (h : Hdr) (t : Ty) (dst src : Opnd) : Bool :=
  t.isInt && dst.dst && src.src && extOk2 t h.form dst src

/-- Group 0x2 two-operand instructions (R96). -/
def fpOk (h : Hdr) (t : Ty) (dst src : Opnd) : Bool :=
  t.fp && dst.dst && src.src && extOk2 t h.form dst src

/-- Group 0x4 two-operand instructions (R136), and those of group 0x5 with the same classes. -/
def vecOk (h : Hdr) (t : Ty) (dst src : Opnd) : Bool :=
  h.form.sm && h.pred.plain && dst.vdst && src.vsrc && extOk2 t h.form dst src

/-- A conversion (R99, R146): its control field stands in X34 (S) or X15 (M). -/
def cvtExtOk (k : ImmTy) (f : Form) (dst src : Opnd) : Bool :=
  match f with
  | .S => !dst.isExt && !src.isExt
  | .M => extOk k k 34 false .M dst src
  | .L => false

/-- An atomic's target and source (R205). -/
def amoOk (h : Hdr) (q : Qual) (k : ImmTy) (tgt src : Opnd) : Bool :=
  h.form.sm && h.pred.plain && q.ok h.form true true true && tgt.isMem && src.src &&
    extOk k k 34 false h.form tgt src

/-- Whether i is an instruction under R32, SLOT aside. An internal or host step has no word. -/
def Instr.wf : Instr → Bool
  | .nop _ => true
  | .yield p | .halt p => p.plain
  | .enq h ty _ src => h.form.sm && h.pred.plain && ty.isInt && src.src && extOk1 ty.immTy h.form src
  | .deq h ty dst _ => h.form.sm && h.pred.plain && ty.isInt && (dst.dst || dst.isPtr) && extOk1 .none h.form dst
  | .qlink p _ bk => p.plain && (bk == 0 || decide (4 ≤ bk.toNat))
  | .fork h _ _ site | .join h _ _ site => h.form.sm && h.pred.plain && siteOk h.form site
  | .tow _ | .cast => true
  | .br h s d site => h.form.sm && h.pred.plain && backOk s d && siteOk h.form site
  | .bc h _ s d site => h.form.sm && h.pred.plain && backOk s d && siteOk h.form site
  | .call h tgt _ =>
    h.pred.plain &&
      (match tgt with
        | .rel _ => h.form.sm
        | .abs _ => h.form == .L
        | .ptr _ => h.form.sm
        | .mem n m => h.form.sm && extOk1 .none h.form (.mem n m))
  | .ret p _ => p.plain
  | .jmp h tgt =>
    h.pred.plain &&
      (match tgt with
        | .ptr _ => h.form == .S
        | .mem _ m => h.form == .S && !m.isDisp
        | .abs _ => h.form == .L)
  | .loop h s d site => h.form.sm && h.pred.plain && backOk s d && siteOk h.form site
  | .ldlc h ty src => h.pred.plain && ty.isInt && src.src && extOk1 ty.immTy h.form src
  | .lda h ty q src site =>
    ty.scalar && q.ok h.form true false false && src.src && siteOk h.form site && extOk1 ty.immTy h.form src
  | .sta h ty q dst src =>
    ty.scalar && q.ok h.form false true false && dst.isMem && src.src &&
      extOk ty.immTy ty.immTy 34 false h.form dst src
  | .add h t d s | .sub h t d s | .mul h t d s | .mulh h t d s | .div h t d s | .rem h t d s | .and h t d s
  | .or h t d s | .xor h t d s | .shl h t d s | .shr h t d s | .sar h t d s | .min h t d s | .max h t d s =>
    arithOk h t d s
  | .neg h t d s | .not h t d s | .clz h t d s | .popc h t d s => h.form.sm && arithOk h t d s
  | .cmp h t _ s1 s2 | .tst h t _ s1 s2 =>
    t.isInt && s1.src && s2.src && extOk t.immTy t.immTy 30 true h.form s1 s2
  | .sel h t s1 s2 => t.isInt && s1.src && s2.src && extOk2 t h.form s1 s2
  | .ext h t src => h.form.sm && h.pred.plain && t.isInt && src.src && extOk2 t h.form src .a
  | .fadd h t d s | .fsub h t d s | .fmul h t d s | .fdiv h t d s | .fmin h t d s | .fmax h t d s => fpOk h t d s
  | .fsqrt h t d s => h.form.sm && fpOk h t d s
  | .ffma h t s1 s2 => t.fp && s1.src && s2.src && extOk2 t h.form s1 s2
  | .fcmp h t cond s1 s2 =>
    t.fp && decide (cond.toNat < 8) && s1.src && s2.src &&
      extOk (if t == .f32 then .none else t.immTy) t.immTy 30 true h.form s1 s2
  | .fcvt h dty d s sty _ =>
    h.form.sm && dty.scalar && sty.scalar && d.dst && s.src && cvtExtOk sty.immTy h.form d s
  | .lp h _ src => h.form.sm && h.pred.plain && src.isMem && extOk1 .none h.form src
  | .stp h dst _ => h.form.sm && h.pred.plain && dst.isMem && extOk1 .none h.form dst
  | .padd h _ src => h.pred.plain && src.mia && extOk1 .int h.form src
  | .pset h _ src => h.pred.plain && (src.isImm || src == .a) && extOk1 .int h.form src
  | .pmov p _ _ => p.plain
  | .vadd h t d s | .vsub h t d s | .vmul h t d s | .vmin h t d s | .vmax h t d s | .vmov h t d s =>
    t.lane && vecOk h t d s
  | .vfma h s1 s2 => h.form.sm && h.pred.plain && s1.vsrc && s2.vsrc && extOk2 .f32 h.form s1 s2
  | .vabs h t d s | .vneg h t d s => (t == .i32 || t == .f32) && vecOk h t d s
  | .vand h t d s | .vor h t d s | .vxor h t d s | .vshl h t d s | .vshr h t d s => t.laneInt && vecOk h t d s
  | .vld h t q src site =>
    h.form.sm && h.pred.plain && t.vmem h.form && q.ok h.form true false false && src.isMem &&
      siteOk h.form site && extOk1 .none h.form src
  | .vst h t q dst _ =>
    h.form.sm && h.pred.plain && t.vmem h.form && q.ok h.form false true false && dst.isMem &&
      extOk1 .none h.form dst
  | .vldx h t _ site => h.form.sm && h.pred.plain && t.elem && siteOk h.form site
  | .vstx h t _ src =>
    h.form.sm && h.pred.plain && t.elem && src.mia && extOk1 (if t.isInt then .int else .float 32) h.form src
  | .vbc h t src => h.form.sm && h.pred.plain && t.elem && src.mia && extOk1 t.immTy h.form src
  | .vcmp h t cond _ s1 s2 =>
    h.form.sm && h.pred.plain && t.lane && decide (cond.toNat < if t == .f32 then 8 else 6) && s1.vsrc && s2.vsrc &&
      extOk (if t == .f32 then .none else .int) .none 29 true h.form s1 s2
  | .vsel h t s1 s2 =>
    h.form.sm && h.pred.plain && t.lane && s1.vsrc && s2.vsrc && extOk2 t h.form s1 s2
  | .vcvt h dty d s sty _ =>
    h.form.sm && h.pred.plain && dty.cvtDst && sty.lane && d.vdst && s.vsrc && cvtExtOk sty.immTy h.form d s
  | .vperm h src => h.form.sm && h.pred.plain && src.vsrc && extOk1 .int h.form src
  | .vrcp h d s | .vrsq h d s | .vexp2 h d s | .vlog2 h d s => vecOk h .f32 d s
  | .vredmax h t src | .vredmin h t src =>
    h.form.sm && h.pred.plain && t.lane && src.vsrc && extOk1 t.immTy h.form src
  | .vxsum h t src fx scale =>
    h.form.sm && h.pred.plain && t.lane && src.vdst && disp15 h.form src &&
      (t == .f32 || (!fx && scale == 0))
  | .pf h _ r => h.pred.plain && r.ok h.form && r != .all
  | .inv h tgt r | .wbk h tgt r => h.pred.plain && r.ok h.form && tgt != .home
  | .tlbinv h r => h.pred.plain && r.ok h.form
  | .bank h _ arg z =>
    h.form.sm && h.pred.plain && (h.form == .M || !z) &&
      (match arg with
        | .imm mode bk => mode != 3 && decide (4 ≤ bk.toNat)
        | .acc => true)
  | .bankq p j =>
    p.plain &&
      (match j with
        | .imm v => decide (v.toNat ≤ 27)
        | .acc => true)
  | .fence p q => p.plain && q.ord != .plain
  | .ifence p => p.plain
  | .ldq h q src => h.form.sm && h.pred.plain && q.ok h.form true false false && src.isMem && extOk1 .none h.form src
  | .stq h q dst => h.form.sm && h.pred.plain && q.ok h.form false true false && dst.isMem && extOk1 .none h.form dst
  | .amoAdd h t q tgt s | .amoAnd h t q tgt s | .amoOr h t q tgt s | .amoXor h t q tgt s | .amoMin h t q tgt s
  | .amoMax h t q tgt s | .amoSwap h t q tgt s => t.isInt && amoOk h q .int tgt s
  | .uadd h t tgt s =>
    (t == .i32 || t == .i64 || t == .ui32 || t == .ui64) && amoOk h ⟨.plain, .co⟩ .int tgt s
  | .cas64 h q tgt s => h.form == .M && amoOk h q .int tgt s
  | .cas128 h q tgt => h.form == .M && amoOk h q .int tgt .a
  | .amoNib h q tgt s => amoOk h q .int tgt s
  | .fcopy h _ req follow | .fcopyTry h _ req follow =>
    h.form.ml && h.pred.plain && req.isMem && extOk1 .none h.form req && (h.form == .L || follow == 0)
  | .fcopyOn h _ req trig _ =>
    h.form == .L && h.pred.plain && req.mem3 && trig.extractLsb' 28 6 == 0 &&
      (!trig.getLsbD 27 || trig.extractLsb' 0 24 == 0)
  | .hwait p on =>
    p.plain &&
      (match on with
        | .handle _ => true
        | .token src => src == .a || src.mem3)
  | .htest p _ _ | .hcancel p _ | .fmark p _ | .shapeFence p => p.plain
  | .landInit h w v | .landWait h w v =>
    h.form.sm && h.pred.plain && w.isMem && v.src && extOk .int .int 34 true h.form w v
  | .ringInit h _ src => h.form.ml && h.pred.plain && src.mia && extOk1 .int h.form src
  | .ringArrive p _ _ | .ringStat p _ | .barArrive p _ => p.plain
  | .barInit p _ src | .barWait p _ src => p.plain && (src == .a || src.isImm) && extOk1 .int .S src
  | .podbar h _ site => h.form.sm && h.pred.plain && siteOk h.form site
  | .mw h _ rec | .mx h _ rec =>
    h.pred.plain &&
      (match rec with
        | .mem n m => h.form == .M && extOk1 .none .M (.mem n m)
        | .abs _ => h.form == .L)
  | .mxg p _ rec _ => p.plain && rec.isMem && extOk1 .none .L rec
  | .mxgAdd p _ run => p.plain && run.isMem && extOk1 .none .M run
  | .mxgClose p _ | .mchain p _ _ | .mq p _ _ | .mstat p _ => p.plain
  | .xclr h _ _ => h.form.sm && h.pred.plain
  | .xadd h t _ _ src => h.form.sm && h.pred.plain && t.lane && src.vdst && disp15 h.form src
  | .xrd h t dst _ pos sr =>
    h.form.sm && h.pred.plain && dst.vdst && (if dst == .va then t.lane else t.vmem h.form) &&
      disp15 h.form dst && !(t.isPb && dst.isDisp) && !(pos == .acc && sr)
  | .xscale p _ _ => p.plain
  | .xrankInit p _ arg =>
    p.plain &&
      (match arg with
        | .imm k _ => k != 6
        | .acc => true)
  | .xrankIns h _ row src =>
    h.form.sm && h.pred.plain && src.dst && disp15 h.form src && !(row.isAcc && src == .a)
  | .xrankMerge h _ _ src => h.form.sm && h.pred.plain && src.isMem && disp15 h.form src
  | .xrankRd h dst _ _ => h.form.sm && h.pred.plain && dst.dst && disp15 h.form dst
  | .xthr p _ => p.plain
  | .mfPatch h mf _ src =>
    h.pred.plain && !(mf.isAcc && src == .a) &&
      (match h.form with
        | .S => src == .a || src.isPtr || src.mem3
        | .M => src.src && src.fits .int 15
        | .L => src.isImm)
  | .mfArm p _ _ => p.plain
  | .launch h _ qov q => h.form.sm && h.pred.plain && (h.form == .M || (!qov && q == 0))
  | .launchInd h _ cnt =>
    h.pred.plain &&
      (match cnt with
        | .mem n m => h.form == .M && disp15 .M (.mem n m)
        | .abs _ => h.form == .L)
  | .gcancel p | .gabort p | .gstat p _ _ => p.plain
  | .wsel p slot nv _ => p.plain && slot != 0 && nv != 0
  | .wbr p slot thr _ => p.plain && slot != 0 && thr != 0
  | .wpf p slot _ n m _ =>
    p.plain && slot != 0 && (m == .ind || m == .postInc || m.isDisp) && disp15 .M (.mem n m)
  | .wunr p t src _ slot _ => p.plain && slot != 0 && t.isInt && src.src && extOk1 .int .M src
  | .wrd p _ => p.plain
  | .wnote p t _ src slot => p.plain && slot != 0 && t.isInt && src.src && extOk1 .int .M src
  | .trap p _ | .eret p => p.plain
  | .rdsr p dst _ => p.plain && (dst == .a || dst.mem3)
  | .wrsr p _ src => p.plain && (src == .a || src.isPtr || src.mem3)
  | .prefetchLineLookup _ | .bankSwitchComplete _ _ | .walkStart _ _ | .walkComplete _ _ _ | .l1Drop _ _
  | .nearCacheAccept _ | .nearCacheRead _ | .nearCacheWriteback _ _ | .nearCacheDrop _ _ | .send _ | .deliver _ _
  | .strip _ _ | .merge _ _ | .hostWrite _ _ _ _ _ | .hostRead _ _ _ _ | .ferryTakeRequest _ | .ferryBeat _ _ _ _
  | .ferryBeatCount _ _ _ _ | .followOnIssue _ _ _ | .beatHoldTimeout _ _ _ _ | .remoteTimeout _ _
  | .podBarrierComplete _ | .mchainLink _ _ | .matrixPassBoundary _ _ | .matrixOpComplete _ _ | .pairMatch _
  | .pairingTimeout _ _ | .mxgCloseTimeout _ _ | .launchTimeout _ _ | .launchOrder _ | .dependenceSatisfied _
  | .indirectCountRead _ | .dealingStart _ | .dealRound _ | .dealReclaim _ | .groupPlace _ _ | .forkSteal _
  | .groupRetire _ | .faultReportArrival _ | .gridComplete _ | .gridAbortDelivery _ _ | .gridAdrift _
  | .preemption _ | .drainLimitExpiry _ | .groupRestore _ _ | .wakeUpdatePerform _ | .wakeDropFlush _ _
  | .wakeReadFill _ | .crtailDoorbell _ _ _ _ | .erheadWrite _ _ _ | .bar0RegisterWrite _ _ _ _ | .identify _ _
  | .attest _ _ _ | .partCreate _ _ | .partDestroy _ _ | .berthBind _ _ _ _ _ _ | .setLimits _ _ _ _
  | .fabricConfig _ _ | .regionWrite _ _ | .regionRemove _ _ | .map _ _ | .unmap _ _ _ _ _ | .mfBuild _ _
  | .mfRemove _ _ | .launchCommand _ _ | .cancel _ _ | .imageLoad _ _ _ | .imageUnload _ _ | .copy _ _ _ _ _
  | .deckLoad _ _ _ | .unknownCommand _ _ | .frameFree _ _ | .errDomain _ _ _ | .functionLevelReset _ _
  | .powerOn _ | .packageReset _ | .trainingEnd _ | .powerSample _ | .thermalTrip _ | .pageRetire _ _
  | .deckWatchdog _ | .deckHint _ _ _ | .pldmMonitoring _ _ | .pldmFirmwareUpdate _ _ _ => false

/-- The wake slot that an instruction names; 0 for none. R30 holds it against the image's slot count. -/
def Instr.slotOf : Instr → BitVec 16
  | .fork _ _ _ s | .join _ _ _ s | .br _ _ _ s | .bc _ _ _ _ s | .loop _ _ _ s | .lda _ _ _ _ s | .vld _ _ _ _ s
  | .vldx _ _ _ s | .podbar _ _ s | .wsel _ s _ _ | .wbr _ s _ _ | .wpf _ s _ _ _ _ | .wunr _ _ _ _ s _ | .wrd _ s
  | .wnote _ _ _ _ s => s
  | _ => 0

end Sys2Proof
end

