-- ==== Sys2Proof/Decode.lean ====
section
/-! DEFINITION. The words of R18 to R31 and of each chapter's field table: the encoder, and the decoder, which accepts
a word exactly when it is the encoding of a well-formed instruction (R32). -/
namespace Sys2Proof

/-- The fields of R22; those that a form does not have are 0. -/
structure Fields where
  form : Form
  opc : BitVec 10
  pred : BitVec 2 := 0
  opa : BitVec 6 := 0
  opb : BitVec 6 := 0
  ty : BitVec 4 := 0
  x34 : BitVec 34 := 0
  slot : BitVec 16 := 0
  w : BitVec 1 := 0
  x15 : BitVec 15 := 0
  x64 : BitVec 64 := 0
  deriving DecidableEq, Repr

/-- Why a word is no instruction (R32). -/
inductive DecodeError where
  /-- fewer bytes than the length code asks for -/
  | truncated
  /-- LEN 0b00: a gap word, or a non-instruction word -/
  | lengthZero
  /-- OPC is not assigned -/
  | unassigned (opc : BitVec 10)
  /-- a field holds a value that the map of OPC in this form does not permit -/
  | illegalField (opc : BitVec 10)
  deriving DecidableEq, Repr

/-! ### Codes -/

def Form.len : Form → BitVec 2
  | .S => 1 | .M => 2 | .L => 3

/-- Length in bytes (R18). -/
def Form.bytes : Form → Nat
  | .S => 8 | .M => 12 | .L => 16

def Pred.code : Pred → BitVec 2
  | .always => 0 | .own => 1 | .nown => 2 | .th => 3

def Pred.ofCode (c : BitVec 2) : Pred :=
  if c = 0 then .always else if c = 1 then .own else if c = 2 then .nown else .th

/-- TYPE (R27). -/
def Ty.code : Ty → BitVec 4
  | .i8 => 0 | .i16 => 1 | .i32 => 2 | .i64 => 3 | .ui8 => 4 | .ui16 => 5 | .ui32 => 6 | .ui64 => 7
  | .f64 => 8 | .f32 => 9 | .f16 => 10 | .bf16 => 11 | .f8e4 => 12 | .f8e5 => 13 | .f4 => 14 | .pb _ => 15

/-- PBW (R27). -/
def Ty.pbw : Ty → BitVec 3
  | .pb c => c
  | _ => 0

def Ty.ofCode (c : BitVec 4) (pbw : BitVec 3) : Ty :=
  match c.toNat with
  | 0 => .i8 | 1 => .i16 | 2 => .i32 | 3 => .i64 | 4 => .ui8 | 5 => .ui16 | 6 => .ui32 | 7 => .ui64
  | 8 => .f64 | 9 => .f32 | 10 => .f16 | 11 => .bf16 | 12 => .f8e4 | 13 => .f8e5 | 14 => .f4 | _ => .pb pbw

def Ord.code : Ord → BitVec 2
  | .plain => 0 | .acq => 1 | .rel => 2 | .ar => 3

def Ord.ofCode (c : BitVec 2) : Ord :=
  if c = 0 then .plain else if c = 1 then .acq else if c = 2 then .rel else .ar

def Scope.code : Scope → BitVec 3
  | .co => 0 | .cl => 1 | .di => 2 | .pk => 3 | .dm => 4 | .pd => 5

/-- Codes 6 and 7 are reserved (R29). -/
def Scope.ofCode (c : BitVec 3) : Option Scope :=
  match c.toNat with
  | 0 => some .co | 1 => some .cl | 2 => some .di | 3 => some .pk | 4 => some .dm | 5 => some .pd | _ => none

def Rm.code : Rm → BitVec 2
  | .rne => 0 | .rz => 1 | .rdn => 2 | .rup => 3

def Rm.ofCode (c : BitVec 2) : Rm :=
  if c = 0 then .rne else if c = 1 then .rz else if c = 2 then .rdn else .rup

def MemMode.code : MemMode → BitVec 3
  | .ind => 0 | .postInc => 1 | .postStride => 2 | .preDec => 3 | .disp _ => 4

def CacheTgt.code : CacheTgt → BitVec 2
  | .l1 => 0 | .nc => 1 | .home => 2

def CacheTgt.ofCode (c : BitVec 2) : Option CacheTgt :=
  match c.toNat with
  | 0 => some .l1 | 1 => some .nc | 2 => some .home | _ => none

def SiteKind.code : SiteKind → BitVec 15
  | .branch => 0 | .load => 1 | .loop => 2

def SiteKind.ofCode (c : BitVec 15) : Option SiteKind :=
  match c.toNat with
  | 0 => some .branch | 1 => some .load | 2 => some .loop | _ => none

def PodMode.code : PodMode → BitVec 34
  | .both => 0 | .arrive => 1 | .wait => 2

def PodMode.ofCode (c : BitVec 34) : Option PodMode :=
  match c.toNat with
  | 0 => some .both | 1 => some .arrive | 2 => some .wait | _ => none

/-- The 6-bit specifier of an operand (R23). -/
def Opnd.spec : Opnd → BitVec 6
  | .mem n m => n ++ m.code
  | .ptr n => n ++ (5 : BitVec 3)
  | .imm _ => 6
  | .a => 7
  | .va => 15

/-- The memory mode of a code with its displacement. -/
def MemMode.ofCode (c : BitVec 3) (d : Word) : Option MemMode :=
  match c.toNat with
  | 0 => some .ind | 1 => some .postInc | 2 => some .postStride | 3 => some .preDec | 4 => some (.disp d) | _ => none

/-- The operand of a specifier, its extension value given (R23). -/
def Opnd.ofSpec (s : BitVec 6) (v : Word) : Option Opnd :=
  let n := s.extractLsb' 3 3
  match (s.extractLsb' 0 3).toNat with
  | 5 => some (.ptr n)
  | 6 => if n = 0 then some (.imm v) else none
  | 7 => if n = 0 then some .a else if n = 1 then some .va else none
  | _ => (MemMode.ofCode (s.extractLsb' 0 3) v).map (.mem n)

/-- The extension value of an operand (R24). -/
def Opnd.extVal : Opnd → Word
  | .mem _ (.disp d) => d
  | .imm v => v
  | _ => 0

/-- The extension values of two operands as R24 allots them: in place of X34, in X15, in X64. -/
structure Ext where
  lo : Word
  x15 : Word
  x64 : Word

def allot (f : Form) (o1 o2 : Opnd) : Ext :=
  match f with
  | .S => if o1.isExt then ⟨o1.extVal, 0, 0⟩ else ⟨o2.extVal, 0, 0⟩
  | .M =>
    if o1.isExt then ⟨o1.extVal, if o2.isExt then o2.extVal else 0, 0⟩
    else ⟨o2.extVal, 0, 0⟩
  | .L =>
    ⟨if o1.isDisp then o1.extVal else if o2.isDisp then o2.extVal else 0, 0,
     if o1.isImm then o1.extVal else if o2.isImm then o2.extVal else 0⟩

/-! ### The encoder -/

/-- Two operands under R24. -/
def enc2 (opc : BitVec 10) (h : Hdr) (ty : BitVec 4) (o1 o2 : Opnd) : Fields :=
  let e := allot h.form o1 o2
  { form := h.form, opc := opc, pred := h.pred.code, opa := o1.spec, opb := o2.spec, ty := ty,
    x34 := e.lo.setWidth 34, x15 := e.x15.setWidth 15, x64 := e.x64 }

/-- One operand in OPA, OPB given. -/
def encA (opc : BitVec 10) (h : Hdr) (ty : BitVec 4) (o : Opnd) (opb : BitVec 6) : Fields :=
  { enc2 opc h ty o .a with opb := opb }

/-- One operand in OPB, OPA given. -/
def encB (opc : BitVec 10) (h : Hdr) (ty : BitVec 4) (opa : BitVec 6) (o : Opnd) : Fields :=
  { enc2 opc h ty .a o with opa := opa }

/-- SCOPE and ORD with PBW (R22). -/
def Qual.x15 (q : Qual) (pbw : BitVec 3) : BitVec 15 := q.scope.code ++ q.ord.code ++ (0 : BitVec 7) ++ pbw

def Fields.withQual (f : Fields) (q : Qual) (pbw : BitVec 3) : Fields := { f with x15 := q.x15 pbw }

/-- W and SLOT of a site (R30). -/
def Fields.withSite (f : Fields) (site : BitVec 16) : Fields :=
  { f with slot := site, w := if site = 0 then 0 else 1 }

/-- E30 or E29 with its low control bits. -/
def Fields.withLow (f : Fields) (w : Nat) (lo : Word) (ctl : BitVec 34) : Fields :=
  { f with x34 := (lo.setWidth 34 <<< (34 - w)) ||| ctl }

/-- No operand, X34 given. -/
def encCtl (opc : BitVec 10) (h : Hdr) (opa opb : BitVec 6) (x34 : BitVec 34) : Fields :=
  { form := h.form, opc := opc, pred := h.pred.code, opa := opa, opb := opb, x34 := x34 }

def encS (opc : BitVec 10) (p : Pred) (opa opb : BitVec 6) (x34 : BitVec 34) : Fields :=
  encCtl opc ⟨.S, p⟩ opa opb x34

/-- A displacement in X15. -/
def Fields.withDisp15 (f : Fields) (o : Opnd) : Fields := { f with x15 := f.x15 ||| o.extVal.setWidth 15 }

/-- The byte-range map (R177). -/
def encRange (opc : BitVec 10) (h : Hdr) (tgt : CacheTgt) (r : Range) : Fields :=
  match r with
  | .all => encCtl opc h 0 0 (tgt.code ++ (1 : BitVec 1) ++ (0 : BitVec 31))
  | .bytes n m (.nb k) =>
    (encCtl opc h (Opnd.mem n m).spec 0 (tgt.code ++ (0 : BitVec 8) ++ k)).withDisp15 (.mem n m)
  | .bytes n m .acc =>
    (encCtl opc h (Opnd.mem n m).spec 7 (tgt.code ++ (0 : BitVec 32))).withDisp15 (.mem n m)

/-- The conversion control of `fcvt` and `vcvt` (R99, R146). -/
def encCvt (opc : BitVec 10) (h : Hdr) (dty : Ty) (dst src : Opnd) (sty : Ty) (rm : Rm) : Fields :=
  let c : BitVec 6 := rm.code ++ sty.code
  let f := enc2 opc h dty.code dst src
  match h.form with
  | .S => { f with x34 := c.setWidth 34 }
  | _ => { f with x15 := c.setWidth 15 }

/-- A position (R352). -/
def PosArg.code : PosArg → BitVec 11
  | .imm row cg => (0 : BitVec 1) ++ row ++ cg
  | .acc => 0x400

/-- PA and ROW of a list instruction (R352). -/
def rowCode : NumArg 7 → BitVec 34
  | .imm r => r.setWidth 34
  | .acc => 0x80

/-- A manifest index with CA at bit c (R386). -/
def mfCode (c : Nat) : NumArg 12 → BitVec 34
  | .imm m => m.setWidth 34
  | .acc => 1 <<< c

def encScale (opc : BitVec 10) (h : Hdr) (tile : BitVec 4) : ScaleArg → Fields
  | .imm s => encCtl opc h (tile.setWidth 6) 6 (s.signExtend 34)
  | .acc => encCtl opc h (tile.setWidth 6) 7 0
  | .none => encCtl opc h (tile.setWidth 6) 0 0

def boolBit (b : Bool) : BitVec 1 := if b then 1 else 0

def ptrSpec (n : BitVec 3) : BitVec 6 := n ++ (5 : BitVec 3)

/-- The branch instructions (R101). -/
def encBr (opc : BitVec 10) (h : Hdr) (ty : BitVec 4) (opa opb : BitVec 6) (disp : BitVec 34) (site : BitVec 16) :
    Fields :=
  { encCtl opc h opa opb disp with ty := ty }.withSite site

/-- The fields of an instruction. An internal or host step has no word: it gets the gap word's fields. -/
def encode : Instr → Fields
  | .nop f => encCtl 0x000 ⟨f, .always⟩ 0 0 0
  | .yield p => encS 0x001 p 0 0 0
  | .halt p => encS 0x002 p 0 0 0
  | .enq h t q src => encA 0x003 h t.code src (q.setWidth 6)
  | .deq h t dst q => encA 0x004 h t.code dst (q.setWidth 6)
  | .qlink p q bank => encS 0x005 p 6 (q.setWidth 6) (bank.setWidth 34)
  | .fork h d c s => encBr 0x006 h 0 (Opnd.mem c .ind).spec 0 d s
  | .join h c d s => encBr 0x007 h 0 (Opnd.mem c .ind).spec 0 d s
  | .tow n => encS 0x008 .always 6 0 (n.setWidth 34)
  | .cast => encS 0x009 .always 0 0 0
  | .br h s d site => encBr 0x00A h 0 0 ((boolBit s).setWidth 6) d site
  | .bc h c s d site => encBr 0x00B h c 0 ((boolBit s).setWidth 6) d site
  | .call h tgt link =>
    let l := (Opnd.mem link .preDec).spec
    match tgt with
    | .rel d => encCtl 0x00C h l 6 d
    | .abs x => { encCtl 0x00C h l 6 0 with x64 := x }
    | .ptr n => encCtl 0x00C h l (ptrSpec n) 0
    | .mem n m => encB 0x00C h 0 l (.mem n m)
  | .ret p link => encS 0x00D p (Opnd.mem link .postInc).spec 0 0
  | .jmp h tgt =>
    match tgt with
    | .ptr n => encCtl 0x00E h (ptrSpec n) 0 0
    | .mem n m => encCtl 0x00E h (Opnd.mem n m).spec 0 0
    | .abs x => { encCtl 0x00E h 6 0 0 with x64 := x }
  | .loop h s d site => encBr 0x00F h 0 0 ((boolBit s).setWidth 6) d site
  | .ldlc h t src => encA 0x010 h t.code src 0
  | .lda h t q src site => ((encB 0x040 h t.code 7 src).withQual q 0).withSite site
  | .sta h t q dst src => (enc2 0x041 h t.code dst src).withQual q 0
  | .add h t d s => enc2 0x042 h t.code d s
  | .sub h t d s => enc2 0x043 h t.code d s
  | .mul h t d s => enc2 0x044 h t.code d s
  | .mulh h t d s => enc2 0x045 h t.code d s
  | .div h t d s => enc2 0x046 h t.code d s
  | .rem h t d s => enc2 0x047 h t.code d s
  | .and h t d s => enc2 0x048 h t.code d s
  | .or h t d s => enc2 0x049 h t.code d s
  | .xor h t d s => enc2 0x04A h t.code d s
  | .shl h t d s => enc2 0x04B h t.code d s
  | .shr h t d s => enc2 0x04C h t.code d s
  | .sar h t d s => enc2 0x04D h t.code d s
  | .min h t d s => enc2 0x04E h t.code d s
  | .max h t d s => enc2 0x04F h t.code d s
  | .neg h t d s => enc2 0x050 h t.code d s
  | .not h t d s => enc2 0x051 h t.code d s
  | .clz h t d s => enc2 0x052 h t.code d s
  | .popc h t d s => enc2 0x053 h t.code d s
  | .cmp h t c s1 s2 => (enc2 0x054 h t.code s1 s2).withLow 30 (allot h.form s1 s2).lo (c.setWidth 34)
  | .tst h t c s1 s2 => (enc2 0x055 h t.code s1 s2).withLow 30 (allot h.form s1 s2).lo (c.setWidth 34)
  | .sel h t s1 s2 => enc2 0x056 h t.code s1 s2
  | .ext h t src => encA 0x057 h t.code src 0
  | .fadd h t d s => enc2 0x080 h t.code d s
  | .fsub h t d s => enc2 0x081 h t.code d s
  | .fmul h t d s => enc2 0x082 h t.code d s
  | .fdiv h t d s => enc2 0x083 h t.code d s
  | .fsqrt h t d s => enc2 0x084 h t.code d s
  | .ffma h t s1 s2 => enc2 0x085 h t.code s1 s2
  | .fmin h t d s => enc2 0x086 h t.code d s
  | .fmax h t d s => enc2 0x087 h t.code d s
  | .fcmp h t c s1 s2 => (enc2 0x088 h t.code s1 s2).withLow 30 (allot h.form s1 s2).lo (c.setWidth 34)
  | .fcvt h dt d s st rm => encCvt 0x089 h dt d s st rm
  | .lp h n src => encB 0x0C0 h 3 (ptrSpec n) src
  | .stp h dst n => encA 0x0C1 h 3 dst (ptrSpec n)
  | .padd h n src => encB 0x0C2 h 3 (ptrSpec n) src
  | .pset h n src => encB 0x0C3 h 3 (ptrSpec n) src
  | .pmov p n m => { encS 0x0C4 p (ptrSpec n) (ptrSpec m) 0 with ty := 3 }
  | .vadd h t d s => enc2 0x100 h t.code d s
  | .vsub h t d s => enc2 0x101 h t.code d s
  | .vmul h t d s => enc2 0x102 h t.code d s
  | .vfma h s1 s2 => enc2 0x103 h 9 s1 s2
  | .vmin h t d s => enc2 0x104 h t.code d s
  | .vmax h t d s => enc2 0x105 h t.code d s
  | .vabs h t d s => enc2 0x106 h t.code d s
  | .vneg h t d s => enc2 0x107 h t.code d s
  | .vand h t d s => enc2 0x108 h t.code d s
  | .vor h t d s => enc2 0x109 h t.code d s
  | .vxor h t d s => enc2 0x10A h t.code d s
  | .vshl h t d s => enc2 0x10B h t.code d s
  | .vshr h t d s => enc2 0x10C h t.code d s
  | .vmov h t d s => enc2 0x10D h t.code d s
  | .vld h t q src site => ((encB 0x140 h t.code 15 src).withQual q t.pbw).withSite site
  | .vst h t q dst sr =>
    let f := encA 0x141 h t.code dst 15
    match h.form with
    | .S => { f with x34 := (boolBit sr).setWidth 34 <<< 4 }
    | _ => { f with x15 := q.x15 t.pbw ||| ((boolBit sr).setWidth 15 <<< 4) }
  | .vldx h t n site => ({ encCtl 0x142 h 15 (ptrSpec n) 0 with ty := t.code }).withSite site
  | .vstx h t n src => encB 0x143 h t.code (ptrSpec n) src
  | .vbc h t src => encB 0x144 h t.code 15 src
  | .vcmp h t c set s1 s2 =>
    (enc2 0x145 h t.code s1 s2).withLow 29 (allot h.form s1 s2).lo ((boolBit set ++ c).setWidth 34)
  | .vsel h t s1 s2 => enc2 0x146 h t.code s1 s2
  | .vcvt h dt d s st rm => encCvt 0x147 h dt d s st rm
  | .vperm h src => encB 0x148 h 6 15 src
  | .vrcp h d s => enc2 0x149 h 9 d s
  | .vrsq h d s => enc2 0x14A h 9 d s
  | .vexp2 h d s => enc2 0x14B h 9 d s
  | .vlog2 h d s => enc2 0x14C h 9 d s
  | .vredmax h t src => encB 0x14D h t.code 7 src
  | .vredmin h t src => encB 0x14E h t.code 7 src
  | .vxsum h t src fx scale =>
    ({ encCtl 0x14F h 7 src.spec ((boolBit fx ++ scale).setWidth 34) with ty := t.code }).withDisp15 src
  | .pf h tgt r => encRange 0x180 h tgt r
  | .inv h tgt r => encRange 0x181 h tgt r
  | .wbk h tgt r => encRange 0x182 h tgt r
  | .bank h hn arg z =>
    let f :=
      match arg with
      | .imm mode b => encCtl 0x183 h (hn.setWidth 6) 0 ((mode ++ b).setWidth 34)
      | .acc => encCtl 0x183 h (hn.setWidth 6) 7 0
    { f with x15 := (boolBit z).setWidth 15 }
  | .bankq p j =>
    match j with
    | .imm v => encS 0x184 p 7 6 (v.setWidth 34)
    | .acc => encS 0x184 p 7 7 0
  | .tlbinv h r => encRange 0x185 h .l1 r
  | .fence p q => (encCtl 0x188 ⟨.M, p⟩ 0 0 0).withQual q 0
  | .ifence p => encS 0x189 p 0 0 0
  | .ldq h q src => (encB 0x18A h 0 15 src).withQual q 0
  | .stq h q dst => (encA 0x18B h 0 dst 15).withQual q 0
  | .amoAdd h t q g s => (enc2 0x190 h t.code g s).withQual q 0
  | .amoAnd h t q g s => (enc2 0x191 h t.code g s).withQual q 0
  | .amoOr h t q g s => (enc2 0x192 h t.code g s).withQual q 0
  | .amoXor h t q g s => (enc2 0x193 h t.code g s).withQual q 0
  | .amoMin h t q g s => (enc2 0x194 h t.code g s).withQual q 0
  | .amoMax h t q g s => (enc2 0x195 h t.code g s).withQual q 0
  | .amoSwap h t q g s => (enc2 0x196 h t.code g s).withQual q 0
  | .uadd h t g s => enc2 0x197 h t.code g s
  | .cas64 h q g s => (enc2 0x198 h 0 g s).withQual q 0
  | .cas128 h q g => (encA 0x199 h 0 g 0).withQual q 0
  | .amoNib h q g s => (enc2 0x19A h 14 g s).withQual q 0
  | .fcopy h hn req fo => { encB 0x1C0 h 0 (hn.setWidth 6) req with x64 := fo }
  | .fcopyTry h hn req fo => { encB 0x1C1 h 0 (hn.setWidth 6) req with x64 := fo }
  | .fcopyOn h hn req trig fo => { encCtl 0x1C2 h (hn.setWidth 6) req.spec trig with x64 := fo }
  | .hwait p on =>
    match on with
    | .handle hn => encS 0x1C8 p (hn.setWidth 6) 0 0
    | .token src => encS 0x1C8 p 0 src.spec 1
  | .htest p hn tok => encS 0x1C9 p 7 (hn.setWidth 6) ((boolBit tok).setWidth 34)
  | .hcancel p hn => encS 0x1CA p (hn.setWidth 6) 0 0
  | .fmark p ch =>
    match ch with
    | .imm c => encS 0x1CB p 7 6 (c.setWidth 34)
    | .acc => encS 0x1CB p 7 7 0
  | .landInit h g v => enc2 0x1D0 h 0 g v
  | .landWait h g v => enc2 0x1D1 h 0 g v
  | .shapeFence p => encS 0x1D2 p 0 0 0
  | .mw h hn rec =>
    match rec with
    | .mem n m => encB 0x200 h 0 (hn.setWidth 6) (.mem n m)
    | .abs x => { encCtl 0x200 h (hn.setWidth 6) 0 0 with x64 := x }
  | .mx h hn rec =>
    match rec with
    | .mem n m => encB 0x201 h 0 (hn.setWidth 6) (.mem n m)
    | .abs x => { encCtl 0x201 h (hn.setWidth 6) 0 0 with x64 := x }
  | .mxg p hn rec table => { encB 0x202 ⟨.L, p⟩ 0 (hn.setWidth 6) rec with x64 := table }
  | .mxgAdd p arr run => encB 0x203 ⟨.M, p⟩ 0 (arr.setWidth 6) run
  | .mxgClose p arr => encS 0x204 p (arr.setWidth 6) 0 0
  | .mchain p hn c => encS 0x205 p (hn.setWidth 6) 6 ((boolBit c.west ++ boolBit c.east ++ c.cntM1 ++ c.first).setWidth 34)
  | .mq p arr hi => encS 0x206 p (arr.setWidth 6) 6 ((boolBit hi).setWidth 34)
  | .mstat p arr => encS 0x207 p 7 (arr.setWidth 6) 0
  | .xclr h t sc => encScale 0x240 h t sc
  | .xadd h ty t pos src =>
    ({ encCtl 0x241 h (t.setWidth 6) src.spec (pos.code.setWidth 34) with ty := ty.code }).withDisp15 src
  | .xrd h ty dst t pos sr =>
    ({ encCtl 0x242 h dst.spec (t.setWidth 6) ((boolBit sr ++ pos.code).setWidth 34) with
        ty := ty.code, x15 := ty.pbw.setWidth 15 }).withDisp15 dst
  | .xscale p t sc => encScale 0x243 ⟨.S, p⟩ t sc
  | .xrankInit p t arg =>
    match arg with
    | .imm k row => encS 0x248 p (t.setWidth 6) 6 ((k ++ row).setWidth 34)
    | .acc => encS 0x248 p (t.setWidth 6) 7 0
  | .xrankIns h t row src => (encCtl 0x249 h (t.setWidth 6) src.spec (rowCode row)).withDisp15 src
  | .xrankMerge h t row src => (encCtl 0x24A h (t.setWidth 6) src.spec (rowCode row)).withDisp15 src
  | .xrankRd h dst t row => (encCtl 0x24B h dst.spec (t.setWidth 6) (rowCode row)).withDisp15 dst
  | .xthr p sel =>
    match sel with
    | .off => encS 0x24C p 0 0 0
    | .row t r => encS 0x24C p (t.setWidth 6) 6 (r.setWidth 34)
    | .acc t => encS 0x24C p (t.setWidth 6) 7 0
  | .ringInit h r src => encB 0x280 h 3 (r.setWidth 6) src
  | .ringArrive p r nw => encS 0x281 p 7 (r.setWidth 6) ((boolBit nw).setWidth 34)
  | .ringStat p r => encS 0x282 p 7 (r.setWidth 6) 0
  | .barInit p b src => encA 0x288 ⟨.S, p⟩ 6 src (b.setWidth 6)
  | .barArrive p b => encS 0x289 p 7 (b.setWidth 6) 0
  | .barWait p b src => encA 0x28A ⟨.S, p⟩ 6 src (b.setWidth 6)
  | .podbar h mode site => (encCtl 0x290 h 7 0 mode.code).withSite site
  | .mfPatch h mf word src =>
    let f := { encCtl 0x2C0 h 0 src.spec (mfCode 17 mf ||| (word.setWidth 34 <<< 12)) with ty := 3 }
    match h.form with
    | .S => f
    | .M => f.withDisp15 src
    | .L => { f with x64 := src.extVal }
  | .mfArm p mf off => encS 0x2C1 p 7 0 (mfCode 13 mf ||| ((boolBit off).setWidth 34 <<< 12))
  | .launch h mf qov q => { encCtl 0x2C2 h 7 0 (mfCode 12 mf) with x15 := (boolBit qov ++ q).setWidth 15 }
  | .launchInd h mf cnt =>
    match cnt with
    | .mem n m => (encCtl 0x2C3 h 7 (Opnd.mem n m).spec (mfCode 12 mf)).withDisp15 (.mem n m)
    | .abs x => { encCtl 0x2C3 h 7 0 (mfCode 12 mf) with x64 := x }
  | .gcancel p => encS 0x2C4 p 7 0 0
  | .gabort p => encS 0x2C5 p 0 0 0
  | .gstat p own sel => encS 0x2C6 p 7 (if own then 0 else 7) ((boolBit sel).setWidth 34)
  | .wsel p slot nv d => { encCtl 0x300 ⟨.M, p⟩ 0 0 d with slot := slot, x15 := nv.setWidth 15 }
  | .wbr p slot thr d => { encCtl 0x301 ⟨.M, p⟩ 0 0 d with slot := slot, x15 := thr.setWidth 15 }
  | .wpf p slot tgt n m unit =>
    { encRange 0x302 ⟨.M, p⟩ tgt (.bytes n m (.nb unit)) with slot := slot }
  | .wunr p t src w slot umax =>
    { encA 0x303 ⟨.M, p⟩ t.code src 0 with slot := slot, w := boolBit w, x15 := umax.setWidth 15 }
  | .wrd p slot => { encCtl 0x304 ⟨.M, p⟩ 7 0 0 with slot := slot }
  | .wnote p t kind src slot =>
    { encA 0x305 ⟨.M, p⟩ t.code src 0 with slot := slot, w := 1, x15 := kind.code }
  | .trap p n => encS 0x340 p 6 0 (n.setWidth 34)
  | .eret p => encS 0x341 p 0 0 0
  | .rdsr p dst num => encS 0x342 p dst.spec 0 (num.setWidth 34)
  | .wrsr p num src => encS 0x343 p src.spec 0 (num.setWidth 34)
  | _ => { form := .S, opc := 0x3FF }

/-! ### The decoder -/

namespace Fields

def hdr (f : Fields) : Hdr := ⟨f.form, Pred.ofCode f.pred⟩
def pr (f : Fields) : Pred := Pred.ofCode f.pred
def tyOf (f : Fields) : Ty := Ty.ofCode f.ty (f.x15.extractLsb' 0 3)
/-- The field of w bits that stands in the place of X34, sign-extended. -/
def lo (f : Fields) (w : Nat) : Word := (f.x34.extractLsb' (34 - w) w).signExtend 64
def ext15 (f : Fields) : Word := f.x15.signExtend 64
/-- Modes 100 and 110. -/
def specExt (s : BitVec 6) : Bool := s.extractLsb' 0 3 == 4 || s == 6
/-- OPA's operand, first in the allotment of R24. -/
def opndA (f : Fields) (w : Nat) : Option Opnd :=
  Opnd.ofSpec f.opa (if f.form = .L ∧ f.opa = 6 then f.x64 else f.lo w)
/-- OPB's operand, second after OPA. -/
def opndB2 (f : Fields) (w : Nat) : Option Opnd :=
  Opnd.ofSpec f.opb
    (if f.form = .L then (if f.opb = 6 then f.x64 else f.lo w)
     else if f.form = .M ∧ specExt f.opa then f.ext15 else f.lo w)
/-- OPB's operand where OPA takes no extension. -/
def opndB (f : Fields) : Option Opnd :=
  Opnd.ofSpec f.opb (if f.form = .L ∧ f.opb = 6 then f.x64 else f.lo 34)
/-- An operand whose displacement takes X15. -/
def opndA15 (f : Fields) : Option Opnd := Opnd.ofSpec f.opa f.ext15
def opndB15 (f : Fields) : Option Opnd := Opnd.ofSpec f.opb f.ext15
/-- The memory operand of a specifier. -/
def memOf : Option Opnd → Option (BitVec 3 × MemMode)
  | some (.mem n m) => some (n, m)
  | _ => none
def qual (f : Fields) : Option Qual :=
  (Scope.ofCode (f.x15.extractLsb' 12 3)).map (fun s => ⟨Ord.ofCode (f.x15.extractLsb' 10 2), s⟩)
/-- Pointer number of a specifier. -/
def pa (f : Fields) : BitVec 3 := f.opa.extractLsb' 3 3
def pb (f : Fields) : BitVec 3 := f.opb.extractLsb' 3 3
/-- The site of W and SLOT: SLOT must be 0 when W is 0. -/
def site (f : Fields) : BitVec 16 := f.slot
def ha (f : Fields) : BitVec 3 := f.opa.setWidth 3
def hb (f : Fields) : BitVec 3 := f.opb.setWidth 3

/-- Two operands under R24. -/
def two (f : Fields) (w : Nat) (k : Opnd → Opnd → Instr) : Option Instr := do
  let o1 ← f.opndA w
  let o2 ← f.opndB2 w
  some (k o1 o2)

/-- An operation with a type and two operands. -/
def tyTwo (f : Fields) (k : Hdr → Ty → Opnd → Opnd → Instr) : Option Instr := f.two 34 (k f.hdr f.tyOf)

/-- An atomic: no PBW, so TYPE is read without it. -/
def amo (f : Fields) (k : Hdr → Ty → Qual → Opnd → Opnd → Instr) : Option Instr := do
  let q ← f.qual
  f.two 34 (k f.hdr (Ty.ofCode f.ty 0) q)

def range (f : Fields) (k : Hdr → CacheTgt → Range → Instr) : Option Instr := do
  let t ← CacheTgt.ofCode (f.x34.extractLsb' 32 2)
  if f.x34.getLsbD 31 then some (k f.hdr t .all)
  else do
    let (n, m) ← memOf f.opndA15
    some (k f.hdr t (.bytes n m (if f.opb = 7 then .acc else .nb (f.x34.setWidth 24))))

def scaleArg (f : Fields) : ScaleArg :=
  if f.opb = 6 then .imm (f.x34.setWidth 16) else if f.opb = 7 then .acc else .none

def pos (f : Fields) : PosArg :=
  if f.x34.getLsbD 10 then .acc else .imm (f.x34.extractLsb' 3 7) (f.x34.extractLsb' 0 3)

def row (f : Fields) : NumArg 7 := if f.x34.getLsbD 7 then .acc else .imm (f.x34.setWidth 7)

def mf (f : Fields) (c : Nat) : NumArg 12 := if f.x34.getLsbD c then .acc else .imm (f.x34.setWidth 12)

/-- The control field of a conversion (R99). -/
def cvt (f : Fields) (k : Opnd → Opnd → Ty → Rm → Instr) : Option Instr :=
  let c : BitVec 6 := if f.form = .S then f.x34.setWidth 6 else f.x15.setWidth 6
  f.two 34 (fun d s => k d s (Ty.ofCode (c.extractLsb' 0 4) 0) (Rm.ofCode (c.extractLsb' 4 2)))

/-- Group 0x0. -/
def group0 (f : Fields) (off : Nat) : Option Instr :=
  match off with
  | 0x00 => some (.nop f.form)
  | 0x01 => some (.yield f.pr)
  | 0x02 => some (.halt f.pr)
  | 0x03 => (f.opndA 34).map (.enq f.hdr f.tyOf (f.opb.setWidth 2))
  | 0x04 => (f.opndA 34).map (fun d => .deq f.hdr f.tyOf d (f.opb.setWidth 2))
  | 0x05 => some (.qlink f.pr (f.opb.setWidth 2) (f.x34.setWidth 5))
  | 0x06 => some (.fork f.hdr f.x34 f.pa f.site)
  | 0x07 => some (.join f.hdr f.pa f.x34 f.site)
  | 0x08 => some (.tow (f.x34.setWidth 4))
  | 0x09 => some .cast
  | 0x0A => some (.br f.hdr (f.opb.getLsbD 0) f.x34 f.site)
  | 0x0B => some (.bc f.hdr f.ty (f.opb.getLsbD 0) f.x34 f.site)
  | 0x0C =>
    if f.opb = 6 then some (.call f.hdr (if f.form = .L then .abs f.x64 else .rel f.x34) f.pa)
    else if f.opb.extractLsb' 0 3 = 5 then some (.call f.hdr (.ptr f.pb) f.pa)
    else (memOf f.opndB).map (fun x => .call f.hdr (.mem x.1 x.2) f.pa)
  | 0x0D => some (.ret f.pr f.pa)
  | 0x0E =>
    if f.opa = 6 then some (.jmp f.hdr (.abs f.x64))
    else if f.opa.extractLsb' 0 3 = 5 then some (.jmp f.hdr (.ptr f.pa))
    else (memOf (f.opndA 34)).map (fun x => .jmp f.hdr (.mem x.1 x.2))
  | 0x0F => some (.loop f.hdr (f.opb.getLsbD 0) f.x34 f.site)
  | 0x10 => (f.opndA 34).map (.ldlc f.hdr f.tyOf)
  | _ => none

/-- Group 0x1. -/
def group1 (f : Fields) (off : Nat) : Option Instr :=
  match off with
  | 0x00 => do
    let q ← f.qual
    let o ← f.opndB
    some (.lda f.hdr (Ty.ofCode f.ty 0) q o f.site)
  | 0x01 => do
    let q ← f.qual
    f.two 34 (.sta f.hdr (Ty.ofCode f.ty 0) q)
  | 0x02 => f.tyTwo .add
  | 0x03 => f.tyTwo .sub
  | 0x04 => f.tyTwo .mul
  | 0x05 => f.tyTwo .mulh
  | 0x06 => f.tyTwo .div
  | 0x07 => f.tyTwo .rem
  | 0x08 => f.tyTwo .and
  | 0x09 => f.tyTwo .or
  | 0x0A => f.tyTwo .xor
  | 0x0B => f.tyTwo .shl
  | 0x0C => f.tyTwo .shr
  | 0x0D => f.tyTwo .sar
  | 0x0E => f.tyTwo .min
  | 0x0F => f.tyTwo .max
  | 0x10 => f.tyTwo .neg
  | 0x11 => f.tyTwo .not
  | 0x12 => f.tyTwo .clz
  | 0x13 => f.tyTwo .popc
  | 0x14 => f.two 30 (.cmp f.hdr f.tyOf (f.x34.setWidth 4))
  | 0x15 => f.two 30 (.tst f.hdr f.tyOf (f.x34.setWidth 4))
  | 0x16 => f.tyTwo .sel
  | 0x17 => (f.opndA 34).map (.ext f.hdr f.tyOf)
  | _ => none

/-- Group 0x2. -/
def group2 (f : Fields) (off : Nat) : Option Instr :=
  match off with
  | 0x00 => f.tyTwo .fadd
  | 0x01 => f.tyTwo .fsub
  | 0x02 => f.tyTwo .fmul
  | 0x03 => f.tyTwo .fdiv
  | 0x04 => f.tyTwo .fsqrt
  | 0x05 => f.tyTwo .ffma
  | 0x06 => f.tyTwo .fmin
  | 0x07 => f.tyTwo .fmax
  | 0x08 => f.two 30 (.fcmp f.hdr f.tyOf (f.x34.setWidth 4))
  | 0x09 => f.cvt (.fcvt f.hdr f.tyOf)
  | _ => none

/-- Group 0x3. -/
def group3 (f : Fields) (off : Nat) : Option Instr :=
  match off with
  | 0x00 => f.opndB.map (.lp f.hdr f.pa)
  | 0x01 => (f.opndA 34).map (fun d => .stp f.hdr d f.pb)
  | 0x02 => f.opndB.map (.padd f.hdr f.pa)
  | 0x03 => f.opndB.map (.pset f.hdr f.pa)
  | 0x04 => some (.pmov f.pr f.pa f.pb)
  | _ => none

/-- Group 0x4. -/
def group4 (f : Fields) (off : Nat) : Option Instr :=
  match off with
  | 0x00 => f.tyTwo .vadd
  | 0x01 => f.tyTwo .vsub
  | 0x02 => f.tyTwo .vmul
  | 0x03 => f.two 34 (.vfma f.hdr)
  | 0x04 => f.tyTwo .vmin
  | 0x05 => f.tyTwo .vmax
  | 0x06 => f.tyTwo .vabs
  | 0x07 => f.tyTwo .vneg
  | 0x08 => f.tyTwo .vand
  | 0x09 => f.tyTwo .vor
  | 0x0A => f.tyTwo .vxor
  | 0x0B => f.tyTwo .vshl
  | 0x0C => f.tyTwo .vshr
  | 0x0D => f.tyTwo .vmov
  | _ => none

/-- Group 0x5. -/
def group5 (f : Fields) (off : Nat) : Option Instr :=
  match off with
  | 0x00 => do
    let q ← f.qual
    let o ← f.opndB
    some (.vld f.hdr f.tyOf q o f.site)
  | 0x01 => do
    let q ← f.qual
    let o ← f.opndA 34
    some (.vst f.hdr f.tyOf q o (if f.form = .S then f.x34.getLsbD 4 else f.x15.getLsbD 4))
  | 0x02 => some (.vldx f.hdr f.tyOf f.pb f.site)
  | 0x03 => f.opndB.map (.vstx f.hdr f.tyOf f.pa)
  | 0x04 => f.opndB.map (.vbc f.hdr f.tyOf)
  | 0x05 => f.two 29 (.vcmp f.hdr f.tyOf (f.x34.setWidth 4) (f.x34.getLsbD 4))
  | 0x06 => f.tyTwo .vsel
  | 0x07 => f.cvt (.vcvt f.hdr (Ty.ofCode f.ty 0))
  | 0x08 => f.opndB.map (.vperm f.hdr)
  | 0x09 => f.two 34 (.vrcp f.hdr)
  | 0x0A => f.two 34 (.vrsq f.hdr)
  | 0x0B => f.two 34 (.vexp2 f.hdr)
  | 0x0C => f.two 34 (.vlog2 f.hdr)
  | 0x0D => f.opndB.map (.vredmax f.hdr f.tyOf)
  | 0x0E => f.opndB.map (.vredmin f.hdr f.tyOf)
  | 0x0F => f.opndB15.map (fun o => .vxsum f.hdr f.tyOf o (f.x34.getLsbD 16) (f.x34.setWidth 16))
  | _ => none

/-- Group 0x6. -/
def group6 (f : Fields) (off : Nat) : Option Instr :=
  match off with
  | 0x00 => f.range .pf
  | 0x01 => f.range .inv
  | 0x02 => f.range .wbk
  | 0x03 =>
    some (.bank f.hdr f.ha
      (if f.opb = 7 then .acc else .imm (f.x34.extractLsb' 5 2) (f.x34.setWidth 5)) (f.x15.getLsbD 0))
  | 0x04 => some (.bankq f.pr (if f.opb = 7 then .acc else .imm (f.x34.setWidth 5)))
  | 0x05 => f.range (fun h _ r => .tlbinv h r)
  | 0x08 => f.qual.map (.fence f.pr)
  | 0x09 => some (.ifence f.pr)
  | 0x0A => do
    let q ← f.qual
    let o ← f.opndB
    some (.ldq f.hdr q o)
  | 0x0B => do
    let q ← f.qual
    let o ← f.opndA 34
    some (.stq f.hdr q o)
  | 0x10 => f.amo .amoAdd
  | 0x11 => f.amo .amoAnd
  | 0x12 => f.amo .amoOr
  | 0x13 => f.amo .amoXor
  | 0x14 => f.amo .amoMin
  | 0x15 => f.amo .amoMax
  | 0x16 => f.amo .amoSwap
  | 0x17 => f.amo (fun h t _ g s => .uadd h t g s)
  | 0x18 => f.amo (fun h _ q g s => .cas64 h q g s)
  | 0x19 => do
    let q ← f.qual
    let o ← f.opndA 34
    some (.cas128 f.hdr q o)
  | 0x1A => f.amo (fun h _ q g s => .amoNib h q g s)
  | _ => none

/-- Group 0x7. -/
def group7 (f : Fields) (off : Nat) : Option Instr :=
  match off with
  | 0x00 => f.opndB.map (fun o => .fcopy f.hdr f.ha o f.x64)
  | 0x01 => f.opndB.map (fun o => .fcopyTry f.hdr f.ha o f.x64)
  | 0x02 => (Opnd.ofSpec f.opb 0).map (fun o => .fcopyOn f.hdr f.ha o f.x34 f.x64)
  | 0x08 =>
    if f.x34.getLsbD 0 then (Opnd.ofSpec f.opb 0).map (fun o => .hwait f.pr (.token o))
    else some (.hwait f.pr (.handle f.ha))
  | 0x09 => some (.htest f.pr f.hb (f.x34.getLsbD 0))
  | 0x0A => some (.hcancel f.pr f.ha)
  | 0x0B => some (.fmark f.pr (if f.opb = 7 then .acc else .imm (f.x34.setWidth 4)))
  | 0x10 => f.two 34 (.landInit f.hdr)
  | 0x11 => f.two 34 (.landWait f.hdr)
  | 0x12 => some (.shapeFence f.pr)
  | _ => none

def recAt (f : Fields) : Option RecAt :=
  if f.form = .L then some (.abs f.x64) else (memOf f.opndB).map (fun x => .mem x.1 x.2)

/-- Group 0x8. -/
def group8 (f : Fields) (off : Nat) : Option Instr :=
  match off with
  | 0x00 => f.recAt.map (.mw f.hdr f.ha)
  | 0x01 => f.recAt.map (.mx f.hdr f.ha)
  | 0x02 => f.opndB.map (fun o => .mxg f.pr f.ha o f.x64)
  | 0x03 => f.opndB.map (.mxgAdd f.pr (f.opa.setWidth 2))
  | 0x04 => some (.mxgClose f.pr (f.opa.setWidth 2))
  | 0x05 =>
    some (.mchain f.pr f.ha ⟨f.x34.getLsbD 5, f.x34.getLsbD 4, f.x34.extractLsb' 2 2, f.x34.extractLsb' 0 2⟩)
  | 0x06 => some (.mq f.pr (f.opa.setWidth 2) (f.x34.getLsbD 0))
  | 0x07 => some (.mstat f.pr (f.opb.setWidth 2))
  | _ => none

/-- Group 0x9. -/
def group9 (f : Fields) (off : Nat) : Option Instr :=
  match off with
  | 0x00 => some (.xclr f.hdr (f.opa.setWidth 4) f.scaleArg)
  | 0x01 => f.opndB15.map (.xadd f.hdr (Ty.ofCode f.ty 0) (f.opa.setWidth 4) f.pos)
  | 0x02 => f.opndA15.map (fun d => .xrd f.hdr f.tyOf d (f.opb.setWidth 4) f.pos (f.x34.getLsbD 11))
  | 0x03 => some (.xscale f.pr (f.opa.setWidth 4) f.scaleArg)
  | 0x08 =>
    some (.xrankInit f.pr (f.opa.setWidth 4)
      (if f.opb = 7 then .acc else .imm (f.x34.extractLsb' 7 3) (f.x34.setWidth 7)))
  | 0x09 => f.opndB15.map (.xrankIns f.hdr (f.opa.setWidth 4) f.row)
  | 0x0A => f.opndB15.map (.xrankMerge f.hdr (f.opa.setWidth 4) f.row)
  | 0x0B => f.opndA15.map (fun d => .xrankRd f.hdr d (f.opb.setWidth 4) f.row)
  | 0x0C =>
    some (.xthr f.pr
      (if f.opb = 6 then .row (f.opa.setWidth 4) (f.x34.setWidth 7)
       else if f.opb = 7 then .acc (f.opa.setWidth 4) else .off))
  | _ => none

/-- Group 0xA. -/
def groupA (f : Fields) (off : Nat) : Option Instr :=
  match off with
  | 0x00 => f.opndB.map (.ringInit f.hdr f.ha)
  | 0x01 => some (.ringArrive f.pr f.hb (f.x34.getLsbD 0))
  | 0x02 => some (.ringStat f.pr f.hb)
  | 0x08 => (f.opndA 34).map (.barInit f.pr (f.opb.setWidth 5))
  | 0x09 => some (.barArrive f.pr (f.opb.setWidth 5))
  | 0x0A => (f.opndA 34).map (.barWait f.pr (f.opb.setWidth 5))
  | 0x10 => (PodMode.ofCode f.x34).map (fun m => .podbar f.hdr m f.site)
  | _ => none

/-- Group 0xB. -/
def groupB (f : Fields) (off : Nat) : Option Instr :=
  match off with
  | 0x00 =>
    (Opnd.ofSpec f.opb (if f.form = .L then f.x64 else f.ext15)).map
      (.mfPatch f.hdr (f.mf 17) (f.x34.extractLsb' 12 5))
  | 0x01 => some (.mfArm f.pr (f.mf 13) (f.x34.getLsbD 12))
  | 0x02 => some (.launch f.hdr (f.mf 12) (f.x15.getLsbD 4) (f.x15.setWidth 4))
  | 0x03 =>
    if f.form = .L then some (.launchInd f.hdr (f.mf 12) (.abs f.x64))
    else (memOf f.opndB15).map (fun x => .launchInd f.hdr (f.mf 12) (.mem x.1 x.2))
  | 0x04 => some (.gcancel f.pr)
  | 0x05 => some (.gabort f.pr)
  | 0x06 => some (.gstat f.pr (f.opb != 7) (f.x34.getLsbD 0))
  | _ => none

/-- Group 0xC. -/
def groupC (f : Fields) (off : Nat) : Option Instr :=
  match off with
  | 0x00 => some (.wsel f.pr f.slot (f.x15.setWidth 3) f.x34)
  | 0x01 => some (.wbr f.pr f.slot (f.x15.setWidth 8) f.x34)
  | 0x02 => do
    let t ← CacheTgt.ofCode (f.x34.extractLsb' 32 2)
    let (n, m) ← memOf f.opndA15
    some (.wpf f.pr f.slot t n m (f.x34.setWidth 24))
  | 0x03 => (f.opndA 34).map (fun o => .wunr f.pr (Ty.ofCode f.ty 0) o (f.w == 1) f.slot (f.x15.setWidth 2))
  | 0x04 => some (.wrd f.pr f.slot)
  | 0x05 => do
    let k ← SiteKind.ofCode f.x15
    let o ← f.opndA 34
    some (.wnote f.pr (Ty.ofCode f.ty 0) k o f.slot)
  | _ => none

/-- Group 0xD. -/
def groupD (f : Fields) (off : Nat) : Option Instr :=
  match off with
  | 0x00 => some (.trap f.pr (f.x34.setWidth 4))
  | 0x01 => some (.eret f.pr)
  | 0x02 => (Opnd.ofSpec f.opa 0).map (fun d => .rdsr f.pr d (f.x34.setWidth 9))
  | 0x03 => (Opnd.ofSpec f.opa 0).map (.wrsr f.pr (f.x34.setWidth 9))
  | _ => none

/-- The instruction that the fields could be (R31); `decodeFields` then holds it against R32. -/
def candidate (f : Fields) : Option Instr :=
  let off := (f.opc.extractLsb' 0 6).toNat
  match (f.opc.extractLsb' 6 4).toNat with
  | 0x0 => f.group0 off
  | 0x1 => f.group1 off
  | 0x2 => f.group2 off
  | 0x3 => f.group3 off
  | 0x4 => f.group4 off
  | 0x5 => f.group5 off
  | 0x6 => f.group6 off
  | 0x7 => f.group7 off
  | 0x8 => f.group8 off
  | 0x9 => f.group9 off
  | 0xA => f.groupA off
  | 0xB => f.groupB off
  | 0xC => f.groupC off
  | 0xD => f.groupD off
  | _ => none

/-- Opcodes that R31 assigns, by group: the first offsets and the last of each run. -/
def assigned (opc : BitVec 10) : Bool :=
  let off := (opc.extractLsb' 0 6).toNat
  let run (a b : Nat) : Bool := decide (a ≤ off) && decide (off ≤ b)
  match (opc.extractLsb' 6 4).toNat with
  | 0x0 => run 0 0x10
  | 0x1 => run 0 0x17
  | 0x2 => run 0 9
  | 0x3 => run 0 4
  | 0x4 => run 0 0xD
  | 0x5 => run 0 0xF
  | 0x6 => run 0 5 || run 8 0xB || run 0x10 0x1A
  | 0x7 => run 0 2 || run 8 0xB || run 0x10 0x12
  | 0x8 => run 0 7
  | 0x9 => run 0 3 || run 8 0xC
  | 0xA => run 0 2 || run 8 0xA || run 0x10 0x10
  | 0xB => run 0 6
  | 0xC => run 0 5
  | 0xD => run 0 3
  | _ => false

/-- The bits of an instruction, 128 of them; those above its form are 0 (R22). -/
def pack (f : Fields) : BitVec 128 :=
  let low : BitVec 64 := f.x34 ++ f.ty ++ f.opb ++ f.opa ++ f.pred ++ f.opc ++ f.form.len
  let hi : BitVec 64 :=
    match f.form with
    | .S => 0
    | .M => (0 : BitVec 32) ++ f.x15 ++ f.w ++ f.slot
    | .L => f.x64
  hi ++ low

/-- The form of a length code (R18). -/
def formOf (len : BitVec 2) : Option Form :=
  match len.toNat with
  | 1 => some .S | 2 => some .M | 3 => some .L | _ => none

/-- The fields of an instruction's bits. -/
def unpack (b : BitVec 128) : Option Fields :=
  (formOf (b.extractLsb' 0 2)).map fun fm =>
    { form := fm
      opc := b.extractLsb' 2 10
      pred := b.extractLsb' 12 2
      opa := b.extractLsb' 14 6
      opb := b.extractLsb' 20 6
      ty := b.extractLsb' 26 4
      x34 := b.extractLsb' 30 34
      slot := if fm = .M then b.extractLsb' 64 16 else 0
      w := if fm = .M then b.extractLsb' 80 1 else 0
      x15 := if fm = .M then b.extractLsb' 81 15 else 0
      x64 := if fm = .L then b.extractLsb' 64 64 else 0 }

end Fields

/-- The instruction of a set of fields (R32), SLOT aside. -/
def decodeFields (f : Fields) : Except DecodeError Instr :=
  if Fields.assigned f.opc then
    match f.candidate with
    | some i => if i.wf && decide (encode i = f) then .ok i else .error (.illegalField f.opc)
    | none => .error (.illegalField f.opc)
  else .error (.unassigned f.opc)

/-- The bits of a little-endian list of bytes. -/
def bitsOfBytes : List Byte → Nat
  | [] => 0
  | b :: bs => b.toNat + 256 * bitsOfBytes bs

/-- n bytes of a number, least significant first. -/
def bytesOfBits (v : Nat) : Nat → List Byte
  | 0 => []
  | n + 1 => BitVec.ofNat 8 v :: bytesOfBits (v / 256) n

/-- The instruction at the head of a list of bytes, with the bytes after it. -/
def decode (bs : List Byte) : Except DecodeError (Instr × List Byte) :=
  match bs with
  | [] => .error .truncated
  | b0 :: _ =>
    match Fields.formOf (b0.extractLsb' 0 2) with
    | none => .error .lengthZero
    | some fm =>
      if bs.length < fm.bytes then .error .truncated
      else
        match Fields.unpack (BitVec.ofNat 128 (bitsOfBytes (bs.take fm.bytes))) with
        | none => .error .lengthZero
        | some f =>
          match decodeFields f with
          | .ok i => .ok (i, bs.drop fm.bytes)
          | .error e => .error e

/-- The form of an instruction's word. -/
def Instr.form (i : Instr) : Form := (encode i).form

/-- The bytes of an instruction, as they stand in memory. -/
def encodeBytes (i : Instr) : List Byte := bytesOfBits (encode i).pack.toNat i.form.bytes

/-- The decoder on an instruction whose bits are w; those above nbits are 0. -/
def decodeTableWord (nbits w : Nat) : Option Instr :=
  match decode (bytesOfBits (w % 2 ^ nbits) 16) with
  | .ok (i, _) => some i
  | .error _ => none

end Sys2Proof
end

