-- ==== Sys2Proof/Machine/State.lean ====
section
/-! DEFINITION. The state of the machine: everything the spec gives the packages of a pod, as plain data (log 1). A
table is sparse: a key that it does not list has its default record, which is what the unit holds at power-on. Keys:
cluster = package*64 + cluster, core = cluster key*16 + core, thread = core key*16 + slot, berth = package*257 + berth
with 256 for the physical function. A location is a physical fabric address below 2^52, or a byte of a bank:
2^52 + (cluster key*32 + bank)*2^19 + offset. -/
namespace Sys2Proof.Machine

/-! ### Outcomes -/

/-- Why the machine stops. -/
inductive Fault where
  /-- Raised by the step when the bytes that a thread has fetched are no instruction. The scanner maps no such page
  executable and the run-time decoder checks nothing (R33), so the spec gives no effect. Safe: the model stops. -/
  | nonInstruction (thread : Nat)
  deriving DecidableEq, Repr

/-- Why the model has no meaning for an instruction. -/
inductive Refusal where
  /-- Raised by the dispatcher for an instruction that has no meaning yet. Safe: the model stops. -/
  | notModelled (mnemonic : String)
  deriving DecidableEq, Repr

/-! ### A thread (R11, R48) -/

/-- The flags `f` (R82). -/
structure Flags where
  z : Bool := false
  n : Bool := false
  c : Bool := false
  v : Bool := false
  p : Bool := false
  t : Bool := false
  deriving DecidableEq, Repr

/-- STATE of a handle (R251). -/
inductive HState where
  | complete | pending | faulted | cancelled
  deriving DecidableEq, Repr

/-- A future handle (R251). `eaddr` and `engine` are what a delivered engine fault reports (R223). -/
structure Handle where
  st : HState := .complete
  cause : BitVec 10 := 0
  seq : BitVec 32 := 0
  engine : BitVec 4 := 0
  chan : BitVec 4 := 0
  tid : BitVec 48 := 0
  eaddr : Word := 0
  /-- its fault has been counted as undeliverable (R224) -/
  counted : Bool := false
  deriving DecidableEq, Repr

/-- What an address names (R155). -/
inductive Target where
  /-- bytes at a location; uc: L1 and near cache are bypassed -/
  | at (loc : Nat) (uc : Bool)
  /-- a queue port, or a system register (R158) -/
  | port (q : Nat)
  | sysreg (num : Nat)
  deriving DecidableEq, Repr

/-- Why a thread does not issue (R53). -/
inductive Wait where
  | ready
  /-- moored: KIND, OBJECT and VALUE of R240, the cycle it moored in and its place in mooring order -/
  | moored (kind : BitVec 4) (obj : Nat) (val : W32) (since order : Nat)
  /-- stalled, by reason; `trapping`: its fault waits until the other members of its tow have come to rest (R74) -/
  | path | reply | release | walk | miss | lock (tile : Nat) | fifo | bank | launch | array | trapping
  deriving DecidableEq, Repr

/-- The trap state of a thread (R220, R227). -/
structure Trapped where
  cause : Word := 0
  epc : Word := 0
  eaddr : Word := 0
  einfo : Word := 0
  ea : Word := 0
  ef : Flags := {}
  ep6 : Word := 0
  ep7 : Word := 0
  h : Bool := false
  ab : Bool := false
  tow : BitVec 4 := 0
  deriving DecidableEq, Repr

/-- A leaf of the page tables as a TLB holds it (R172, R174): its root, virtual page base, page size (as its log2),
physical base and permissions. -/
structure Leaf where
  root : Nat
  va : Nat
  size : Nat
  pa : Nat
  rd : Bool
  wr : Bool
  ex : Bool
  uc : Bool
  deriving DecidableEq, Repr

/-- What a walk ended in. -/
inductive Walked where
  | leaf (l : Leaf)
  | fault (c : BitVec 10)
  deriving DecidableEq, Repr

/-! ### Messages and caches (R187) -/

/-- A read-modify-write of the home (R209 to R213). -/
inductive Rmw where
  | add | and | or | xor | minS | maxS | minU | maxU | swap
  | cas (expected : List Byte)
  | nib (high : Bool)
  deriving DecidableEq, Repr

/-- A contribution of an update-only line (R200): offset, bytes, value. -/
structure Contrib where
  off : Nat
  n : Nat
  v : Word
  deriving DecidableEq, Repr

/-- What a home performs: on `n` bytes, the bytes of a masked write, a read-modify-write with its operand, a claim of
an update-only line (R200). -/
inductive HomeOp where
  | read (n : Nat)
  | write (bytes : List Byte)
  | masked (bytes : List (Nat × Byte))
  | rmw (f : Rmw) (operand : List Byte)
  | claim (c : Contrib)
  deriving DecidableEq, Repr

/-- The piece of a beat that a message of a ferry engine belongs to: cluster, channel, transfer, beat, place (R260). -/
structure BeatPiece where
  cluster : Nat
  chan : Nat
  xfer : Nat
  beat : Nat
  piece : Nat
  deriving DecidableEq, Repr

/-- What a message of the host belongs to (R203): its berth, the kind of a write, its place in the order of the berth's writes, the
offset of its bytes. -/
structure HostPiece where
  berth : Nat
  kind : Option HostReq
  order : Nat
  off : Nat
  deriving DecidableEq, Repr

/-- A message of a core path or a channel. -/
structure Msg where
  /-- the issuing thread; none for a message of another source -/
  thread : Option Nat := none
  /-- OPA or OPB of the operand, as sys.einfo marks it (R225) -/
  opnd : Word := 0
  /-- the beat, or the host request, that it belongs to -/
  beat : Option BeatPiece := none
  host : Option HostPiece := none
  /-- the core whose line is claimed, or which reads -/
  core : Nat := 0
  loc : Nat := 0
  va : Addr := 0
  op : HomeOp
  /-- performed at the near cache where it can be (R188) -/
  near : Bool := false
  /-- the group whose scratchpad it names, where it names one (R159) -/
  owner : Option Nat := none
  /-- the release that it carries (R195), and KIND of R196 -/
  rel : Option Scope := none
  kind : BitVec 3 := 0
  /-- which reply of the issuing thread it answers -/
  reply : Option Nat := none
  /-- the cycle of issue -/
  cycle : Nat := 0
  deriving DecidableEq, Repr

/-- A thread slot (R11). `group` is the group that holds it; `live` says that it runs a thread. -/
structure Thread where
  group : Option Nat := none
  live : Bool := false
  tid : Nat := 0
  a : Word := 0
  va : BitVec 1024 := 0
  vm : W32 := 0xFFFFFFFF
  ptrs : Vector Word 8 := .replicate 8 0
  lc : W32 := 0
  f : Flags := {}
  h : Vector Handle 8 := .replicate 8 {}
  pc : Addr := 0
  trap : Trapped := {}
  /-- the fetch buffer: the address of its block, and the block's 32 bytes (R21) -/
  block : Option (Addr × List Byte) := none
  wait : Wait := .ready
  /-- since when an idle slot is idle (R67) -/
  idleSince : Nat := 0
  /-- slots of the core that a `yield` waits for, and the cycle it ends in (R58) -/
  yielding : Option (List Nat × Nat) := none
  /-- the stage of a counted ring arrival or of a write beyond d, or the phase of a counted pod-barrier arrival (R302, R305) -/
  kept : Option W32 := none
  /-- the stage index of each ring that its instruction has resolved an address against (R291) -/
  views : Table W32 := []
  /-- sys.th in the cycle its instruction issued, and the values that R351 lets it be seen to have -/
  ths : Option (Word × List Word) := none
  /-- what its instruction has read of a tile in one step and is still storing (R343) -/
  drawn : Option Nat := none
  /-- the writes beyond d that its instruction waits with, which the rotation performs (R292) -/
  pending : List Msg := []
  /-- its mooring is over: the instruction that moored it goes on from there (R298, R303) -/
  freed : Bool := false
  /-- its instruction has sampled the abort (R303) -/
  passed : Bool := false
  /-- the tile whose lock its instruction has stalled on (R344) -/
  locked : Option Nat := none
  /-- replies to the accesses of the instruction that it is executing (R189); `none` while a reply is due -/
  got : List (Option (List Byte)) := []
  /-- the reply that has come back as an error, and its cause (R226) -/
  err : Option (Nat × BitVec 10) := none
  /-- its instruction has sent a write; what its addresses name was settled before that (R143), of a ring view at the issue (R291) -/
  wrote : Bool := false
  located : List (Addr × Option Target) := []
  /-- the result of a walk that its access waited for (R175) -/
  walked : Option (Nat × Walked) := none
  /-- the handle (8 * thread + number) or the location of the landing word that it is moored on -/
  watch : Option Nat := none
  /-- a request that its instruction has sent to a dispatcher or an engine, and the reply (R276, R389) -/
  sent : Option (Option Word) := none
  /-- it has aborted its own grid, which it samples from then on (R390) -/
  told : Bool := false
  deriving DecidableEq, Repr

/-- A near-cache line (R165). -/
structure NearLine where
  data : Line := 0
  valid : BitVec 128 := 0
  dirty : BitVec 128 := 0
  deriving DecidableEq, Repr

/-- An entry of a queue port (R61): the thread that has reserved it and not yet filled it, and the thread that has
reserved it for reading. -/
structure PortEntry where
  val : Word := 0
  filler : Option Nat := none
  reader : Option Nat := none
  deriving DecidableEq, Repr

/-- A queue port (R60): the group it is allotted to, its entries, head first, its linked bank. -/
structure Port where
  group : Option Nat := none
  entries : List PortEntry := []
  link : Option Nat := none
  deriving DecidableEq, Repr

/-- A fork record (R65), with the cycle order of its push. -/
structure ForkRec where
  group : Nat
  creator : Nat
  seq : Nat
  pc : Addr
  a : Word
  ptrs : Vector Word 8
  deriving DecidableEq, Repr

/-- A line that `pf` put into the prefetch queue (R178). -/
structure PfLine where
  group : Nat
  va : Addr
  tgt : CacheTgt
  deriving DecidableEq, Repr

/-- A ferry request (R254): its words, its follow-on address, the handle that it completes, with SEQ, and its group. -/
structure Req where
  w0 : Word
  w1 : Word
  w2 : Word
  w3 : Word
  fo : Word
  thread : Nat
  h : Nat
  seq : W32
  group : Nat
  deriving DecidableEq, Repr

/-- A core (R11). -/
structure Core where
  path : List Msg := []
  l1 : Table Line := []
  /-- code lines of the L1 (R21) -/
  codeLines : Table Line := []
  upd : Table (List Contrib) := []
  ports : Vector Port 4 := .replicate 4 {}
  deque : List ForkRec := []
  fifo : List Req := []
  utlb : List Leaf := []
  prefetch : List PfLine := []
  deriving DecidableEq, Repr

/-! ### A cluster (R10) -/

/-- Bank modes (R167, R182). -/
inductive BankMode where
  | nc | sp | fifo
  deriving DecidableEq, Repr

/-- A queued switch of a bank (R169, R170): the mode, zero-fill, the handle that its completion completes
(thread, handle, SEQ), and the engine operations under way that name the bank, which it waits for. -/
structure Switch where
  mode : BankMode
  z : Bool
  handle : Option (Nat × Nat × W32)
  ops : List (Nat × Nat × W32) := []
  deriving DecidableEq, Repr


/-- A bank 4 to 31. -/
structure Bank where
  mode : BankMode := .nc
  group : Option Nat := none
  queue : List Switch := []
  /-- the linked port: core and port (R63) -/
  port : Option (Nat × Nat) := none
  /-- the ring that lies in it (R290) -/
  ring : Option Nat := none
  deriving DecidableEq, Repr

/-- An engine operation: the thread, the handle register and the SEQ of the request that it belongs to. -/
abbrev OpId := Nat × Nat × W32

/-- An access of an engine that waits for a walk: its operation and its address. -/
abbrev EngWait := OpId × Nat

/-- An outstanding miss (R175): root, key va[54:16], its waiting threads and engine accesses, whether its walk has started, the
ranges that have been dropped since then, of which its result installs no page (R181), whether it is a prefetch's (R178). -/
structure Miss where
  root : Nat
  key : Nat
  threads : List Nat
  started : Bool := false
  drops : List (Nat × Nat) := []
  low : Bool := false
  eng : List EngWait := []
  deriving DecidableEq, Repr

/-- A ring descriptor in use (R289, R294): its parameter word, stage index s and arrival counter C. -/
structure Ring where
  parm : Word
  s : W32 := 0
  c : Nat := 0
  deriving DecidableEq, Repr

/-- A barrier record (R300). -/
structure Bar where
  group : Option Nat := none
  count : Nat := 0
  c : Nat := 0
  phase : W32 := 0
  deriving DecidableEq, Repr

/-- Row status of a tile (R342); a list's pairs (key, index) stand in rank order, so CNT is their number. -/
structure Row where
  ranked : Bool := false
  logk : BitVec 3 := 0
  ref : Bool := false
  pairs : List (W32 × W32) := []
  deriving DecidableEq, Repr

/-- An entry: I and F (R124). -/
structure Entry where
  i : BitVec 128 := 0
  f : Bool := false
  deriving DecidableEq, Repr

/-- An accumulator tile (R342). Entry (r, c) has the key 256 r + c. -/
structure Tile where
  group : Option Nat := none
  scale : BitVec 16 := 0
  entries : Table Entry := []
  rows : Table Row := []
  dirty : Bool := false
  inuse : Bool := false
  deriving DecidableEq, Repr

/-! ### Ferry engines (R258 to R273) -/

/-- An armed request (R271): the location of its landing word, and the generation that it waits for. -/
structure Armed where
  req : Req
  loc : Nat
  gen : W32
  deriving DecidableEq, Repr

/-- One side of a copy (R256, R264): its base, the package and LOC of a remote form, extents and strides (one
dimension for a contiguous side), element size, and the stages of the group's rings that its views resolve against (R291). -/
structure Side where
  base : Word := 0
  remote : Bool := false
  dims : List (Nat × Word) := []
  esize : Nat := 1
  views : Table W32 := []
  deriving DecidableEq, Repr

/-- Where a beat stands (R260): it waits; its reads are on their way; it is held with what it writes until a rotation (R292); its writes
are on their way; its bytes are performed; they are counted. -/
inductive BeatSt where
  | waiting | reading | ahead | writing | moved | counted
  deriving DecidableEq, Repr

/-- A beat: its first element and their number; since when it is held, and the saved group that it is for (R278); where it waits for a
rotation, its place among the writes that do, the ring, and the stage that it resolved to (R292); when its accesses were sent (R226),
the elements that its reads have returned, those whose writes have been acknowledged; of a beat that is held for a rotation, what it
writes and the exceptions of its conversion. -/
structure Beat where
  start : Nat
  n : Nat
  st : BeatSt := .waiting
  held : Option Nat := none
  dest : Option Nat := none
  ring : Option (Nat × Nat × W32) := none
  sent : Option Nat := none
  srcs : List (Option (List Byte)) := []
  acked : List Nat := []
  put : List (Nat × HomeOp) := []
  exc : BitVec 5 := 0
  deriving DecidableEq, Repr

/-- A transfer (R258 to R262): what it converts (source, link and destination types, `sr` with its key and write
count), its landing word as group and scratchpad offset, its exceptions, the fault that it stopped on. -/
structure Xfer where
  id : Nat
  req : Req
  src : Side := {}
  dst : Side := {}
  conv : Option (Ty × Ty × Ty) := none
  sr : Option (Word × Word) := none
  land : Option (Nat × Nat) := none
  beats : List Beat := []
  exc : BitVec 5 := 0
  cause : Option (BitVec 10) := none
  eaddr : Option Word := none
  cancelled : Bool := false
  /-- the follow-on command has been accepted or refused -/
  followed : Bool := false
  finished : Bool := false
  deriving DecidableEq, Repr

/-- A channel (R259): its next identifier, and its transfers that have not left the watermark. -/
structure Channel where
  next : Nat := 1
  xfers : List Xfer := []
  deriving DecidableEq, Repr

/-! ### Matrix arrays (R307 to R336) -/

/-- A weight context (R309): K, N, format, and its weights, row by row, as FP32, exactly. -/
structure Ctx where
  k : Nat
  n : Nat
  fmt : Ty
  w : List (List W32)
  deriving DecidableEq, Repr

/-- The chain that covers an array (R322). -/
structure Chain where
  first : Nat
  cnt : Nat := 1
  west : Bool := false
  east : Bool := false
  deriving DecidableEq, Repr

/-- A run of activation rows (R315, R331), with the stages of the group's rings when it was accepted. `early`: elements that
the tile fetch unit has read before the pass that consumes them, by address (R317). -/
structure Run where
  src : Word
  tags : Word
  pitch : Nat
  mcnt : Nat
  views : Table W32 := []
  early : List (Word × List Byte) := []
  deriving DecidableEq, Repr

/-- An activation row that has been read: its tile row, its elements, and the weights of each array of the chain. -/
structure MRow where
  row : Nat
  acts : List W32
  ws : List Ctx
  deriving DecidableEq, Repr

/-- A command in a queue (R315, R316). For `mxg`, `aux` is the expert table; `land` is what CMPL names. -/
structure MCmd where
  /-- 1 `mw`, 2 `mx`, 3 `mxg` -/
  op : Nat
  array : Nat
  fmt : Ty
  rank : Bool := false
  pair : BitVec 2 := 0
  k : Nat := 0
  n : Nat := 0
  run : Run
  tile : Nat := 0
  row0 : Nat := 0
  col0 : Nat := 0
  pkey : BitVec 16 := 0
  ibase : W32 := 0
  aux : Word := 0
  land : Option (Nat × Nat) := none
  group : Nat
  /-- the handle that it completes; none for a follow-on command, which names the copy that it follows -/
  handle : Option (Nat × Nat × W32) := none
  copy : Option (Nat × Nat × W32) := none
  started : Bool := false
  rows : List MRow := []
  /-- bands that its passes still have to stream -/
  bands : List Nat := []
  /-- of a grouped product: runs that have not been read, the rows that it has, those of the runs that are done, the next
  row of the run at the head, what the table's header gives, the experts read and the one in the cells (R327, R328) -/
  runs : List Run := []
  /-- weights that the tile fetch unit has read before they are latched (R317) -/
  early : List (Word × List Byte) := []
  total : Nat := 0
  base : Nat := 0
  pos : Nat := 0
  wfmt : Ty := .f16
  nexp : Nat := 0
  experts : Table Ctx := []
  expert : Option Nat := none
  closed : Bool := false
  /-- the rows of its pass, and the cycle at which its last pass has streamed (R314) -/
  width : Nat := 0
  last : Nat := 0
  /-- since when a paired half is ready (R324), and the cluster and head of its partner -/
  ready : Option Nat := none
  partner : Option (Nat × Nat) := none
  streamed : Bool := false
  /-- it stops at the next pass boundary (R336) -/
  stop : Bool := false
  deriving DecidableEq, Repr

/-- An array (R307): its holder, its chain, its queues, its contexts, its `mq` selection, and the pairing keys that time
out at once (R324: grid, key, until when). -/
structure MArray where
  group : Option Nat := none
  chain : Option Chain := none
  qn : List MCmd := []
  qh : List MCmd := []
  cn : Option Ctx := none
  ch : Option Ctx := none
  high : Bool := false
  dead : List (Nat × BitVec 16 × Nat) := []
  /-- the queue whose context the cells hold, whether the high one (R309), and the cycle up to which the array streams or swaps -/
  cells : Option Bool := none
  busy : Nat := 0
  deriving DecidableEq, Repr

/-- An `mchain` that waits (R333). -/
structure Link where
  cfg : Chain
  handle : Nat × Nat × W32
  deriving DecidableEq, Repr

/-! ### The wake (R405 to R412) -/

/-- What an update records. -/
inductive WakeObs where
  | branch (b : Bool)
  | load (b : Bool) (l : BitVec 16)
  | taken
  | fell
  | run (t : BitVec 16)
  deriving DecidableEq, Repr

/-- An update in a cluster's queue: the slot's location, its copy's base, its thread as group and thread index, its place in the
order of updates (R411). -/
structure WakeUpd where
  loc : Nat
  copy : Nat
  thread : Option Nat × Nat
  order : Nat
  obs : WakeObs
  deriving DecidableEq, Repr

/-- An entry of a wake read cache: location, value, when the slot held it. -/
structure WakeRead where
  loc : Nat
  val : Word
  time : Nat
  deriving DecidableEq, Repr

structure Cluster where
  ferryLast : Nat := 15
  channels : Table Channel := []
  fired : List Req := []
  armed : List Armed := []
  /-- shape records by partition and virtual address, least recently used first (R265) -/
  shapes : List (Nat × Nat × List Byte) := []
  arrays : Table MArray := []
  links : List Link := []
  wakeQ : List WakeUpd := []
  wakeDrops : Table Nat := []
  wakeCache : List WakeRead := []
  rings : Table (Option Nat × Option Ring) := []
  bars : Table Bar := []
  tiles : Table Tile := []
  near : Table NearLine := []
  banks : Table Bank := []
  tlb : List Leaf := []
  misses : List Miss := []
  /-- messages that its ferry engine has produced and not sent (R189) -/
  outbox : List Msg := []
  /-- results of walks, by root and address, for the engine accesses that waited (R175) -/
  engWalked : List (Nat × EngWait × Walked) := []
  deriving DecidableEq, Repr

/-! ### Groups -/

/-- What a step changes that sys.th depends on (R351): the selection, before and after; or a row of a tile, before and after, with
the pairs that it was presented, none where the step set it anew. -/
inductive ThEff where
  | select (old new : BitVec 12)
  | row (tile row : Nat) (old new : Row) (pairs : Option (List (W32 × W32)))
  deriving DecidableEq, Repr

/-- A step that sys.th can depend on: its cycle, and the thread that made it, none for an array. -/
structure ThStep where
  time : Nat
  who : Option Nat
  eff : ThEff
  deriving DecidableEq, Repr

/-- Where a group is. -/
inductive GroupSt where
  | placed | saving | saved | gone
  deriving DecidableEq, Repr

/-- A tow (R69 to R76): the tug, its followers in core order, who has boarded, whether it runs, and the members that
have not completed the current instruction. -/
structure Tow where
  tug : Nat
  followers : List Nat
  running : Bool := false
  /-- the tug has issued the current instruction (R71) -/
  begun : Bool := false
  /-- the tug as a trap has found it, moored in the current instruction (R74) -/
  held : Option Thread := none
  /-- members that have completed the current instruction (R71) -/
  done : List Nat := []
  /-- where the tug's execution of it leads, and the decision that the tug has read in it (R414) -/
  next : Option Addr := none
  dec : Option Nat := none
  /-- the address of the faulting instruction, while a trap has frozen the tow (R74) -/
  frozen : Option Addr := none
  deriving DecidableEq, Repr

/-- A saved group (R237). Threads are named by slot index: in `tows`, in `forks` (creator) and in `armed` (request).
Cores are named by their place among the group's cores, rings and banks by their numbers in the group. -/
structure Save where
  /-- its placement: cluster and tag, when it was saved, and its group registers, for the header: gid, gtag, fstat, rstat, smiss, th, thsel,
  ufault -/
  cluster : Nat
  gtag : Nat
  since : Nat
  regs : List Word
  /-- the core and slot of each thread at its old placement -/
  homes : List (Nat × Nat)
  /-- the core of each thread, and what its record holds (R236) -/
  threads : List (Nat × Thread)
  /-- core, port, entries, scratchpad slot of the linked bank -/
  ports : List (Nat × Nat × List Word × Option Nat)
  forks : List (Nat × ForkRec)
  /-- mode and bytes by offset -/
  banks : List (BankMode × List (Nat × Byte))
  /-- RING and NARM of landing words, by scratchpad offset -/
  lands : List (Nat × Bool × Nat)
  rings : List (Option Ring)
  bars : List Bar
  /-- armed requests, and the scratchpad offsets of their landing words -/
  armed : List (Armed × Nat)
  tiles : List (Nat × Tile)
  tows : List Tow
  /-- the save area charged, in 64 KiB units, and the frame that holds the image, where it has one -/
  units : Nat
  frame : Option Nat := none
  deriving DecidableEq, Repr

/-- A group (R14) with the group registers of R227. `slots` are its thread keys by slot index. -/
structure Group where
  grid : Nat := 0
  gid : Nat := 0
  cluster : Nat := 0
  gtag : Nat := 0
  st : GroupSt := .placed
  slots : List Nat := []
  /-- physical banks by scratchpad slot (R156) -/
  banks : List Nat := []
  rings : List Nat := []
  bars : List Nat := []
  tiles : List Nat := []
  arrays : List Nat := []
  fstat : BitVec 5 := 0
  rstat : Bool := false
  smiss : W32 := 0
  thsel : BitVec 12 := 0
  /-- the steps of the last 4 cycles that sys.th can depend on, oldest first (R351) -/
  thLog : List ThStep := []
  /-- an abort had reached it when it was saved (R239) -/
  aborted : Bool := false
  ufault : BitVec 10 := 0
  ufaults : W32 := 0
  /-- the code generation that it runs (R204) -/
  gen : Nat := 0
  /-- the pod barrier: its arrival counter, and the number of phases that it has arrived for (R302) -/
  pod : Nat := 0
  podPhase : W32 := 0
  placedAt : Nat := 0
  /-- when its saving began, the save area charged, and its frame (R237) -/
  savingSince : Nat := 0
  saveUnits : Nat := 0
  saveFrame : Option Nat := none
  save : Option Save := none
  deriving DecidableEq, Repr

/-- An executable page (R34, R458): berth, virtual base, log2 of its size, frame, the generations that fetch it, its
start bitmap (bit i for the word i). -/
structure CodeMap where
  root : Nat
  va : Nat
  size : Nat
  frame : Nat
  first : Nat
  last : Option Nat := none
  starts : List Nat
  /-- the clusters, in package numbering, whose cores the role's placement ranges cover (R457); none for any -/
  only : Option (List Nat) := none
  /-- base of the wake copy (R402) -/
  wake : Option Nat := none
  /-- the load that it belongs to -/
  image : Option Nat := none
  deriving DecidableEq, Repr

/-! ### The pod -/

/-- A slot of the grid fault summary (R383): cause, count, lowest group index and its package. -/
structure CauseSlot where
  cause : BitVec 10
  count : Nat
  lowest : Nat
  package : Nat
  deriving DecidableEq, Repr

/-- A fault report on its way to the grid root (R384). -/
structure Report where
  grid : Nat
  cause : BitVec 10
  gid : Nat
  package : Nat
  deriving DecidableEq, Repr

/-- A dependence (R375): the location of its word, the value awaited, whether a write has satisfied it. -/
structure Dep where
  loc : Nat
  val : W32
  hit : Bool := false
  deriving DecidableEq, Repr

/-- Where a grid is. -/
inductive GridSt where
  | waiting | dealing | dealt | ended
  deriving DecidableEq, Repr

/-- A grid (R13, R371 to R391). Tables are keyed by package. -/
structure Grid where
  ident : Word := 0
  seed : Word := 0
  /-- the package and number of the launching berth; the package of the launcher and the launching group, for CLAND -/
  pkg : Nat := 0
  berth : Nat := 0
  lpkg : Nat := 0
  launcher : Option Nat := none
  host : Bool := false
  part : Nat := 0
  region : Nat := 0
  man : List Word := []
  /-- the load whose manifest it was launched from (R461) -/
  image : Option Nat := none
  count : Nat := 0
  queue : Nat := 0
  prio : Nat := 0
  ovl : Bool := false
  st : GridSt := .waiting
  gen : Nat := 0
  deps : List Dep := []
  /-- the word that `launch.ind` has still to read -/
  ind : Option Nat := none
  next : Nat := 0
  dealt : Table (List Nat) := []
  /-- when the indices that a package holds were dealt to it (R440) -/
  dealtAt : Table Nat := []
  placed : Table Nat := []
  disp : Nat := 0
  compl : Nat := 0
  canc : Nat := 0
  causes : List CauseSlot := []
  other : Nat := 0
  first : Option (BitVec 10) := none
  nmoor : Nat := 0
  mdrop : Nat := 0
  /-- mooring entries that have arrived (R383) -/
  arrived : Nat := 0
  /-- END of its first abort, 0 for none, and the packages that the abort has reached -/
  abort : BitVec 8 := 0
  reached : List Nat := []
  /-- the pod barrier: phases complete, and the index of each group that is gone (R302) -/
  phase : W32 := 0
  gone : Nat := 0
  /-- since when no engine operation of the grid has ended or moved and no group of it has come or gone (R242) -/
  quietSince : Nat := 0
  deriving DecidableEq, Repr

/-- A launch on its way to the pod head (R389): the thread or the host command that made it. -/
structure Launch where
  head : Nat
  thread : Option Nat
  host : Option Cmd
  grid : Grid
  since : Nat := 0
  deriving DecidableEq, Repr

/-! ### Partitions, berths, images, packages -/

/-- A region control block (R438): budgets and charges, 0 to 8. -/
structure Rcb where
  parent : Nat := 0
  fd : Bool := false
  prio : Nat := 0
  bud : List W32 := []
  used : List Nat := []
  deriving DecidableEq, Repr

/-- A partition (R436): its pre-emption delay, code generation counter, published generation, regions. -/
structure Part where
  delay : Nat := 2 ^ 16
  counter : Nat := 0
  published : Nat := 0
  regions : Table Rcb := []
  deriving DecidableEq, Repr

/-- An allotted frame (R438): location, log2 of its size, partition, the region that it is charged to, and what it
backs. `gen` is the generation that removed an executable frame, which still fetches for older ones (R460). -/
structure Frame where
  loc : Nat
  size : Nat
  part : Nat
  region : Nat
  charged : Bool := true
  gen : Option Nat := none
  image : Option Nat := none
  deriving DecidableEq, Repr

/-- A loaded image (R456, R461): its berth, its handle, host address and length, HASH, the wake section's offset, the manifest
indices and data pages that it made, its wake copy, the generation of its unload. -/
structure Image where
  berth : Nat
  handle : Word
  host : Nat
  len : Nat
  hash : List Byte
  wakeOff : Nat
  mfs : List Nat
  datas : List (Nat × Nat)
  copy : Option Nat := none
  /-- TAG of the unload that waits for its grids to end -/
  pending : Option (BitVec 16) := none
  unload : Option Nat := none
  /-- whether the writeback and its event follow (R449) -/
  event : Bool := true
  deriving DecidableEq, Repr

/-- A wake copy (R402, R415): slots, HASH, trust group, whether it is shared, the loads attached to it, and its global base in each
berth that has one. -/
structure WakeCopy where
  slots : Nat
  hash : List Byte
  trust : Nat
  shared : Bool
  loads : List Nat
  bases : Table Nat := []
  deriving DecidableEq, Repr

/-- What a write of the host that awaits one is answered with (R445). -/
inductive HostAnswer where
  | normal | completerAbort
  deriving DecidableEq, Repr

/-- A berth (R442, R446, R447). The indices are those of BAR0; `events` have not been written to the event ring. -/
structure Berth where
  bound : Option (Nat × Nat) := none
  trust : Nat := 0
  cls : Nat := 0
  crbase : Word := 0
  crsize : Word := 0
  crtail : Nat := 0
  crhead : Nat := 0
  erbase : Word := 0
  ersize : Word := 0
  ertail : Nat := 0
  erhead : Nat := 0
  events : List (BitVec 128) := []
  /-- manifests by index: their 32 words, STATE in word 20 (R371) -/
  mfs : Table (List Word) := []
  loads : Nat := 0
  /-- what the last host read of device memory returned (R203), and how the last write was answered (R445) -/
  reply : List Byte := []
  answer : Option HostAnswer := none
  /-- messages sent on each MSI-X vector: command completion, grid completion, error, event (R444) -/
  msix : Vector Nat 4 := .replicate 4 0
  /-- a function-level reset, or a binding, that waits for its grids to end -/
  resetting : Option (Option (Nat × Nat × Nat × Nat × BitVec 16)) := none
  deriving DecidableEq, Repr

/-- A partition slice on a package (R437, R162): its partition's number, clusters, HBM units and fabric ports, and its drain limit
(R235, R436). -/
structure Slice where
  part : Nat
  clusters : List Nat
  units : List Nat
  ports : List Nat
  drain : Nat := 2 ^ 18
  deriving DecidableEq, Repr

/-- Bring-up phases (R467): no power, Keel's boot and record check, slack water, full service. -/
inductive Phase where
  | off | boot | slack | full
  deriving DecidableEq, Repr

/-- The die walker's walk in flight (R176): cluster, root, key. -/
structure Walk where
  cluster : Nat
  root : Nat
  key : Nat
  deriving DecidableEq, Repr

/-- A package (R462 to R470). -/
structure Package where
  phase : Phase := .off
  /-- the cycle of its last reset (sys.cycle, R227) -/
  resetAt : Nat := 0
  /-- its load-store domain: even for one that its configuration lists, odd for one of its own (R15, R378, log 80) -/
  domain : Nat := 0
  enabled : List Nat := List.range 64
  ports : List Nat := List.range 32
  slices : List Slice := []
  /-- when its training ended, while slack-water grids still run (R469) -/
  trainedAt : Option Nat := none
  /-- messages that its host agent has produced and not sent (R189) -/
  outbox : List Msg := []
  /-- the configuration record passed its check (R464), and the power cap in watts -/
  recordOk : Bool := true
  cap : Nat := 4600
  throttled : Bool := false
  /-- when Keel last measured (R463) -/
  sampledAt : Nat := 0
  /-- retired 64 KiB pages by location (R466), those of the journal in flash with their signatures, and the corrected errors of the
  last 2^32 cycles, by page and cycle, with the number of all soft errors that Deck counts (R226) -/
  retired : List Nat := []
  journal : List (Nat × List Byte) := []
  corrected : List (Nat × Nat) := []
  softErrors : Nat := 0
  /-- pages of HBM that have returned 0x382 (R466) -/
  returned : List Nat := []
  /-- flash: the configuration record, the Deck image, the highest configuration number (R378, R450, R464) -/
  record : List Byte := []
  deckFlash : List Byte := []
  highest : Nat := 0
  /-- the record that Keel checked at its boot (R464) -/
  booted : List Byte := []
  /-- the Deck image that runs, since when it has met its watchdog, and its 16 MiB of memory, by offset (R450) -/
  deck : Option (List Byte) := none
  deckSeen : Nat := 0
  deckMem : List Host.Cell := []
  /-- hints that Keel has accepted: partitions and regions to take first among equals (R450) -/
  hints : List (Nat × Nat) := []
  /-- the pod head and the configuration number (R378); for a head, the last sequence; the routes of the fabric, by package and
  port (R448) -/
  head : Option Nat := none
  config : Nat := 0
  members : List Nat := []
  seq : Nat := 0
  fabricPorts : List Nat := []
  routes : List (Nat × Nat) := []
  walks : List Walk := []
  /-- the last reading that PLDM monitoring answered: sensor and value (R470) -/
  reading : Option (Nat × Nat) := none
  walkLast : List Nat := []
  deriving DecidableEq, Repr

/-- A turn of the agenda (log 2): a thread issues, its accesses performed at once or lazily; an internal or host step, likewise;
an uncorrectable error strikes a location, or met the writeback or merge of a line, of a group where it is known (R226, R441); an
error is corrected (R226, R466); a link between two packages goes or comes back, or its replies do (R226); Keel has booted (R467); a
tile fetch unit reads an element of a waiting command: its weights (run 0) or a run (from 1 on) (R317). -/
inductive Turn where
  | thread (key : Nat) (eager : Bool)
  | event (i : Instr)
  | lazy (i : Instr)
  | upset (loc : Nat)
  | poison (line : Nat) (group : Option Nat)
  | corrected (loc : Nat)
  | boots (package : Nat)
  | route (a b : Nat) (up : Bool)
  | mute (a b : Nat) (on : Bool)
  | operand (cluster array : Nat) (high : Bool) (index run : Nat) (address : Word) (n : Nat)
  deriving DecidableEq, Repr

structure State where
  threads : Table Thread := []
  cores : Table Core := []
  clusters : Table Cluster := []
  groups : Table Group := []
  grids : Table Grid := []
  packages : Table Package := []
  parts : Table Part := []
  berths : Table Berth := []
  frames : List Frame := []
  images : Table Image := []
  wakeCopies : Table WakeCopy := []
  launches : List Launch := []
  /-- level 0 page tables by root key: 4096 * berth key + package (log 10) -/
  roots : Table Nat := []
  /-- RING and NARM of landing words (R267), by location -/
  landings : Table (Bool × Nat) := []
  /-- the host's memory, as Keel's DMA sees it (R444) -/
  hostMem : List Host.Cell := []
  nextGroup : Nat := 1
  reports : List Report := []
  tows : List Tow := []
  chans : List (Src × HomeId × List Msg) := []
  /-- messages whose home was reset before they reached it: no reply will come (R226) -/
  lost : List Msg := []
  mem : List Host.Cell := []
  /-- poisoned lines, with the bytes that are still poisoned (R226) -/
  poison : Table (BitVec 128) := []
  /-- locations with an uncorrectable error that nothing has read yet (R226) -/
  flaws : List Nat := []
  holders : Table (List Nat) := []
  noRoute : List (Nat × Nat) := []
  /-- links over which no reply comes (R226, R456) -/
  mute : List (Nat × Nat) := []
  /-- faults of the platform range that no thread can be told: partition, region and cause (R441) -/
  untold : List (Nat × Nat × BitVec 10) := []
  codeMaps : List CodeMap := []
  /-- cycles since power-on (R227) -/
  now : Nat := 0
  agenda : List (Nat × Turn) := []
  cur : Nat := 0
  eager : Bool := true
  cursor : Nat := 0
  /-- how many addresses the issue has located -/
  place : Nat := 0
  /-- the next place in the order of moorings, fork records and wake updates -/
  moorings : Nat := 0
  tick : Nat := 0
  deriving DecidableEq, Repr

/-- The machine right after reset: every table empty. -/
def State.reset : State := {}

end Sys2Proof.Machine
end

