-- ==== Sys2Proof/Machine/Ops.lean ====
section
/-! DEFINITION. The named operations over the state: tables, memory, threads, translation, accesses under the reference
machine (R187 to R204), mooring, taking a trap and returning from it. -/
namespace Sys2Proof.Machine

/-! ### Tables -/

/-- The entry of key k, d where none is listed. -/
def tget {α : Type} (t : Table α) (d : α) (k : Nat) : α :=
  match t with
  | [] => d
  | (k', v) :: r => if k = k' then v else tget r d k

/-- The table with v at key k. -/
def tset {α : Type} (t : Table α) (k : Nat) (v : α) : Table α :=
  match t with
  | [] => [(k, v)]
  | (k', v') :: r => if k = k' then (k, v) :: r else (k', v') :: tset r k v

/-- The table without key k. -/
def tdel {α : Type} (t : Table α) (k : Nat) : Table α := t.filter (fun e => e.1 != k)

/-- Whether key k is listed. -/
def thas {α : Type} (t : Table α) (k : Nat) : Bool := t.any (fun e => e.1 == k)

/-- x into a list in order, before the entries that it precedes or equals. -/
def insertBy {α : Type} (le : α → α → Bool) (x : α) : List α → List α
  | [] => [x]
  | y :: ys => if le x y then x :: y :: ys else y :: insertBy le x ys

/-- A list in order; equal entries keep theirs. -/
def sortBy {α : Type} (le : α → α → Bool) : List α → List α
  | [] => []
  | x :: xs => insertBy le x (sortBy le xs)

/-! ### Keys -/

def coreOf (thread : Nat) : Nat := thread / 16
def slotOf (thread : Nat) : Nat := thread % 16
def clusterOf (core : Nat) : Nat := core / 16
def packageOf (cluster : Nat) : Nat := cluster / 64
/-- A package has four compute dies of 16 clusters (R9). -/
def dieOf (cluster : Nat) : Nat := cluster / 16
/-- The berth key: 256 is the physical function. -/
def berthKey (package berth : Nat) : Nat := package * 257 + berth

/-! ### Records of the state -/

namespace State

def thr (s : State) (k : Nat) : Thread := tget s.threads {} k
def core (s : State) (k : Nat) : Core := tget s.cores {} k
def clus (s : State) (k : Nat) : Cluster := tget s.clusters {} k
def grp (s : State) (k : Nat) : Group := tget s.groups {} k
def grid (s : State) (k : Nat) : Grid := tget s.grids {} k
def pkg (s : State) (k : Nat) : Package := tget s.packages {} k
def setThr (s : State) (k : Nat) (t : Thread) : State := { s with threads := tset s.threads k t }
def setCore (s : State) (k : Nat) (c : Core) : State := { s with cores := tset s.cores k c }
def setClus (s : State) (k : Nat) (c : Cluster) : State := { s with clusters := tset s.clusters k c }
def setGrp (s : State) (k : Nat) (g : Group) : State := { s with groups := tset s.groups k g }
def setGrid (s : State) (k : Nat) (g : Grid) : State := { s with grids := tset s.grids k g }
def setPkg (s : State) (k : Nat) (p : Package) : State := { s with packages := tset s.packages k p }
def modThr (s : State) (k : Nat) (f : Thread → Thread) : State := s.setThr k (f (s.thr k))
def modCore (s : State) (k : Nat) (f : Core → Core) : State := s.setCore k (f (s.core k))
def modClus (s : State) (k : Nat) (f : Cluster → Cluster) : State := s.setClus k (f (s.clus k))
def modGrp (s : State) (k : Nat) (f : Group → Group) : State := s.setGrp k (f (s.grp k))
def modGrid (s : State) (k : Nat) (f : Grid → Grid) : State := s.setGrid k (f (s.grid k))
def modPkg (s : State) (k : Nat) (f : Package → Package) : State := s.setPkg k (f (s.pkg k))
/-- The executing thread. -/
def me (s : State) : Thread := s.thr s.cur
/-- Its core, cluster and package. -/
def myCore (s : State) : Nat := coreOf s.cur
def myClus (s : State) : Nat := clusterOf (coreOf s.cur)
def myPkg (s : State) : Nat := packageOf (clusterOf (coreOf s.cur))
/-- The key of its group. -/
def myGrp (s : State) : Nat := s.me.group.getD 0
def bank (s : State) (ck b : Nat) : Bank := tget (s.clus ck).banks {} b
def setBank (s : State) (ck b : Nat) (v : Bank) : State :=
  s.modClus ck (fun c => { c with banks := tset c.banks b v })
def tile (s : State) (ck t : Nat) : Tile := tget (s.clus ck).tiles {} t
def setTile (s : State) (ck t : Nat) (v : Tile) : State :=
  s.modClus ck (fun c => { c with tiles := tset c.tiles t v })
def bar (s : State) (ck b : Nat) : Bar := tget (s.clus ck).bars {} b
def setBar (s : State) (ck b : Nat) (v : Bar) : State :=
  s.modClus ck (fun c => { c with bars := tset c.bars b v })
def ring (s : State) (ck r : Nat) : Option Nat × Option Ring := tget (s.clus ck).rings (none, none) r
def setRing (s : State) (ck r : Nat) (v : Option Nat × Option Ring) : State :=
  s.modClus ck (fun c => { c with rings := tset c.rings r v })
/-- Word w of the manifest of a group's grid (R371). -/
def man (s : State) (g w : Nat) : Word := (s.grid (s.grp g).grid).man.getD w 0
/-- Whether a package gives slack-water service only (R467, R468). -/
def slack (s : State) (p : Nat) : Bool := (s.pkg p).phase == .slack
/-- Whether a package's training has ended and its slack-water grids are being drained (R469). -/
def draining (s : State) (p : Nat) : Bool := s.slack p && (s.pkg p).trainedAt.isSome
/-- sys.cycle of a package (R227). -/
def cycle (s : State) (p : Nat) : Nat := s.now - (s.pkg p).resetAt

end State

/-! ### Memory -/

/-- The memory of all packages: bytes by location. -/
abbrev Memory := List Host.Cell

/-- What a location that is not listed reads as (log 4). -/
def unlistedByte : Byte := 0

def memGet : Memory → Nat → Byte
  | [], _ => unlistedByte
  | (k, b) :: r, a => if a = k then b else memGet r a

/-- The memory with byte b at location a, in the canonical form. -/
def memSet : Memory → Nat → Byte → Memory
  | [], a, b => if b = unlistedByte then [] else [(a, b)]
  | (k, c) :: r, a, b =>
    if a < k then (if b = unlistedByte then (k, c) :: r else (a, b) :: (k, c) :: r)
    else if a = k then (if b = unlistedByte then r else (a, b) :: r)
    else (k, c) :: memSet r a b

/-- The canonical form: locations strictly rising, no entry equal to what an unlisted location reads as. -/
def Memory.wf (m : Memory) : Bool :=
  m.all (fun e => e.2 != unlistedByte) && decide (List.Pairwise (fun x y : Host.Cell => x.1 < y.1) m)

def memBytes (m : Memory) (a : Nat) : Nat → List Byte
  | 0 => []
  | n + 1 => memGet m a :: memBytes m (a + 1) n

def memWrite (m : Memory) (a : Nat) : List Byte → Memory
  | [] => m
  | b :: bs => memWrite (memSet m a b) (a + 1) bs

/-- Bytes at offsets from a. -/
def memMasked (m : Memory) (a : Nat) : List (Nat × Byte) → Memory
  | [] => m
  | (o, b) :: bs => memMasked (memSet m (a + o) b) a bs

/-- The bytes of a bank, emptied. -/
def memClear (m : Memory) (a n : Nat) : Memory := m.filter (fun e => !(decide (a ≤ e.1) && decide (e.1 < a + n)))

/-- The location of a byte of a bank. -/
def bankBase : Nat := 2 ^ 52
def bankLoc (ck b off : Nat) : Nat := bankBase + (ck * 32 + b) * 2 ^ 19 + off
def isBank (loc : Nat) : Bool := decide (bankBase ≤ loc)
/-- The 128-byte line of a location. -/
def lineOf (loc : Nat) : Nat := loc / 128

/-- A little-endian value. -/
def leVal (bs : List Byte) : Nat := bitsOfBytes bs
def leBytes (v n : Nat) : List Byte := bytesOfBits v n
def leWord (bs : List Byte) : Word := BitVec.ofNat 64 (leVal bs)

/-! ### Homes (R161, R162) -/

/-- The package of a physical fabric address. -/
def paPkg (pa : Nat) : Nat := pa / 2 ^ 40 % 2 ^ 12
/-- The HBM unit of a physical fabric address. -/
def paUnit (pa : Nat) : Nat := pa / 2 ^ 32 % 256

/-- The slot-table index of R162. -/
def homeHash (pa : Nat) : Nat :=
  let b : BitVec 52 := BitVec.ofNat 52 pa
  ((b.extractLsb' 7 6) ^^^ (b.extractLsb' 13 6) ^^^ (b.extractLsb' 19 6) ^^^ (b.extractLsb' 25 6)
    ^^^ (b.extractLsb' 31 6) ^^^ ((0 : BitVec 3) ++ b.extractLsb' 37 3)).toNat

/-- The slice that owns a unit of a package. -/
def unitSlice (p : Package) (u : Nat) : Option Slice := p.slices.find? (fun x => x.units.contains u)

/-- The clusters of a package whose home slices hold a location: the enabled clusters of the slice that owns its unit (R162); of a unit
that no slice owns, all enabled clusters, as with a single partition (log 16); in slack water those of CD0 (R468). -/
def Package.homes (p : Package) (loc : Nat) : List Nat :=
  if p.phase == .slack then (List.range 16).filter (fun c => p.enabled.contains c)
  else
    match unitSlice p (paUnit loc) with
    | some x => x.clusters.filter (fun c => p.enabled.contains c)
    | none => (List.range 64).filter (fun c => p.enabled.contains c)

/-- The home of a location: the slot table of its package repeats the clusters that hold it (R162). -/
def State.homeOf (s : State) (loc : Nat) : HomeId :=
  if isBank loc then .bank ((loc - bankBase) / 2 ^ 24) ((loc - bankBase) / 2 ^ 19 % 32)
  else
    let p := paPkg loc
    let cs := (s.pkg p).homes loc
    .slice (p * 64 + cs.getD (homeHash loc % cs.length) 0)

/-- The cluster of a home. -/
def homeCluster : HomeId → Nat
  | .slice c => c
  | .bank c _ => c

/-! ### Channels (R187) -/

def State.chan (s : State) (src : Src) (h : HomeId) : List Msg :=
  match s.chans.find? (fun e => e.1 == src && e.2.1 == h) with
  | some e => e.2.2
  | none => []

/-- The channel set to a list of messages; an empty channel is not listed. -/
def State.setChan (s : State) (src : Src) (h : HomeId) (ms : List Msg) : State :=
  let rest := s.chans.filter (fun e => !(e.1 == src && e.2.1 == h))
  { s with chans := if ms.isEmpty then rest else rest ++ [(src, h, ms)] }

/-- Messages of a thread that have not been performed. -/
def State.inFlight (s : State) (k : Nat) : Bool :=
  s.cores.any (fun c => c.2.path.any (fun m => m.thread == some k)) ||
    s.chans.any (fun e => e.2.2.any (fun m => m.thread == some k))

/-! ### Update-only lines (R200, R201) -/

/-- The contributions added to memory, modulo 2^w at their widths. -/
def addContribs (m : Memory) (line : Nat) : List Contrib → Memory
  | [] => m
  | c :: cs =>
    let a := line * 128 + c.off
    addContribs (memWrite m a (leBytes (leVal (memBytes m a c.n) + c.v.toNat) c.n)) line cs

/-- Dependences on a word that its home has written are evaluated (R375). -/
def State.latchDeps (s : State) (loc n : Nat) : State :=
  if s.grids.any (fun e => e.2.deps.any (fun d => !d.hit && decide (loc < d.loc + 8) && decide (d.loc < loc + n))) then
    { s with
      grids := s.grids.map (fun e =>
        (e.1, { e.2 with
          deps := e.2.deps.map (fun d =>
            if decide (loc < d.loc + 8) && decide (d.loc < loc + n) &&
                decide ((BitVec.ofNat 32 (leVal (memBytes s.mem d.loc 4)) - d.val).toNat < 2 ^ 31) then
              { d with hit := true }
            else d) })) }
  else s

/-- A core's update-only line is merged at its home and discarded. -/
def State.mergeLine (s : State) (c line : Nat) : State :=
  let cs := tget (s.core c).upd [] line
  let s := { s with mem := addContribs s.mem line cs }.latchDeps (line * 128) 128
  let s := s.modCore c (fun k => { k with upd := tdel k.upd line })
  { s with
    holders :=
      match (tget s.holders [] line).filter (fun x => x != c) with
      | [] => tdel s.holders line
      | hs => tset s.holders line hs }

def mergeAll (s : State) (line : Nat) : List Nat → State
  | [] => s
  | c :: cs => mergeAll (s.mergeLine c line) line cs

/-- Every holder of the line is recalled (R201). -/
def State.recall (s : State) (line : Nat) : State := mergeAll s line (tget s.holders [] line)

/-- The lines of n bytes at a location. -/
def linesOf (loc n : Nat) : List Nat := (List.range ((loc + n - 1) / 128 + 1 - loc / 128)).map (fun i => loc / 128 + i)

/-- The recall of every line that n bytes touch. -/
def State.recallN (s : State) (loc n : Nat) : State :=
  if isBank loc || n = 0 then s else (linesOf loc n).foldl (fun s l => s.recall l) s

/-- A core claims an update-only line (R200); a home keeps at most 8 holders and a ninth claim first recalls the
oldest (R201). -/
def State.claim (s : State) (c line : Nat) : State :=
  let hs := tget s.holders [] line
  if hs.contains c then s
  else
    match hs with
    | h :: _ =>
      let s := if 8 ≤ hs.length then s.mergeLine h line else s
      { s with holders := tset s.holders line (tget s.holders [] line ++ [c]) }
    | [] => { s with holders := tset s.holders line [c] }

/-- A contribution enters a core's update-only line (R200). -/
def State.contributeLine (s : State) (c line : Nat) (v : Contrib) : State :=
  s.modCore c (fun k => { k with upd := tset k.upd line (tget k.upd [] line ++ [v]) })

/-! ### What a home performs -/

/-- A mask of n bytes from offset o. -/
def maskOf (o n : Nat) : BitVec 128 := BitVec.ofNat 128 ((2 ^ n - 1) * 2 ^ o)

/-- The poisoned bytes of a line that n bytes at loc overwrite are no longer poisoned (R226). -/
def State.cleanse (s : State) (loc n : Nat) : State :=
  if s.poison.isEmpty || isBank loc then s
  else
    { s with
      poison := s.poison.filterMap (fun e =>
        let lo := max loc (e.1 * 128)
        let hi := min (loc + n) (e.1 * 128 + 128)
        let m : BitVec 128 := if lo < hi then e.2 &&& ~~~maskOf (lo - e.1 * 128) (hi - lo) else e.2
        if m = 0 then none else some (e.1, m)) }

/-- RING and NARM of a landing word stand in its bytes 15 and 12 (R267). -/
def stampLanding (m : Memory) (loc : Nat) (v : Bool × Nat) : Memory :=
  let b12 := memGet m (loc + 12)
  let b15 := memGet m (loc + 15)
  memSet (memSet m (loc + 12) (b12 &&& 0x80 ||| BitVec.ofNat 8 (v.2 % 128)))
    (loc + 15) (b15 &&& 0x7F ||| (if v.1 then 0x80 else 0))

/-- A store to bytes of a landing word leaves its RING and NARM (R267). -/
def State.keepLandings (s : State) (loc n : Nat) : State :=
  (s.landings.filter (fun e => decide (loc < e.1 + 16) && decide (e.1 < loc + n))).foldl
    (fun s e => { s with mem := stampLanding s.mem e.1 e.2 }) s

/-- Bytes written at their home. A location with an uncorrectable error keeps it until its memory is cleared: the spec does not say whether
a store cures it (log 90, DESIGN CHOICE). -/
def State.homeWrite (s : State) (loc : Nat) (bs : List Byte) : State :=
  ({ s with mem := memWrite s.mem loc bs }.cleanse loc bs.length).keepLandings loc bs.length |>.latchDeps loc bs.length

/-- The cause of a read of n bytes at loc: 0x380 for a bank, 0x382 for HBM, an uncorrectable error or poison (R226). -/
def State.readError (s : State) (loc n : Nat) : Option (BitVec 10) :=
  if s.flaws.any (fun f => decide (loc ≤ f) && decide (f < loc + n)) then some (if isBank loc then 0x380 else 0x382)
  else if !isBank loc && s.poison.any (fun e => (linesOf loc n).contains e.1) then some 0x382
  else none

/-- Whether a line can be copied: nothing in it reads with an error, which a copy would not show (R226). -/
def State.sound (s : State) (line : Nat) : Bool := (s.readError (line * 128) 128).isNone

/-- A read of a location has ended in a cause: the page of HBM that has returned 0x382 is noted (R466). -/
def State.noteBad (s : State) (loc : Nat) (c : BitVec 10) : State :=
  let page := loc / 2 ^ 16 * 2 ^ 16
  if c ≠ 0x382 || (s.pkg (paPkg loc)).returned.contains page then s
  else s.modPkg (paPkg loc) (fun p => { p with returned := p.returned ++ [page] })

/-- The new bytes of a read-modify-write (R209 to R213). -/
def Rmw.apply (f : Rmw) (old v : List Byte) : List Byte :=
  let n := old.length
  let x := leVal old
  let y := leVal v
  let sx (z : Nat) : Int := if z < 2 ^ (8 * n - 1) then (z : Int) else (z : Int) - (2 ^ (8 * n) : Nat)
  match f with
  | .add => leBytes (x + y) n
  | .and => leBytes (x &&& y) n
  | .or => leBytes (x ||| y) n
  | .xor => leBytes (x ^^^ y) n
  | .minS => if sx y < sx x then v else old
  | .maxS => if sx x < sx y then v else old
  | .minU => if y < x then v else old
  | .maxU => if x < y then v else old
  | .swap => v
  | .cas e => if old = e then v else old
  | .nib high => if high then leBytes (x % 16 + 16 * (y % 16)) 1 else leBytes (x / 16 * 16 + y % 16) 1

/-- A claim answers nothing; a read or a read-modify-write answers the old bytes. -/
def State.homePerform (s : State) (loc core : Nat) (op : HomeOp) : List Byte × State :=
  match op with
  | .read n =>
    let s := s.recallN loc n
    (memBytes s.mem loc n, s)
  | .write bs => ([], (s.recallN loc bs.length).homeWrite loc bs)
  | .masked bs =>
    let s := s.recallN loc 128
    ([], (bs.foldl (fun (s : State) b => s.cleanse (loc + b.1) 1) { s with mem := memMasked s.mem loc bs }).keepLandings loc 128 |>.latchDeps loc 128)
  | .rmw f v =>
    let s := s.recallN loc v.length
    let old := memBytes s.mem loc v.length
    (old, s.homeWrite loc (f.apply old v))
  | .claim c =>
    let s := s.claim core (lineOf loc)
    ([], s.contributeLine core (lineOf loc) c)

/-! ### The L1 and the near cache (R163 to R165, R188) -/

/-- Byte i of a line. -/
def lineByte (l : Line) (i : Nat) : Byte := l.extractLsb' (8 * i) 8

/-- A line with bytes from offset o. -/
def lineWrite (l : Line) (o : Nat) : List Byte → Line
  | [] => l
  | b :: bs => lineWrite ((l &&& ~~~((255 : Line) <<< (8 * o))) ||| (b.setWidth 1024 <<< (8 * o))) (o + 1) bs

def lineBytes (l : Line) (o n : Nat) : List Byte := (List.range n).map (fun i => lineByte l (o + i))

/-- Whether the cluster has a near-cache way: a bank 4 to 31 in near-cache mode. -/
def State.hasWay (s : State) (ck : Nat) : Bool := (List.range 28).any (fun i => (s.bank ck (i + 4)).mode == .nc)

def State.near (s : State) (ck line : Nat) : NearLine := tget (s.clus ck).near {} line

/-- A line of the near cache; one with no valid byte is not listed. -/
def State.setNear (s : State) (ck line : Nat) (n : NearLine) : State :=
  s.modClus ck (fun c => { c with near := if n.valid = 0 then tdel c.near line else tset c.near line n })

/-- The dirty bytes of a line, with their offsets. -/
def dirtyBytes (n : NearLine) : List (Nat × Byte) :=
  (List.range 128).filterMap (fun i => if n.dirty.getLsbD i then some (i, lineByte n.data i) else none)

/-- Whether a frame is write-locked: an executable mapping covers it (R36). -/
def State.locked (s : State) (pa : Nat) : Bool :=
  s.codeMaps.any (fun m => decide (m.frame ≤ pa) && decide (pa < m.frame + 2 ^ m.size))

/-- What a home performs for a message. A write that reaches a locked frame is discarded (R36). -/
def State.homeServe (s : State) (loc core : Nat) (op : HomeOp) : List Byte × State :=
  match op with
  | .read _ => s.homePerform loc core op
  | .rmw _ v => if s.locked loc then s.homePerform loc core (.read v.length) else s.homePerform loc core op
  | op => if s.locked loc then ([], s) else s.homePerform loc core op

/-- The writebacks of a cluster's near cache that are on their way to a home are performed there, in order (R9). -/
def State.landNear (s : State) (ck : Nat) (h : HomeId) : State :=
  match s.chan (.near ck) h with
  | [] => s
  | ms => ms.foldl (fun s m => (s.homeServe m.loc m.core m.op).2) (s.setChan (.near ck) h [])

/-- The dirty bytes of a line reach the home, after its earlier writebacks; they become clean. -/
def State.writeback (s : State) (ck line : Nat) : State :=
  let n := s.near ck line
  if n.dirty = 0 then s
  else
    let s := s.landNear ck (s.homeOf (line * 128))
    let s := (s.homeServe (line * 128) 0 (.masked (dirtyBytes n))).2
    s.setNear ck line { n with dirty := 0 }

/-- Every writeback of a line has reached its home (R188). -/
def State.nearSettle (s : State) (ck line : Nat) : State := (s.writeback ck line).landNear ck (s.homeOf (line * 128))

/-- The line is written back and dropped (R188). -/
def State.nearFlush (s : State) (ck line : Nat) : State := (s.nearSettle ck line).setNear ck line {}

/-- The core's read copy of the line is discarded. -/
def State.dropL1 (s : State) (c line : Nat) : State := s.modCore c (fun k => { k with l1 := tdel k.l1 line })

/-- A core's own update-only line is merged before a load, store or atomic touches it (R200). -/
def State.mergeOwn (s : State) (c line : Nat) : State := if thas (s.core c).upd line then s.mergeLine c line else s

/-- Every dirty byte of the cluster's near cache reaches its home (R192 step 2), after the writebacks on their way. -/
def State.writebackAll (s : State) (ck : Nat) : State :=
  let out := s.chans.filterMap (fun e => if e.1 == .near ck then some e.2.1 else none)
  ((s.clus ck).near.map (·.1)).foldl (fun s l => s.writeback ck l) (out.foldl (fun s h => s.landNear ck h) s)

/-- Every clean byte of the cluster's near cache is dropped (R193 step 3). -/
def State.dropClean (s : State) (ck : Nat) : State :=
  s.modClus ck (fun c =>
    { c with near := c.near.filterMap (fun e => if e.2.dirty = 0 then none else some (e.1, { e.2 with valid := e.2.dirty })) })

/-! ### Stops of an instruction -/

/-- Why an instruction does not come to its end. A trap has no effect but the trap (R219). A thread that waits keeps
its place; `ends` is a step that has set the thread's next state itself. `x = none`: the spec names no address for this
fault, and sys.eaddr is a free value (log 17). `rests`: it waits, and the registers that it has written stay written (R298,
R302). -/
inductive Stop where
  | trap (c : BitVec 10) (origin : BitVec 2) (epc : Option Addr) (x : Option Word) (info : Word)
  | wait (w : Wait) (s : State)
  | rests (w : Wait) (s : State)
  | ends (s : State)

/-- An instruction's effects, one after the other. -/
abbrev Exec (α : Type) := StateT State (Except Stop) α

/-- ORIGIN of a cause that an instruction raises (R220): 11 for a platform error, else 00. -/
def originOf (c : BitVec 10) : BitVec 2 :=
  if c = 0x380 || c = 0x381 || c = 0x382 || c = 0x390 || c = 0x391 then 3 else 0

/-- A fault of an instruction at an operand's address. `op` is 4 for OPA and 8 for OPB (R225). -/
def fault {α : Type} (c : BitVec 10) (x : Option Word) (op : Word) : Exec α := throw (.trap c (originOf c) none x op)

/-- A fault of the operation itself. -/
def faultOp {α : Type} (c : BitVec 10) : Exec α := fault c none 0

/-- The thread stalls or moors; the state is kept. -/
def waitFor {α : Type} (w : Wait) : Exec α := do
  let s ← get
  throw (.wait w s)

/-- The state in which the executing thread moors with KIND, OBJECT and VALUE (R240), and the mooring. -/
def State.mooring? (s : State) (kind : BitVec 4) (obj : Nat) (val : W32) : Wait × State :=
  (.moored kind obj val s.now s.moorings, { s.modThr s.cur (fun t => { t with freed := false }) with moorings := s.moorings + 1 })

/-- The thread moors with KIND, OBJECT and VALUE (R240). -/
def moor {α : Type} (kind : BitVec 4) (obj : Nat) (val : W32) : Exec α := do
  let s ← get
  throw (.wait (s.mooring? kind obj val).1 (s.mooring? kind obj val).2)

/-- As `moor`, for a thread that has written its registers. -/
def moorLate {α : Type} (kind : BitVec 4) (obj : Nat) (val : W32) : Exec α := do
  let s ← get
  throw (.rests (s.mooring? kind obj val).1 (s.mooring? kind obj val).2)

/-- The executing thread. -/
def getMe : Exec Thread := do
  let s ← get
  pure s.me

def modMe (f : Thread → Thread) : Exec Unit := modify (fun s => s.modThr s.cur f)

/-- The group of the executing thread. -/
def getGrp : Exec Group := do
  let s ← get
  pure (s.grp s.myGrp)

def modMyGrp (f : Group → Group) : Exec Unit := modify (fun s => s.modGrp s.myGrp f)

/-! ### Virtual addresses (R155 to R159) -/

/-- What an access needs of a page (R172). -/
structure Need where
  rd : Bool
  wr : Bool

/-- The fields of a ring parameter word (R289). -/
def ringN (parm : Word) : Nat := 2 ^ (parm.extractLsb' 40 3).toNat
def ringD (parm : Word) : Nat := (parm.extractLsb' 36 4).toNat
def ringZ (parm : Word) : Nat := 4096 * (parm.extractLsb' 24 12).toNat
def ringP (parm : Word) : Nat := (parm.extractLsb' 44 8).toNat + 1
def ringSlot (parm : Word) : Nat := (parm.extractLsb' 52 5).toNat
def ringTarget (parm : Word) : Nat := (parm.extractLsb' 0 24).toNat

/-- The location of byte o of a ring's scratchpad (R290): o counts from offset 0 of slot FSLOT. -/
def State.ringLoc (s : State) (g : Nat) (parm : Word) (o : Nat) : Nat :=
  bankLoc (s.grp g).cluster ((s.grp g).banks.getD (ringSlot parm + o / 2 ^ 19) 0) (o % 2 ^ 19)

/-- The ring of number j of a group: its descriptor and its record, where it is initialised. -/
def State.ringOf (s : State) (g j : Nat) : Option (Nat × Ring) :=
  match (s.grp g).rings[j]? with
  | none => none
  | some r =>
    match (s.ring (s.grp g).cluster r).2 with
    | none => none
    | some v => some (r, v)

/-- Whether a ring's stage has come to where a write beyond d is performed (R292). -/
def State.viewDue (s : State) (g j : Nat) (v : W32) : Bool :=
  match s.ringOf g j with
  | none => true
  | some (_, r) => decide ((v - r.s).toNat ≤ ringD r.parm) || decide (2 ^ 31 ≤ (v - r.s).toNat)

/-- The running tow that a thread belongs to (R70). -/
def State.towOf (s : State) (k : Nat) : Option Tow :=
  s.tows.find? (fun w => w.running && (w.tug == k || w.followers.contains k))

/-- Whether a thread is a follower of a tow that a trap has frozen (R74). -/
def State.frozenFollower (s : State) (k : Nat) : Bool :=
  match s.towOf k with
  | some w => w.frozen.isSome && w.tug != k
  | none => false

/-- A scratchpad byte of a group: slot and offset of R156. -/
def scratchTarget (g : Nat) (so : Nat) (x op : Word) : Exec Target := do
  let s ← get
  let slot := so / 2 ^ 19 % 32
  match (s.grp g).banks[slot]? with
  | none => fault 0x103 (some x) op
  | some b =>
    let ck := (s.grp g).cluster
    let bk := s.bank ck b
    if !bk.queue.isEmpty then waitFor .bank
    else if bk.mode ≠ .sp then fault 0x103 (some x) op
    else pure (.at (bankLoc ck b (so % 2 ^ 19)) true)

/-- Whether an address names a view of a ring, kind 001 (R157). -/
def isView (x : Addr) : Bool := x.extractLsb' 52 4 == 9

/-- The stage index that the executing thread's addresses in ring j resolve against: the ring's at the instruction's issue (R291). -/
def State.ringBase (s : State) (j : Nat) (r : Ring) : W32 :=
  match s.me.views.find? (fun e => e.1 == j) with
  | some e => e.2
  | none => r.s

/-- The ring and the resolved stage of a write of the executing thread beyond the ring's producer distance (R292). -/
def State.writeAhead (s : State) (x : Addr) : Option (Nat × W32) :=
  if !isView x then none
  else
    let j := (x.extractLsb' 45 3).toNat
    match s.ringOf s.myGrp j with
    | none => none
    | some (_, r) =>
      let v := s.ringBase j r + BitVec.ofNat 32 (x.extractLsb' 41 4).toNat
      if s.viewDue s.myGrp j v then none else some (j, v)

/-- A kind 001 address (R157, R291): n bytes, resolved against the stage index at the instruction's issue. -/
def ringTargetOf (x : Addr) (n : Nat) (xw op : Word) : Exec Target := do
  let s ← get
  let j := (x.extractLsb' 45 3).toNat
  let k := (x.extractLsb' 41 4).toNat
  let off := (x.extractLsb' 0 41).toNat
  if x.extractLsb' 48 4 ≠ 0 then fault 0x102 (some xw) op
  else
    match s.ringOf s.myGrp j with
    | none => fault 0x311 (some xw) op
    | some (_, r) =>
      if ringN r.parm ≤ k then fault 0x310 (some xw) op
      else if ringZ r.parm < off + n then fault 0x315 (some xw) op
      else
        let base := s.ringBase j r
        let stage : W32 := base + BitVec.ofNat 32 k
        modMe (fun t => { t with views := tset t.views j base })
        pure (.at (s.ringLoc s.myGrp r.parm (stage.toNat % ringN r.parm * ringZ r.parm + off)) true)

/-- Whether a group stands on its cluster: placed, or being saved (R234). -/
def Group.present (g : Group) : Bool := g.st == .placed || g.st == .saving

/-- The group of a kind 011 address: of the same grid, present on the named cluster with that tag (R159). -/
def State.groupAt (s : State) (ck gtag grid : Nat) : Option Nat :=
  (s.groups.find? (fun e => e.2.cluster == ck && e.2.gtag == gtag && e.2.grid == grid && e.2.present)).map (·.1)

/-- The pod of a package (R13, R378): its configuration number with the pod head, or, before it has accepted one, itself alone. -/
def State.podOf (s : State) (p : Nat) : Nat :=
  if (s.pkg p).config = 0 then p else (s.pkg p).config * 4096 + (s.pkg p).head.getD p

/-- The key of the partition of a number in the pod of a package: a partition lies inside one pod (R13). -/
def State.partKey (s : State) (p n : Nat) : Nat := s.podOf p * 65536 + n

/-- Whether the thread's partition owns a cluster of its package. -/
def State.ownsCluster (s : State) (part ck : Nat) : Bool :=
  let p := s.pkg (packageOf ck)
  p.enabled.contains (ck % 64) && p.slices.any (fun x => s.partKey (packageOf ck) x.part == part && x.clusters.contains (ck % 64))

/-! ### Translation (R171 to R176) -/

/-- The virtual base key of a leaf for an address. -/
def Leaf.covers (l : Leaf) (root va : Nat) : Bool := l.root == root && va / 2 ^ l.size == l.va / 2 ^ l.size

/-- The set of an entry (R174). -/
def Leaf.set (l : Leaf) : Nat := l.va / 2 ^ l.size % 256

/-- Keeps the first n entries that satisfy p. -/
def keepFirst {α : Type} (p : α → Bool) : Nat → List α → List α
  | _, [] => []
  | n, x :: xs => if p x then (match n with | 0 => keepFirst p 0 xs | m + 1 => x :: keepFirst p m xs) else x :: keepFirst p n xs

/-- An entry enters the cluster TLB as the most recently used of its set of 8 ways. -/
def tlbInsert (t : List Leaf) (l : Leaf) : List Leaf :=
  keepFirst (fun x => x.set == l.set) 8 (l :: t.filter (fun x => x != l))

/-- A 32-entry micro-TLB, most recently used first. -/
def utlbInsert (t : List Leaf) (l : Leaf) : List Leaf := (l :: t.filter (fun x => x != l)).take 32

/-- The key of the page tables of a berth on a package (log 10). -/
def rootKey (bk package : Nat) : Nat := bk * 4096 + package

/-- The page tables of a grid's launching berth, on a package. -/
def Grid.root (gr : Grid) (package : Nat) : Nat := rootKey (berthKey gr.pkg gr.berth) package

/-- The page tables that a group translates through. -/
def State.rootOf (s : State) (g : Nat) : Nat := (s.grid (s.grp g).grid).root (packageOf (s.grp g).cluster)

/-- A leaf of the micro-TLB or the cluster TLB for an address, with the TLBs as the hit leaves them. -/
def State.tlbLookup (s : State) (c root va : Nat) : Option (Leaf × State) :=
  match (s.core c).utlb.find? (fun l => l.covers root va) with
  | some l => some (l, s.modCore c (fun k => { k with utlb := utlbInsert k.utlb l }))
  | none =>
    match (s.clus (clusterOf c)).tlb.find? (fun l => l.covers root va) with
    | some l =>
      let s := s.modCore c (fun k => { k with utlb := utlbInsert k.utlb l })
      some (l, s.modClus (clusterOf c) (fun k => { k with tlb := tlbInsert k.tlb l }))
    | none => none

/-- A leaf that the TLBs of a thread's core and cluster hold. -/
def State.leafHeld (s : State) (k root va : Nat) : Option Leaf :=
  ((s.core (coreOf k)).utlb.find? (fun l => l.covers root va)).orElse (fun _ =>
    (s.clus (clusterOf (coreOf k))).tlb.find? (fun l => l.covers root va))

/-- x among the entries of a list. -/
def joinList {α : Type} [BEq α] (xs : List α) (x : Option α) : List α :=
  match x with
  | some x => if xs.contains x then xs else xs ++ [x]
  | none => xs

/-- A miss of a thread, of an engine's access, or of a prefetch takes or joins an outstanding-miss entry; with all 512 in use it takes
none (R175). -/
def State.takeMiss (s : State) (ck root key : Nat) (thread : Option Nat) (eng : Option EngWait) : State :=
  let low := thread.isNone && eng.isNone
  s.modClus ck (fun c =>
    if c.misses.any (fun m => m.root == root && m.key == key) then
      { c with
        misses := c.misses.map (fun m =>
          if m.root == root && m.key == key then
            { m with threads := joinList m.threads thread, low := m.low && low, eng := joinList m.eng eng }
          else m) }
    else if 512 ≤ c.misses.length then c
    else { c with misses := c.misses ++ [{ root := root, key := key, threads := thread.toList, low := low, eng := eng.toList }] })

/-- Whether two packages share a load-store domain, which lies inside one pod (R15). -/
def State.sameDomain (s : State) (p q : Nat) : Bool :=
  p == q || (s.podOf p == s.podOf q && (s.pkg p).domain == (s.pkg q).domain)

/-- Whether the fabric has no route from a package to another: none is configured, through a port that is used (R448), or the link is
gone (R226). -/
def State.unrouted (s : State) (p q : Nat) : Bool :=
  p != q && (s.noRoute.contains (p, q) || s.noRoute.contains (q, p) ||
    !(s.pkg p).routes.any (fun r => r.1 == q && (s.pkg p).fabricPorts.contains r.2))

/-- Whether no reply comes over the link between two packages (R226). -/
def State.muted (s : State) (p q : Nat) : Bool := p != q && (s.mute.contains (p, q) || s.mute.contains (q, p))

/-- The checks of a leaf for an access (R172, R36, R15): the location, or a cause. -/
def State.leafPerm (s : State) (l : Leaf) (va p : Nat) (nd : Need) : Except (BitVec 10) Nat :=
  let pa := l.pa + va % 2 ^ l.size
  if (nd.rd && !l.rd) || (nd.wr && !l.wr) || (nd.wr && s.locked pa) then .error 0x101
  else if !s.sameDomain p (paPkg pa) then .error 0x108
  else .ok pa

/-- As `leafPerm`, and the fabric has a route to the package (R226). -/
def State.leafCheck (s : State) (l : Leaf) (va p : Nat) (nd : Need) : Except (BitVec 10) Nat :=
  match s.leafPerm l va p nd with
  | .error c => .error c
  | .ok pa => if s.unrouted p (paPkg pa) then .error 0x390 else .ok pa

/-- Translation of a global address of the executing thread. In slack water none translates (R468). -/
def globalTarget (x : Addr) (nd : Need) (xw op : Word) : Exec Target := do
  let s ← get
  let va := x.toNat
  let root := s.rootOf s.myGrp
  let use (l : Leaf) : Exec Target := do
    let s ← get
    match s.leafPerm l va s.myPkg nd with
    | .error c => fault c (some xw) op
    | .ok pa => pure (.at pa l.uc)
  if s.slack s.myPkg then fault 0x100 (some xw) op
  else
  match s.me.walked with
  | some (key, w) =>
    if key = va / 2 ^ 16 then
      match w with
      | .leaf l => use l
      | .fault c => fault c (some xw) op
    else
      match s.tlbLookup s.myCore root va with
      | some (l, s') => do
        set s'
        use l
      | none => do
        set (s.takeMiss s.myClus root (va / 2 ^ 16) (some s.cur) none)
        waitFor .walk
  | none =>
    match s.tlbLookup s.myCore root va with
    | some (l, s') => do
      set s'
      use l
    | none => do
      set (s.takeMiss s.myClus root (va / 2 ^ 16) (some s.cur) none)
      waitFor .walk

/-- A kind 010 address (R158). An access that the window does not take (`win` false: another size or type, a vector, an atomic)
raises 0x105, whatever its other bits are; of one that it takes, bits that must be zero and are not, PORT or NUM of the other space
among them, raise 0x102, as R155 says of a window's reserved bits (log 70, DEDUCED). -/
def coreLocal (x : Addr) (win : Bool) (xw op : Word) : Exec Target :=
  let space := (x.extractLsb' 14 2).toNat
  let port := (x.extractLsb' 12 2).toNat
  let num := (x.extractLsb' 3 9).toNat
  if !win then fault 0x105 (some xw) op
  else if x.extractLsb' 16 36 ≠ 0 then fault 0x102 (some xw) op
  else if space = 0 then
    if num ≠ 0 || x.extractLsb' 0 3 ≠ 0 then fault 0x102 (some xw) op else pure (.port port)
  else if space = 1 then
    if port ≠ 0 || x.extractLsb' 0 3 ≠ 0 then fault 0x102 (some xw) op else pure (.sysreg num)
  else fault 0x105 (some xw) op

/-- What n bytes at a virtual address name, for an access of the executing thread (R155). -/
def targetOf (x : Addr) (n : Nat) (nd : Need) (win : Bool) (op : Word) : Exec Target := do
  let s ← get
  let xw : Word := x.setWidth 64
  if !x.getLsbD 55 then globalTarget x nd xw op
  else
    match (x.extractLsb' 52 3).toNat with
    | 0 =>
      if x.extractLsb' 24 28 ≠ 0 then fault 0x102 (some xw) op
      else scratchTarget s.myGrp (x.extractLsb' 0 24).toNat xw op
    | 1 => ringTargetOf x n xw op
    | 2 => coreLocal x win xw op
    | 3 =>
      if x.extractLsb' 48 4 ≠ 0 || x.extractLsb' 32 10 ≠ 0 then fault 0x102 (some xw) op
      else
        let ck := s.myPkg * 64 + (x.extractLsb' 42 6).toNat
        let grid := (s.grp s.myGrp).grid
        if !s.ownsCluster (s.grid grid).part ck then fault 0x104 (some xw) op
        else
          match s.groupAt ck (x.extractLsb' 24 8).toNat grid with
          | none => fault 0x104 (some xw) op
          | some g => scratchTarget g (x.extractLsb' 0 24).toNat xw op
    | _ => fault 0x102 (some xw) op

/-- Whether an address names another group's scratchpad, kind 011 (R159). -/
def isPeer (x : Addr) : Bool := x.extractLsb' 52 4 == 11

/-- What the next address of the executing thread's instruction has been found to name in an earlier issue of it. -/
def State.foundAt (s : State) : Option Target := (s.me.located[s.place]?).bind (·.2)

/-- What an address of an instruction names is held over its issues: of a ring view (R291), and, once it has sent a write, of every
address (R143) but a kind 011 one, whose group may go meanwhile (R159). -/
def Thread.holding (t : Thread) : List (Addr × Option Target) :=
  t.located.map (fun e => (e.1, if isView e.1 || (t.wrote && !isPeer e.1) then e.2 else none))

/-- As `targetOf`; an instruction that issues again goes on with what is held of its addresses. -/
def translate (x : Addr) (n : Nat) (nd : Need) (win : Bool) (op : Word) : Exec Target := do
  let s ← get
  match s.foundAt with
  | some t => do
    set { s with place := s.place + 1 }
    pure t
  | none => do
    let t ← targetOf x n nd win op
    modify (fun s =>
      { s.modThr s.cur (fun th => { th with located := th.located.take s.place ++ (x, some t) :: th.located.drop (s.place + 1) }) with
        place := s.place + 1 })
    pure t

/-- As `translate`, for an access that the core-local window does not take (R158): its location. -/
def locateRaw (x : Addr) (n : Nat) (nd : Need) (op : Word) : Exec (Nat × Bool) := do
  match ← translate x n nd false op with
  | .at loc uc => pure (loc, uc)
  | _ => fault 0x105 (some (x.setWidth 64)) op

/-! ### Accesses (R188, R189) -/

/-- An access of the executing thread. `near`: performed at the L1 or the near cache where R188 says so. `posted`: the
thread does not wait for its acknowledgement. `more`: the stores of its instruction that follow it to the same view of a ring. -/
structure Acc where
  loc : Nat
  va : Addr
  op : HomeOp
  near : Bool := false
  rel : Option Scope := none
  kind : BitVec 3 := 0
  posted : Bool := false
  more : List (Nat × Addr × HomeOp) := []

/-- Whether scope x of a cluster contains a home (R191). -/
def State.inScope (s : State) (x : Scope) (ck : Nat) (h : HomeId) : Bool :=
  let hc := homeCluster h
  match x with
  | .co => true
  | .cl => hc == ck
  | .di => dieOf hc == dieOf ck
  | .pk => packageOf hc == packageOf ck
  | .dm => s.sameDomain (packageOf hc) (packageOf ck)
  | .pd => true

/-- Threads moored with a KIND and OBJECT that a predicate accepts, in mooring order. -/
def State.mooredOn (s : State) (p : Nat → BitVec 4 → Nat → W32 → Bool) : List Nat :=
  let ms := s.threads.filterMap (fun e =>
    match e.2.wait with
    | .moored k o v _ i => if p e.1 k o v then some (i, e.1) else none
    | _ => none)
  (sortBy (fun x y => decide (x.1 ≤ y.1)) ms).map (·.2)

/-- The thread leaves its mooring; it issues its instruction again, which goes on from there. -/
def State.wake (s : State) (k : Nat) : State := s.modThr k (fun t => { t with wait := .ready, freed := true })

def State.wakeAll (s : State) (ks : List Nat) : State := ks.foldl (fun s k => s.wake k) s

/-- The depth of a port (R60, R63). -/
def Port.depth (p : Port) : Nat := if p.link.isSome then 65536 else 8

def State.port (s : State) (c q : Nat) : Port := (s.core c).ports[q]?.getD {}

def State.setPort (s : State) (c q : Nat) (p : Port) : State :=
  s.modCore c (fun k => { k with ports := k.ports.setIfInBounds q p })

/-- The thread that has moored longest on a port with a KIND is released (R54). -/
def State.releaseOne (s : State) (c q : Nat) (kind : BitVec 4) : State :=
  match s.mooredOn (fun t k o _ => coreOf t == c && k == kind && o == q) with
  | t :: _ => s.wake t
  | [] => s

/-- An entry enters a port; the oldest reader moored on it is released (R54). -/
def State.portPush (s : State) (c q : Nat) (e : PortEntry) : State :=
  (s.setPort c q { s.port c q with entries := (s.port c q).entries ++ [e] }).releaseOne c q 1

/-- The reservations of a thread in the ports of its core are given up (R77): the writer that has moored longest has room then,
the reader an entry. -/
def State.dropReservations (s : State) (k : Nat) : State :=
  (List.range 4).foldl (fun s q =>
    let c := coreOf k
    let p := s.port c q
    let fills := p.entries.any (fun e => e.filler == some k)
    let reads := p.entries.any (fun e => e.reader == some k)
    if !fills && !reads then s
    else
      let es := (p.entries.filter (fun e => e.filler != some k)).map (fun e => if e.reader == some k then { e with reader := none } else e)
      let s := s.setPort c q { p with entries := es }
      let s := if fills then s.releaseOne c q 2 else s
      if reads then s.releaseOne c q 1 else s) s

/-- A scope-miss event (R196): two entries on the handler's port, or sys.smiss. -/
def State.scopeMiss (s : State) (thread : Nat) (va : Addr) (kind : BitVec 3) (size : Nat) (x : Scope) : State :=
  let t := s.thr thread
  let g := t.group.getD 0
  let w7 := s.man g 7
  let q := (w7.extractLsb' 18 2).toNat
  let c := coreOf ((s.grp g).slots.getD (w7.extractLsb' 10 8).toNat 0)
  let p := (s.core c).ports[q]?.getD {}
  if w7.getLsbD 9 && decide (p.entries.length + 2 ≤ p.depth) then
    let e0 : Word := (BitVec.ofNat 8 t.tid) ++ va
    let e1 : Word := ((0 : BitVec 55) ++ kind ++ BitVec.ofNat 3 (Nat.log2 size) ++ x.code)
    (s.portPush c q { val := e0 }).portPush c q { val := e1 }
  else
    s.modGrp g (fun g => { g with smiss := if g.smiss = 0xFFFFFFFF then g.smiss else g.smiss + 1 })

/-- The bytes that an operation touches. -/
def HomeOp.size : HomeOp → Nat
  | .read n => n
  | .write bs => bs.length
  | .masked _ => 128
  | .rmw _ v => v.length
  | .claim c => c.n

/-- A release outside its scope is stripped at the first boundary (R195). -/
def State.strip (s : State) (m : Msg) : Msg × State :=
  match m.rel, m.thread with
  | some x, some t =>
    if s.inScope x (clusterOf (coreOf t)) (s.homeOf m.loc) then (m, s)
    else ({ m with rel := none }, s.scopeMiss t m.va m.kind m.op.size x)
  | _, _ => (m, s)

/-- Before an access is performed at the home, the issuing L1 drops its read copy of the line, and the near cache
writes back its dirty bytes and drops the clean ones (R188). -/
def State.beforeHome (s : State) (c loc : Nat) : State :=
  if isBank loc then s
  else ((s.mergeOwn c (lineOf loc)).dropL1 c (lineOf loc)).nearFlush (clusterOf c) (lineOf loc)

/-- Performed at the home for a core. -/
def State.atHome (s : State) (c loc : Nat) (op : HomeOp) : List Byte × State :=
  (s.beforeHome c loc).homeServe loc c op

/-- The line `new` with the bytes of `old` that a mask keeps. -/
def lineKeep (keep : BitVec 128) (old new : Line) : Line :=
  if keep = 0 then new
  else (List.range 128).foldl (fun l i => if keep.getLsbD i then lineWrite l i [lineByte old i] else l) new

/-- The line is fetched from its home: its dirty bytes are written back first; the valid bytes that the near cache holds stay, but
for those of a mask (R165, R188, log 71). -/
def State.fetchLine (s : State) (c line : Nat) (fresh : BitVec 128) : Line × State :=
  let ck := clusterOf c
  let nl := s.near ck line
  let s := s.nearSettle ck line
  let (bs, s) := s.homePerform (line * 128) c (.read 128)
  let d := lineKeep (nl.valid &&& ~~~fresh) nl.data (lineWrite 0 0 bs)
  (d, if s.hasWay ck && s.sound line then s.setNear ck line { data := d, valid := BitVec.allOnes 128, dirty := 0 } else s)

/-- A plain load of a cacheable line that misses (R188): performed at the home; the copies that it leaves (R163, R165), none of a line
in which something reads with an error (R226). -/
def State.homeLoad (s : State) (c loc n : Nat) : List Byte × State :=
  let line := lineOf loc
  let (d, s) := (s.mergeOwn c line).fetchLine c line (maskOf (loc % 128) n)
  let s := if s.sound line then s.modCore c (fun k => { k with l1 := tset k.l1 line d }) else s.dropL1 c line
  (lineBytes d (loc % 128) n, s)

/-- A plain load of a cacheable line whose bytes the near cache holds. The L1 keeps a copy of a line that is all there, and none that is
older than what has been read (R190). -/
def State.nearHit (s : State) (c loc n : Nat) : List Byte × State :=
  let line := lineOf loc
  let nl := s.near (clusterOf c) line
  (lineBytes nl.data (loc % 128) n,
    if nl.valid = BitVec.allOnes 128 then s.modCore c (fun k => { k with l1 := tset k.l1 line nl.data }) else s.dropL1 c line)

/-- Whether the near cache holds n bytes. -/
def State.nearHolds (s : State) (ck loc n : Nat) : Bool :=
  (s.near ck (lineOf loc)).valid &&& maskOf (loc % 128) n = maskOf (loc % 128) n

/-- A plain load of a cacheable line (R188): L1, else near cache, else home. -/
def State.nearLoad (s : State) (c loc n : Nat) : List Byte × State :=
  let line := lineOf loc
  let s := s.mergeOwn c line
  if thas (s.core c).l1 line then (lineBytes (tget (s.core c).l1 0 line) (loc % 128) n, s)
  else if s.nearHolds (clusterOf c) loc n then s.nearHit c loc n
  else s.homeLoad c loc n

/-- The core's L1 copy of a line, if present, takes the bytes of a store (R164). -/
def State.storeL1 (s : State) (c loc : Nat) (bs : List Byte) : State :=
  let line := lineOf loc
  if thas (s.core c).l1 line then
    s.modCore c (fun k => { k with l1 := tset k.l1 line (lineWrite (tget k.l1 0 line) (loc % 128) bs) })
  else s

/-- A plain store of a cacheable line that is performed at the home. -/
def State.homeStore (s : State) (c loc : Nat) (bs : List Byte) : State :=
  let s := (s.mergeOwn c (lineOf loc)).storeL1 c loc bs
  ((s.nearFlush (clusterOf c) (lineOf loc)).homeServe loc c (.write bs)).2

/-- A plain store of a cacheable line that the near cache accepts. -/
def State.nearAccept (s : State) (c loc : Nat) (bs : List Byte) : State :=
  let line := lineOf loc
  let ck := clusterOf c
  let s := (s.mergeOwn c line).storeL1 c loc bs
  let nl := s.near ck line
  let m := maskOf (loc % 128) bs.length
  s.setNear ck line { data := lineWrite nl.data (loc % 128) bs, valid := nl.valid ||| m, dirty := nl.dirty ||| m }

/-- A plain store of a cacheable line (R188): the near cache where the cluster has a way, else the home. -/
def State.nearStore (s : State) (c loc : Nat) (bs : List Byte) : State :=
  if s.hasWay (clusterOf c) then s.nearAccept c loc bs else s.homeStore c loc bs

/-- Performed at once, at its point of performance. -/
def State.performNow (s : State) (c : Nat) (m : Msg) : List Byte × State :=
  let (m, s) := s.strip m
  if m.near then
    match m.op with
    | .read n => s.nearLoad c m.loc n
    | .write bs => ([], s.nearStore c m.loc bs)
    | op => s.atHome c m.loc op
  else s.atHome c m.loc m.op

/-- Whether nothing stands before an access of a core to a home. -/
def State.clear (s : State) (c : Nat) (h : HomeId) : Bool :=
  (s.core c).path.isEmpty && (s.chan (.core c) h).isEmpty && (s.chan (.near (clusterOf c)) h).isEmpty

/-- Whether an access of thread k to a line has not been performed. -/
def State.linePending (s : State) (k line : Nat) : Bool :=
  let p (m : Msg) : Bool := m.thread == some k && lineOf m.loc == line
  s.cores.any (fun c => c.2.path.any p) || s.chans.any (fun e => e.2.2.any p)

/-- Whether the bytes are held by the core's L1 and the executing thread has no earlier access to the line under way
(R190). -/
def State.l1Holds (s : State) (c loc : Nat) : Bool :=
  thas (s.core c).l1 (lineOf loc) && !thas (s.core c).upd (lineOf loc) && !s.linePending s.cur (lineOf loc)

/-- Whether the L1 or the near cache has the bytes of a plain read, which then does not reach the home. -/
def State.copyHolds (s : State) (c loc n : Nat) : Bool :=
  thas (s.core c).l1 (lineOf loc) || s.nearHolds (clusterOf c) loc n

/-- The data errors of an operand of n bytes (R219, R226): no route, an uncorrectable error of what is read. An access that has been
made has met none. -/
def reach (loc n : Nat) (rd near : Bool) (x : Addr) (op : Word) : Exec Unit := do
  let s ← get
  if s.cursor < s.me.got.length then pure ()
  else if !isBank loc && s.unrouted s.myPkg (paPkg loc) then fault 0x390 (some (x.setWidth 64)) op
  else if rd && !(near && s.copyHolds s.myCore loc n) then
    match s.readError loc n with
    | some c => fault c (some (x.setWidth 64)) op
    | none => pure ()
  else pure ()

/-- The location of n bytes at a virtual address, translated, with no data error (R155, R219). -/
def locate (x : Addr) (n : Nat) (nd : Need) (op : Word) : Exec (Nat × Bool) := do
  let (loc, uc) ← locateRaw x n nd op
  reach loc n nd.rd (!uc && !nd.wr) x op
  pure (loc, uc)

/-- The group that holds the bank of a location. -/
def State.ownerOf (s : State) (loc : Nat) : Option Nat :=
  match s.homeOf loc with
  | .slice _ => none
  | .bank ck b => (s.bank ck b).group

/-- One access of the executing thread (R189). An access that an earlier issue of the instruction has made is not made
again: its reply stands in `got`. Performed at once when the turn is eager and the path is clear, or by an L1 read; a
lazy turn lets it enter the core path. -/
def access (a : Acc) (op : Word) : Exec (List Byte) := do
  let s ← get
  let i := s.cursor
  let c := s.myCore
  let h := s.homeOf a.loc
  let xw : Word := a.va.setWidth 64
  let m : Msg := { thread := some s.cur, opnd := op, core := c, loc := a.loc, va := a.va, op := a.op, near := a.near,
                   owner := s.ownerOf a.loc, rel := a.rel, kind := a.kind, reply := if a.posted then none else some i, cycle := s.now }
  let isRead : Bool := match a.op with | .read _ => true | _ => false
  match s.me.got[i]? with
  | some (some bs) => do
    set { s with cursor := i + 1 }
    pure bs
  | some none =>
    match s.me.err with
    | some (j, cz) => if j = i then fault cz (some xw) op else waitFor .reply
    | none => waitFor .reply
  | none => do
    match a.op with
    | .read n => reach a.loc n true a.near a.va op
    | .rmw _ v => reach a.loc v.length true false a.va op
    | _ => pure ()
    match (if isRead then none else s.writeAhead a.va) with
    | some (j, v) =>
      -- beyond d: the thread moors with KIND 7, and the rotation performs the write (R292)
      if s.clear c h then do
        modMe (fun t =>
          { t with kept := some v, pending := m :: a.more.map (fun e => { m with loc := e.1, va := e.2.1, op := e.2.2, rel := none }) })
        moor 7 j v
      else waitFor .path
    | none =>
    if s.eager || (isRead && a.near && s.l1Holds c a.loc) then
      if s.clear c h || (isRead && a.near && s.l1Holds c a.loc) then do
        let (bs, s') := s.performNow c m
        set { (s'.modThr s.cur (fun t => { t with got := t.got ++ [some bs], wrote := t.wrote || !isRead })) with cursor := i + 1 }
        pure bs
      else waitFor .path
    else do
      set { ((s.modCore c (fun k => { k with path := k.path ++ [m] })).modThr s.cur
            (fun t => { t with got := t.got ++ [if a.posted then some [] else none], wrote := t.wrote || !isRead })) with
            cursor := i + 1 }
      if a.posted then pure [] else waitFor .reply

/-- A plain load of n bytes. -/
def loadBytes (x : Addr) (n : Nat) (op : Word) : Exec (List Byte) := do
  let (loc, uc) ← locate x n ⟨true, false⟩ op
  access { loc := loc, va := x, op := .read n, near := !uc } op

/-- A write whose home lies in another package, or which goes to another group's scratchpad, waits for its reply, so that 0x391 and
0x104 are precise (R186, R226, log 7). -/
def State.remote (s : State) (loc : Nat) : Bool :=
  if isBank loc then s.ownerOf loc != some s.myGrp else paPkg loc != s.myPkg

/-- A plain store at a location, with those that follow it to the same view of a ring. -/
def storeMore (loc : Nat) (uc : Bool) (x : Addr) (bs : List Byte) (more : List (Nat × Addr × HomeOp)) (op : Word) : Exec Unit := do
  let s ← get
  let near := !uc && s.hasWay s.myClus
  discard <| access { loc := loc, va := x, op := .write bs, near := !uc, posted := near || !s.remote loc, more := more } op

/-- A plain store at a location. -/
def storeAt (loc : Nat) (uc : Bool) (x : Addr) (bs : List Byte) (op : Word) : Exec Unit := storeMore loc uc x bs [] op

/-- A plain store of bytes. -/
def storeBytes (x : Addr) (bs : List Byte) (op : Word) : Exec Unit := do
  let (loc, uc) ← locate x bs.length ⟨false, true⟩ op
  storeAt loc uc x bs op

/-! ### Release and acquire (R192, R193) -/

/-- Scopes `.di` and wider. -/
def scopeWide : Scope → Bool
  | .co | .cl => false
  | _ => true

/-- Whether the near cache of a cluster has writebacks on their way. -/
def State.writebacksOut (s : State) (ck : Nat) : Bool := s.chans.any (fun e => e.1 == .near ck)

/-- Steps 1 and 2 of R192: earlier accesses of the thread performed; the near cache's dirty bytes written back. -/
def releaseSteps (x : Scope) : Exec Unit := do
  let s ← get
  if s.inFlight s.cur then waitFor .release
  else if scopeWide x then
    if s.writebacksOut s.myClus then waitFor .release else set (s.writebackAll s.myClus)
  else pure ()

/-- Steps 2 and 3 of R193. -/
def acquireSteps (x : Scope) : Exec Unit := do
  let s ← get
  match x with
  | .co => pure ()
  | .cl => set (s.modCore s.myCore (fun k => { k with l1 := [] }))
  | _ => set ((s.modCore s.myCore (fun k => { k with l1 := [] })).dropClean s.myClus)

/-- Whether an order releases, acquires. -/
def Ord.rels : Ord → Bool
  | .rel | .ar => true
  | _ => false
def Ord.acqs : Ord → Bool
  | .acq | .ar => true
  | _ => false

/-- The release part of an access. -/
def relPart (q : Qual) : Exec Unit := if Ord.rels q.ord then releaseSteps q.scope else pure ()
/-- The acquire part of an access. -/
def acqPart (q : Qual) : Exec Unit := if Ord.acqs q.ord then acquireSteps q.scope else pure ()

/-! ### Instruction starts (R20, R34, R35) -/

/-- R20, from the instruction's length. -/
def nextPc (pc : Addr) (len : Nat) : Addr :=
  let n := pc + BitVec.ofNat 56 len
  if n.toNat % 32 = 28 then n + 4 else n

/-- Whether generation y is x or a later one, as the 32-bit counter of R458 shows them: they compare as those of R270 (R460). -/
def genReached (x y : Nat) : Bool := decide ((BitVec.ofNat 32 y - BitVec.ofNat 32 x).toNat < 2 ^ 31)

/-- The generation after x (R458). A generation is held as its place among all that the partition has had; its low 32 bits are the
counter, and nothing else of it is seen. -/
def genAfter (x : Nat) : Nat := x + 1

/-- Whether an executable page is fetched in a generation: from its first on, until a generation removes it (R458). -/
def CodeMap.serves (m : CodeMap) (gen : Nat) : Bool :=
  decide (m.first ≤ gen) && (match m.last with | some l => decide (gen ≤ l) | none => true)

/-- The executable page of a group at an address. -/
def State.codeAt (s : State) (g : Nat) (x : Addr) : Option CodeMap :=
  s.codeMaps.find? (fun m => m.root == s.rootOf g && decide (m.va ≤ x.toNat) && decide (x.toNat < m.va + 2 ^ m.size)
    && m.serves (s.grp g).gen)

/-- Whether a transfer to an address may be made: its page is not mapped executable, or an instruction starts there. -/
def State.startOk (s : State) (g : Nat) (x : Addr) : Bool :=
  match s.codeAt g x with
  | none => true
  | some m => x.toNat % 4 == 0 && m.starts.contains ((x.toNat - m.va) / 4)

/-- The check of R35. -/
def checkStart (x : Addr) : Exec Unit := do
  let s ← get
  if s.startOk s.myGrp x then pure () else fault 0x0A1 (some (x.setWidth 64)) 0

/-! ### Threads that end, reports (R59, R221, R384) -/

/-- A fault report leaves for the root of the grid. -/
def State.report (s : State) (g : Nat) (c : BitVec 10) : State :=
  let gr := s.grp g
  { s with reports := s.reports ++ [{ grid := gr.grid, cause := c, gid := gr.gid, package := packageOf gr.cluster }] }

/-- What a thread holds of the instruction that it is executing, taken from p. -/
def Thread.progress (t p : Thread) : Thread :=
  { t with got := p.got, err := p.err, walked := p.walked, kept := p.kept, views := p.views, ths := p.ths, drawn := p.drawn, watch := p.watch,
           sent := p.sent, pending := p.pending, freed := p.freed, passed := p.passed, locked := p.locked, wrote := p.wrote,
           located := p.holding }

/-- The thread is done with its instruction. -/
def Thread.settled (t : Thread) : Thread :=
  { t with got := [], err := none, walked := none, kept := none, views := [], ths := none, drawn := none, watch := none, sent := none,
           pending := [], freed := false, passed := false, locked := none, wrote := false, located := [], wait := .ready }

/-- The thread ends; its slot is idle and stays allotted (R59). AB and H are cleared with it (R303). -/
def State.endThread (s : State) (k : Nat) : State :=
  s.modThr k (fun t =>
    { t.settled with live := false, idleSince := s.now, block := none, yielding := none, trap := { t.trap with h := false, ab := false } })

/-! ### Tows (R69 to R76) -/

def State.setTow (s : State) (w : Tow) : State :=
  { s with tows := s.tows.map (fun x => if x.tug == w.tug && x.running == w.running then w else x) }

/-- Whether the thread executes under a tow that no trap has frozen. -/
def State.towed (s : State) (k : Nat) : Bool :=
  match s.towOf k with
  | some w => w.frozen.isNone
  | none => false

/-- The members of a tow. -/
def Tow.members (w : Tow) : List Nat := w.tug :: w.followers

/-- The tow of a tug that ends is over; its followers stay moored, and their instruction is forgotten (log 72). -/
def State.endTow (s : State) (k : Nat) : State :=
  let fs := (s.tows.filter (fun w => w.tug == k && w.running)).flatMap Tow.followers
  fs.foldl (fun s m => s.modThr m (fun t => { t.settled with wait := t.wait })) { s with tows := s.tows.filter (fun w => w.tug != k) }

/-! ### Completion -/

/-- The executing thread goes on at an address. -/
def State.goOn (s : State) (k : Nat) (pc : Addr) : State := s.modThr k (fun t => { t.settled with pc := pc })

/-- A member of a tow has completed the current instruction; when all have, all go on where the tug leads (R71). -/
def State.towDone (s : State) (w : Tow) (k : Nat) (pc : Addr) : State :=
  let nx := if k = w.tug then some pc else w.next
  let w := { w with done := k :: w.done, next := nx }
  let s := s.modThr k Thread.settled
  if w.members.all (fun m => w.done.contains m) then
    let s := w.members.foldl (fun s m => s.goOn m (nx.getD pc)) s
    s.setTow { w with done := [], next := none, dec := none, begun := false }
  else
    let s := s.setTow w
    if k = w.tug then
      { s.modThr k (fun t => { t with wait := .moored 8 0 0 s.now s.moorings }) with moorings := s.moorings + 1 }
    else s

/-- The instruction at the thread's pc is complete; `dest` is a taken transfer's target. -/
def State.complete (s : State) (len : Nat) (dest : Option Addr) : State :=
  let k := s.cur
  match s.towOf k with
  | some w =>
    if w.frozen.isSome then s.goOn k (dest.getD (nextPc (s.thr k).pc len))
    else s.towDone w k (dest.getD (nextPc (s.thr w.tug).pc len))
  | none => s.goOn k (dest.getD (nextPc (s.thr k).pc len))

/-! ### Taking a trap and returning (R219 to R231) -/

/-- The flags as sys.flags lays them out (R82). -/
def Flags.toBits (f : Flags) : BitVec 6 :=
  boolBit f.t ++ boolBit f.p ++ boolBit f.v ++ boolBit f.c ++ boolBit f.n ++ boolBit f.z

def Flags.ofBits (b : BitVec 6) : Flags :=
  { z := b.getLsbD 0, n := b.getLsbD 1, c := b.getLsbD 2, v := b.getLsbD 3, p := b.getLsbD 4, t := b.getLsbD 5 }

/-- Trap entry (R220, R221): the thread k traps with a cause, an origin, epc, eaddr and einfo. -/
def State.enterTrap (s : State) (k : Nat) (c : BitVec 10) (origin : BitVec 2) (epc : Addr) (x info : Word) : State :=
  let t := s.thr k
  let g := t.group.getD 0
  let vector : Addr := (s.man g 1).setWidth 56
  if t.trap.h then ((s.endTow k).endThread k).report g 0x0D3
  else if vector = 0 then ((s.endTow k).endThread k).report g c
  else
    let area : Word := (s.man g 4) + BitVec.ofNat 64 (256 * t.tid)
    s.modThr k (fun t =>
      { t.settled with
        trap := { t.trap with cause := (0 : BitVec 52) ++ origin ++ c, epc := epc.setWidth 64, eaddr := x, einfo := info,
                              ea := t.a, ef := t.f, ep6 := t.ptrs[6], ep7 := t.ptrs[7], h := true }
        ptrs := t.ptrs.set 7 (area.extractLsb' 0 56 |>.setWidth 64)
        f := {}
        pc := vector
        yielding := none })

/-- The value of sys.eaddr of a fault; where the spec names none, a free value (log 17). -/
def State.trapAddr (s : State) (x : Option Word) : Word × State :=
  match x with
  | some v => (v, s)
  | none => (Config.freeWord s.tick, { s with tick := s.tick + 1 })

/-- Whether a thread has made an access of its instruction, or sent a request, and is on its way to the instruction's end. A follower that
waits for the tug's decision (R414) is not. -/
def State.underway (s : State) (k : Nat) : Bool :=
  let t := s.thr k
  t.live && (!t.got.isEmpty || t.sent.isSome || t.drawn.isSome) &&
    (match t.wait with
      | .moored _ _ _ _ _ | .trapping => false
      | .miss => t.sent.isSome
      | _ => true)

/-- The tow freezes at a fault of member k (R74): its followers are moored. A member that has neither completed the instruction nor
faulted keeps what it has done of it, but for its port reservations; of the tug, which takes the trap, the tow keeps it (log 72). -/
def State.freeze (s : State) (w : Tow) (k : Nat) : State :=
  let s := (s.dropReservations w.tug).setTow
    { w with frozen := some (s.thr w.tug).pc
             held := if k = w.tug || w.done.contains w.tug then none else some (s.thr w.tug) }
  w.followers.foldl (fun s m =>
    let s := s.dropReservations m
    { s.modThr m (fun t => { (if m = k then t.settled else t) with wait := .moored 8 0 0 s.now s.moorings })
      with moorings := s.moorings + 1 }) s

/-- The leaf through which a thread has reached an address. -/
def State.leafSeen (s : State) (k va : Nat) : Option Leaf :=
  let root := s.rootOf ((s.thr k).group.getD 0)
  match (s.thr k).walked with
  | some (_, .leaf l) => if l.covers root va then some l else s.leafHeld k root va
  | _ => s.leafHeld k root va

/-- A thread traps with a cause at an address: the page of HBM that has returned 0x382 is noted (R466). -/
def State.noteRead (s : State) (k : Nat) (c : BitVec 10) (x : Option Word) : State :=
  match x with
  | some v =>
    if c = 0x382 then
      let va := v.toNat % 2 ^ 56
      match s.leafSeen k va with
      | some l => s.noteBad (l.pa + va % 2 ^ l.size) c
      | none => s
    else s
  | none => s

/-- A fault of thread k at its instruction. In a running tow it is delivered to the tug, and the tow freezes (R74), once no other
member is under way with the instruction. -/
def State.takeTrap (s : State) (k : Nat) (c : BitVec 10) (origin : BitVec 2) (epc : Option Addr) (x : Option Word)
    (info : Word) : State :=
  let s := s.noteRead k c x
  match s.towOf k with
  | some w =>
    if w.frozen.isSome then
      let (xv, s) := (s.dropReservations k).trapAddr x
      s.enterTrap k c origin (epc.getD (s.thr k).pc) xv info
    else if w.members.any (fun m => m != k && s.underway m) then s.modThr k (fun t => { t with wait := .trapping })
    else
      let (xv, s) := (s.dropReservations k).trapAddr x
      let pc := (s.thr w.tug).pc
      let s := s.freeze w k
      let s := s.modThr w.tug (fun t => { t with trap := { t.trap with tow := BitVec.ofNat 4 (coreOf k) } })
      s.enterTrap w.tug c origin (epc.getD pc) xv info
  | none =>
    -- a tug that has not set out has no tow any more (R70)
    let (xv, s) := ({ s with tows := s.tows.filter (fun w => w.running || w.tug != k) }.dropReservations k).trapAddr x
    s.enterTrap k c origin (epc.getD (s.thr k).pc) xv info

end Sys2Proof.Machine
end

