-- ==== Sys2Proof/Machine/Float.lean ====
section
/-! DEFINITION. Number formats, rounding and conversion (R110 to R123), on exact values. -/
namespace Sys2Proof.Machine

/-- What happens at the top exponent (R112). -/
inductive FmtKind where
  | ieee | e4m3 | e2m1
  deriving DecidableEq, Repr

/-- A floating-point format (R111, R112). -/
structure Fmt where
  eb : Nat
  mb : Nat
  bias : Nat
  kind : FmtKind := .ieee
  deriving DecidableEq, Repr

def fmtF64 : Fmt := { eb := 11, mb := 52, bias := 1023 }
def fmtF32 : Fmt := { eb := 8, mb := 23, bias := 127 }
def fmtF16 : Fmt := { eb := 5, mb := 10, bias := 15 }
def fmtBf16 : Fmt := { eb := 8, mb := 7, bias := 127 }
def fmtE4m3 : Fmt := { eb := 4, mb := 3, bias := 7, kind := .e4m3 }
def fmtE5m2 : Fmt := { eb := 5, mb := 2, bias := 15 }
def fmtE2m1 : Fmt := { eb := 2, mb := 1, bias := 1, kind := .e2m1 }

/-- The format of a floating-point type (R27); another type has none of its own and takes FP32. -/
def Fmt.ofTy : Ty → Fmt
  | .f64 => fmtF64
  | .f16 => fmtF16
  | .bf16 => fmtBf16
  | .f8e4 => fmtE4m3
  | .f8e5 => fmtE5m2
  | .f4 => fmtE2m1
  | _ => fmtF32

/-- An exact value: ±num/den, or a special value. -/
inductive FVal where
  | nan (signalling : Bool)
  | inf (neg : Bool)
  | fin (neg : Bool) (num den : Nat)
  deriving DecidableEq, Repr

/-- Rounding modes (R118); `sr` with the 32 bits that the fraction is held against (R119). -/
inductive Mode where
  | rne | rz | rdn | rup
  | sr (z : Nat)
  deriving DecidableEq, Repr

def Mode.ofRm : Rm → Mode
  | .rne => .rne | .rz => .rz | .rdn => .rdn | .rup => .rup

/-- The generator of R120. -/
def gen (key c0 c1 : Word) : Word :=
  let z := key ^^^ (c0 * 0x9E3779B97F4A7C15) ^^^ (c1 * 0xD1B54A32D192ED03)
  let z := (z ^^^ (z >>> 30)) * 0xBF58476D1CE4E5B9
  let z := (z ^^^ (z >>> 27)) * 0x94D049BB133111EB
  z ^^^ (z >>> 31)

/-- `sr` with a key, a coordinate and a write count (R119). -/
def Mode.srOf (key c0 c1 : Word) : Mode := .sr ((gen key c0 c1) >>> 32).toNat

/-- The exceptions of R83, as sys.fstat lays them out. -/
def xInexact : BitVec 5 := 1
def xUnderflow : BitVec 5 := 2
def xOverflow : BitVec 5 := 4
def xDivZero : BitVec 5 := 8
def xInvalid : BitVec 5 := 16

/-- Bits of a format. -/
def Fmt.width (f : Fmt) : Nat := 1 + f.eb + f.mb
def Fmt.emax (f : Fmt) : Nat := 2 ^ f.eb - 1

/-- The value of an encoding (R112). -/
def Fmt.decode (f : Fmt) (b : Nat) : FVal :=
  let m := b % 2 ^ f.mb
  let e := b / 2 ^ f.mb % 2 ^ f.eb
  let s := decide (b / 2 ^ (f.mb + f.eb) % 2 = 1)
  if e = f.emax && f.kind == .ieee then
    if m = 0 then .inf s else .nan (decide (m < 2 ^ (f.mb - 1)))
  else if e = f.emax && f.kind == .e4m3 && m = 7 then .nan false
  else
    let sig := if e = 0 then m else m + 2 ^ f.mb
    -- value sig * 2 ^ (max e 1 - bias - mb)
    let up := max e 1
    let down := f.bias + f.mb
    if down ≤ up then .fin s (sig * 2 ^ (up - down)) 1 else .fin s sig (2 ^ (down - up))

/-- The canonical NaN (R112); E2M1 has none and gives +0 (R121). -/
def Fmt.nan (f : Fmt) : Nat :=
  match f.kind with
  | .ieee => f.emax * 2 ^ f.mb + 2 ^ (f.mb - 1)
  | .e4m3 => 0x7F
  | .e2m1 => 0

def Fmt.signBit (f : Fmt) (neg : Bool) : Nat := if neg then 2 ^ (f.eb + f.mb) else 0

/-- The largest finite encoding. -/
def Fmt.maxFin (f : Fmt) : Nat :=
  match f.kind with
  | .ieee => f.emax * 2 ^ f.mb - 1
  | .e4m3 => 0x7E
  | .e2m1 => 7

/-- ±∞ of a format; E4M3 answers NaN and E2M1 ±6 (R121). -/
def Fmt.infOf (f : Fmt) (neg : Bool) : Nat :=
  match f.kind with
  | .ieee => f.emax * 2 ^ f.mb + f.signBit neg
  | .e4m3 => 0x7F
  | .e2m1 => 7 + f.signBit neg

/-- num/den rounded to an integer (R118, R119), and whether it was inexact. -/
def roundInt (md : Mode) (neg : Bool) (num den : Nat) : Nat × Bool :=
  let lo := num / den
  let rem := num % den
  if rem = 0 then (lo, false)
  else
    let up : Bool :=
      match md with
      | .rne => decide (den < 2 * rem) || (decide (2 * rem = den) && lo % 2 == 1)
      | .rz => false
      | .rdn => neg
      | .rup => !neg
      | .sr z => decide (z < rem * 2 ^ 32 / den)
    (if up then lo + 1 else lo, true)

/-- floor(log2 (num/den)), for num ≠ 0. -/
def log2Q (num den : Nat) : Int :=
  let e : Int := (Nat.log2 num : Int) - (Nat.log2 den : Int)
  -- 2 ^ (e - 1) < num/den < 2 ^ (e + 1)
  if 0 ≤ e then (if num < den * 2 ^ e.toNat then e - 1 else e)
  else (if num * 2 ^ (-e).toNat < den then e - 1 else e)

/-- num/den * 2 ^ (-q). -/
def scaleQ (num den : Nat) (q : Int) : Nat × Nat :=
  if 0 ≤ q then (num, den * 2 ^ q.toNat) else (num * 2 ^ (-q).toNat, den)

/-- A finite value rounded once to a format: the encoding and the exceptions (R118, R119, R122). Tiny after rounding is judged on
the delivered result: a value that rounds up to the smallest normal number sets no underflow (log 68, DEDUCED). -/
def Fmt.roundFin (f : Fmt) (md : Mode) (neg : Bool) (num den : Nat) : Nat × BitVec 5 :=
  if num = 0 then (f.signBit neg, 0)
  else
    let e := log2Q num den
    let q : Int := max e (1 - (f.bias : Int)) - (f.mb : Int)
    let (a, b) := scaleQ num den q
    let (n, inex) := roundInt md neg a b
    let (n, q) := if 2 ^ (f.mb + 1) ≤ n then (n / 2, q + 1) else (n, q)
    let x := if inex then xInexact else 0
    if n < 2 ^ f.mb then (f.signBit neg + n, if inex then x ||| xUnderflow else x)
    else
      let be : Int := q + (f.mb : Int) + (f.bias : Int)
      let m := n - 2 ^ f.mb
      let ovf : Bool :=
        match f.kind with
        | .ieee => decide ((f.emax : Int) ≤ be)
        | .e4m3 => decide ((f.emax : Int) < be) || (decide (be = (f.emax : Int)) && m == 7)
        | .e2m1 => decide ((f.emax : Int) < be)
      if ovf then
        let toInf : Bool :=
          f.kind == .ieee &&
            (match md with
              | .rne => true
              | .rz => false
              | .rdn => neg
              | .rup => !neg
              | .sr _ => false)
        ((if toInf then f.emax * 2 ^ f.mb else f.maxFin) + f.signBit neg, xOverflow ||| xInexact)
      else (f.signBit neg + be.toNat * 2 ^ f.mb + m, x)

/-- A value rounded or converted to a format (R121, R122). -/
def Fmt.round (f : Fmt) (md : Mode) (v : FVal) : Nat × BitVec 5 :=
  match v with
  | .nan s => (f.nan, if s || f.kind == .e2m1 then xInvalid else 0)
  | .inf neg => (f.infOf neg, if f.kind == .ieee then 0 else xInvalid)
  | .fin neg num den => f.roundFin md neg num den

/-! ### Arithmetic on exact values (R97) -/

def FVal.isNan : FVal → Bool
  | .nan _ => true
  | _ => false
def FVal.sNan : FVal → Bool
  | .nan s => s
  | _ => false
def FVal.neg : FVal → FVal
  | .nan s => .nan s
  | .inf n => .inf (!n)
  | .fin n a b => .fin (!n) a b
def FVal.isNeg : FVal → Bool
  | .nan _ => false
  | .inf n => n
  | .fin n _ _ => n
def FVal.isZero : FVal → Bool
  | .fin _ 0 _ => true
  | _ => false

/-- An exact sum; a zero sum of opposite signs is +0 under round-to-nearest (R97, IEEE 754). -/
def addFin (n1 : Bool) (a b : Nat) (n2 : Bool) (c d : Nat) : FVal :=
  let x : Int := (if n1 then -1 else 1) * ((a * d : Nat) : Int)
  let y : Int := (if n2 then -1 else 1) * ((c * b : Nat) : Int)
  let z := x + y
  if z = 0 then .fin (n1 && n2) 0 1 else .fin (decide (z < 0)) z.natAbs (b * d)

/-- A quiet NaN result, with invalid where an input was signalling or the operation is invalid. -/
def nanResult (xs : List FVal) (inv : Bool) : FVal × BitVec 5 :=
  (.nan false, if inv || xs.any FVal.sNan then xInvalid else 0)

/-- x + y, exactly. -/
def fAdd (x y : FVal) : FVal × BitVec 5 :=
  match x, y with
  | .fin n1 a b, .fin n2 c d => (addFin n1 a b n2 c d, 0)
  | .inf n, .fin _ _ _ => (.inf n, 0)
  | .fin _ _ _, .inf n => (.inf n, 0)
  | .inf n, .inf m => if n = m then (.inf n, 0) else nanResult [] true
  | x, y => nanResult [x, y] false

/-- x * y, exactly. -/
def fMul (x y : FVal) : FVal × BitVec 5 :=
  match x, y with
  | .fin n1 a b, .fin n2 c d => (.fin (n1 != n2) (a * c) (b * d), 0)
  | .inf n, .fin m c _ => if c = 0 then nanResult [] true else (.inf (n != m), 0)
  | .fin n a _, .inf m => if a = 0 then nanResult [] true else (.inf (n != m), 0)
  | .inf n, .inf m => (.inf (n != m), 0)
  | x, y => nanResult [x, y] false

/-- x / y, exactly. -/
def fDiv (x y : FVal) : FVal × BitVec 5 :=
  match x, y with
  | .fin n1 a b, .fin n2 c d =>
    if c = 0 then (if a = 0 then nanResult [] true else (.inf (n1 != n2), xDivZero))
    else (.fin (n1 != n2) (a * d) (b * c), 0)
  | .inf n, .fin m _ _ => (.inf (n != m), 0)
  | .fin n _ _, .inf m => (.fin (n != m) 0 1, 0)
  | .inf _, .inf _ => nanResult [] true
  | x, y => nanResult [x, y] false

/-- x * y + z, exactly; zero times infinity is invalid whatever z is (R97). -/
def fMulAdd (x y z : FVal) : FVal × BitVec 5 :=
  let zi : Bool :=
    match x, y with
    | .inf _, .fin _ 0 _ => true
    | .fin _ 0 _, .inf _ => true
    | _, _ => false
  if zi then nanResult [] true
  else if x.isNan || y.isNan || z.isNan then nanResult [x, y, z] false
  else fAdd (fMul x y).1 z

/-- The integer square root by bits: the largest r < 2 ^ k with r * r ≤ n, found from the top bit. -/
def isqrtAux (n : Nat) : Nat → Nat → Nat
  | 0, r => r
  | k + 1, r =>
    let t := r + 2 ^ k
    isqrtAux n k (if t * t ≤ n then t else r)

def isqrt (n : Nat) : Nat := isqrtAux n (Nat.log2 n / 2 + 1) 0

/-- The square root with 130 significant bits at least; an inexact root is held strictly between two of them, so that
one rounding of it is the rounding of the root. -/
def sqrtFin (num den : Nat) : Nat × Nat :=
  -- sqrt (num/den) = sqrt (num*den) / den
  let n := num * den * 2 ^ 264
  let r := isqrt n
  if r * r = n then (r, den * 2 ^ 132) else (2 * r + 1, den * 2 ^ 133)

/-- sqrt y (R97). -/
def fSqrt (y : FVal) : FVal × BitVec 5 :=
  match y with
  | .fin n a b =>
    if a = 0 then (.fin n 0 1, 0)
    else if n then nanResult [] true
    else
      let (p, q) := sqrtFin a b
      (.fin false p q, 0)
  | .inf n => if n then nanResult [] true else (.inf false, 0)
  | y => nanResult [y] false

/-- Whether x < y, both finite or infinite, with -0 below +0 where `zeros` is set. -/
def fLt (zeros : Bool) (x y : FVal) : Bool :=
  match x, y with
  | .fin n1 a b, .fin n2 c d =>
    let u : Int := (if n1 then -1 else 1) * ((a * d : Nat) : Int)
    let v : Int := (if n2 then -1 else 1) * ((c * b : Nat) : Int)
    decide (u < v) || (zeros && decide (u = v) && a == 0 && n1 && !n2)
  | .inf n, .inf m => n && !m
  | .inf n, .fin _ _ _ => n
  | .fin _ _ _, .inf m => !m
  | _, _ => false

/-- Equality of two values: zeros are equal, NaNs are not. -/
def fEq (x y : FVal) : Bool := !x.isNan && !y.isNan && !fLt false x y && !fLt false y x

/-- minimumNumber and maximumNumber: one NaN gives the other operand, two give NaN; -0 below +0. -/
def fMinNum (x y : FVal) : FVal × BitVec 5 :=
  let inv := if x.sNan || y.sNan then xInvalid else 0
  if x.isNan && y.isNan then (.nan false, inv)
  else if x.isNan then (y, inv)
  else if y.isNan then (x, inv)
  else (if fLt true y x then y else x, inv)

def fMaxNum (x y : FVal) : FVal × BitVec 5 :=
  let inv := if x.sNan || y.sNan then xInvalid else 0
  if x.isNan && y.isNan then (.nan false, inv)
  else if x.isNan then (y, inv)
  else if y.isNan then (x, inv)
  else (if fLt true x y then y else x, inv)

/-- An operation rounded once: encoding, exceptions. -/
def Fmt.finish (f : Fmt) (md : Mode) (r : FVal × BitVec 5) : Nat × BitVec 5 :=
  let (b, x) := f.round md r.1
  (b, r.2 ||| x)

/-! ### Conversions (R99, R121, R122) -/

/-- The value of an integer element. -/
def intVal (t : Ty) (b : Nat) : Int :=
  match t with
  | .i8 | .i16 | .i32 | .i64 => (BitVec.ofNat t.bits b).toInt
  | _ => (b % 2 ^ t.bits : Nat)

def Ty.signedInt (t : Ty) : Bool := t == .i8 || t == .i16 || t == .i32 || t == .i64
def intMin (t : Ty) : Int := if Ty.signedInt t then -(2 ^ (t.bits - 1) : Nat) else 0
def intMax (t : Ty) : Int := if Ty.signedInt t then (2 ^ (t.bits - 1) : Nat) - 1 else (2 ^ t.bits : Nat) - 1

/-- The encoding of an integer at a type's width. -/
def intBits (t : Ty) (v : Int) : Nat := (v % (2 ^ t.bits : Nat)).toNat

/-- An integer saturated to a type's range, and whether it was out of range. -/
def saturate (t : Ty) (v : Int) : Int × Bool :=
  if v < intMin t then (intMin t, true) else if intMax t < v then (intMax t, true) else (v, false)

/-- The exact value of a scalar element. -/
def elemVal (t : Ty) (b : Nat) : FVal :=
  if t.isInt then
    let v := intVal t b
    .fin (decide (v < 0)) v.natAbs 1
  else (Fmt.ofTy t).decode b

/-- A floating-point value to an integer type (R99): encoding, exceptions, V. -/
def floatToInt (t : Ty) (md : Mode) (v : FVal) : Nat × BitVec 5 × Bool :=
  match v with
  | .nan _ => (0, xInvalid, true)
  | .inf n => (intBits t (if n then intMin t else intMax t), xInvalid, true)
  | .fin n a b =>
    let (r, inex) := roundInt md n a b
    let (z, out) := saturate t (if n then -(r : Int) else (r : Int))
    (intBits t z, if out then xInvalid else if inex then xInexact else 0, out)

/-- A conversion between two scalar types (R99, R121): encoding, exceptions, and V for an integer result. -/
def convert (dt st : Ty) (md : Mode) (b : Nat) : Nat × BitVec 5 × Bool :=
  if st.isInt && dt.isInt then
    let (z, out) := saturate dt (intVal st b)
    (intBits dt z, 0, out)
  else if dt.isInt then floatToInt dt md (elemVal st b)
  else
    let (r, x) := (Fmt.ofTy dt).round md (elemVal st b)
    (r, x, false)

/-- The exact FP32 encoding of an element of a narrower format; a NaN gives the canonical NaN (R123, R141). The exception of a signalling
NaN is dropped: R121 gives it invalid, R141 names none for `vld` and `vbc` (log 89, DESIGN CHOICE). -/
def widen32 (t : Ty) (b : Nat) : Nat := (fmtF32.round .rne (elemVal t b)).1

/-! ### Pendex blocks (R115 to R117) -/

/-- Element i of a PBw record as FP32 (R116, R141). -/
def pbElem (w : Nat) (record : Nat) (i : Nat) : Nat :=
  let bexp := record % 256
  if bexp = 255 then fmtF32.nan
  else
    let m := (BitVec.ofNat w (record / 2 ^ (32 + w * i))).toInt
    let (a, b) := scaleQ m.natAbs 1 (-((bexp : Int) - 127 - ((w : Int) - 1)))
    (fmtF32.round .rne (.fin (decide (m < 0)) a b)).1

/-- The 32 values' block (R117): the record as a number of 4 (w + 1) bytes, and the exceptions. Overflow is set whenever the
exponent is clamped at 254, even where no element saturates (log 68, DEDUCED). -/
def pbEncode (w : Nat) (mode : Nat → Mode) (xs : List FVal) : Nat × BitVec 5 :=
  if xs.any (fun x => match x with | .fin _ _ _ => false | _ => true) then (255, xInvalid)
  else
    let mags : List (Nat × Nat) := xs.map (fun x => match x with | .fin _ a b => (a, b) | _ => (0, 1))
    let tops : List Int := mags.filterMap (fun p => if p.1 = 0 then none else some (log2Q p.1 p.2))
    let raw : Int := (tops.foldl max (-1000)) + 128
    let bexp : Int := if tops.isEmpty then 0 else min (max raw 0) 254
    let q : Int := bexp - 127 - ((w : Int) - 1)
    let lim : Int := (2 ^ (w - 1) : Nat)
    let step (acc : Nat × BitVec 5) (p : Nat × FVal) : Nat × BitVec 5 :=
      match p.2 with
      | .fin n a b =>
        let (a', b') := scaleQ a b q
        let (r, inex) := roundInt (mode p.1) n a' b'
        let z : Int := if n then -(r : Int) else (r : Int)
        let c : Int := min (max z (-lim)) (lim - 1)
        (acc.1 + (c % (2 ^ w : Nat)).toNat * 2 ^ (32 + w * p.1),
          acc.2 ||| (if inex || c ≠ z then xInexact else 0))
      | _ => acc
    let (r, x) := ((List.range xs.length).zip xs).foldl step (bexp.toNat, 0)
    (r, if 254 < raw && !tops.isEmpty then x ||| xOverflow else x)

/-! ### Exact accumulation (R124 to R129) -/

/-- floor(x * 2 ^ (-S)) for a finite x. -/
def floorScaled (neg : Bool) (num den : Nat) (s : Int) : Int :=
  let (a, b) := scaleQ num den s
  if neg then -((a + b - 1) / b : Nat) else ((a / b : Nat) : Int)

/-- One contribution to an entry at scale S (R125). -/
def contribute (s : Int) (e : Entry) (x : FVal) : Entry :=
  match x with
  | .fin neg num den =>
    let k := floorScaled neg num den s
    { i := e.i + BitVec.ofInt 128 k, f := e.f || decide (2 ^ 110 ≤ k.natAbs) }
  | _ => { e with f := true }

/-- The exact value I * 2 ^ S of an entry. -/
def entryVal (s : Int) (e : Entry) : FVal :=
  let v := e.i.toInt
  if 0 ≤ s then .fin (decide (v < 0)) (v.natAbs * 2 ^ s.toNat) 1
  else .fin (decide (v < 0)) v.natAbs (2 ^ (-s).toNat)

/-- Readout to a scalar type (R129): encoding, exceptions, whether the range status is set. -/
def readEntry (t : Ty) (md : Mode) (s : Int) (e : Entry) : Nat × BitVec 5 × Bool :=
  if e.f then
    (if t.isInt then intBits t (intMin t) else if t = .f4 then 0xF else (Fmt.ofTy t).nan, 0, true)
  else if t.isInt then
    let (b, x, _) := floatToInt t md (entryVal s e)
    (b, x, false)
  else
    let (b, x) := (Fmt.ofTy t).round md (entryVal s e)
    (b, x, false)

/-! ### Keys (R346, R350) -/

/-- The key of FP32 bits. -/
def keyOf (b : Nat) : Nat := if b / 2 ^ 31 % 2 = 0 then b + 2 ^ 31 else 2 ^ 32 - 1 - b % 2 ^ 32

/-- The bound key of a value read at a type; none for a NaN. A bound of an integer type is its low 32 bits as read: a narrower one
is extended by its signedness (log 18). -/
def boundKey (t : Ty) (b : Nat) : Option Nat :=
  if t.isInt then
    some (if Ty.signedInt t && t.bits < 32 && b.testBit (t.bits - 1) then b % 2 ^ t.bits + 2 ^ 32 - 2 ^ t.bits else b % 2 ^ 32)
  else
    let v := (Fmt.ofTy t).decode b
    if v.isNan then none
    else if t = .f64 then some (keyOf (fmtF32.round .rup v).1)
    else some (keyOf (fmtF32.round .rne v).1)

end Sys2Proof.Machine
end

