-- ==== Sys2Proof/Machine/Flags.lean ====
section
/-! DEFINITION. Results and flags of the arithmetic instructions (R79, R91 to R99), and the condition codes. -/
namespace Sys2Proof.Machine

/-! ### Integers (R91, R92) -/

/-- A result at width w, with its C and V. -/
structure Alu where
  r : Nat
  c : Bool := false
  v : Bool := false
  deriving DecidableEq, Repr

/-- x, a number of w bits, as a signed number. -/
def sval (w x : Nat) : Int := if x < 2 ^ (w - 1) then (x : Int) else (x : Int) - (2 ^ w : Nat)

/-- The signed number of an integer type, or the unsigned one (R91: signed for i types). -/
def tval (t : Ty) (x : Nat) : Int := if Ty.signedInt t then sval t.bits x else (x : Int)

/-- The low w bits of an integer. -/
def wrapTo (w : Nat) (z : Int) : Nat := (z % (2 ^ w : Nat)).toNat

/-- Whether a signed number is not one of w bits. -/
def sOver (w : Nat) (z : Int) : Bool := decide (z < -(2 ^ (w - 1) : Nat)) || decide (((2 ^ (w - 1) : Nat) : Int) ≤ z)

def aluAdd (t : Ty) (x y : Nat) : Alu :=
  let w := t.bits
  { r := (x + y) % 2 ^ w, c := decide (2 ^ w ≤ x + y), v := sOver w (sval w x + sval w y) }

def aluSub (t : Ty) (x y : Nat) : Alu :=
  let w := t.bits
  { r := wrapTo w (x - y), c := decide (x < y), v := sOver w (sval w x - sval w y) }

def aluMul (t : Ty) (x y : Nat) : Alu :=
  let z := tval t x * tval t y
  let o := (saturate t z).2
  { r := wrapTo t.bits z, c := o, v := o }

def aluMulh (t : Ty) (x y : Nat) : Alu := { r := wrapTo t.bits ((tval t x * tval t y) / (2 ^ t.bits : Nat)) }

/-- The one quotient that a signed type does not hold: -2^(w-1) by -1. -/
def divOver (t : Ty) (x y : Nat) : Bool :=
  Ty.signedInt t && decide (tval t x = intMin t) && decide (tval t y = -1)

/-- `none` for a zero divisor. -/
def aluDiv (t : Ty) (x y : Nat) : Option Alu :=
  if y = 0 then none
  else some { r := wrapTo t.bits ((tval t x).tdiv (tval t y)), v := divOver t x y }

def aluRem (t : Ty) (x y : Nat) : Option Alu :=
  if y = 0 then none
  else some { r := wrapTo t.bits ((tval t x).tmod (tval t y)), v := divOver t x y }

def aluAnd (_ : Ty) (x y : Nat) : Alu := { r := x &&& y }
def aluOr (_ : Ty) (x y : Nat) : Alu := { r := x ||| y }
def aluXor (_ : Ty) (x y : Nat) : Alu := { r := x ^^^ y }

/-- Shifts take the count modulo the width; C is the last bit shifted out. -/
def aluShl (t : Ty) (x y : Nat) : Alu :=
  let w := t.bits
  let k := y % w
  { r := x * 2 ^ k % 2 ^ w, c := decide (k ≠ 0) && (x * 2 ^ k).testBit w }

def aluShr (t : Ty) (x y : Nat) : Alu :=
  let k := y % t.bits
  { r := x / 2 ^ k, c := decide (k ≠ 0) && x.testBit (k - 1) }

def aluSar (t : Ty) (x y : Nat) : Alu :=
  let w := t.bits
  let k := y % w
  { r := wrapTo w (sval w x / (2 ^ k : Nat)), c := decide (k ≠ 0) && x.testBit (k - 1) }

def aluMin (t : Ty) (x y : Nat) : Alu := { r := if tval t y < tval t x then y else x }
def aluMax (t : Ty) (x y : Nat) : Alu := { r := if tval t x < tval t y then y else x }

def aluNeg (t : Ty) (y : Nat) : Alu := aluSub t 0 y
def aluNot (t : Ty) (y : Nat) : Alu := { r := 2 ^ t.bits - 1 - y }

/-- The leading zero bits of a number of w bits. -/
def aluClz (t : Ty) (y : Nat) : Alu := { r := if y = 0 then t.bits else t.bits - 1 - Nat.log2 y }
def aluPopc (t : Ty) (y : Nat) : Alu := { r := ((List.range t.bits).filter (fun i => y.testBit i)).length }

/-- Z and N of a result at width w, with C and V; P and T stay. -/
def Flags.ofAlu (f : Flags) (w : Nat) (r : Alu) : Flags :=
  { f with z := decide (r.r = 0), n := r.r.testBit (w - 1), c := r.c, v := r.v }

/-- The condition codes of R93. -/
def condHolds (cond : BitVec 4) (f : Flags) : Bool :=
  match cond.toNat with
  | 0x0 => f.z
  | 0x1 => !f.z
  | 0x2 => f.n != f.v
  | 0x3 => f.n == f.v
  | 0x4 => f.z || f.n != f.v
  | 0x5 => !f.z && f.n == f.v
  | 0x6 => f.c
  | 0x7 => !f.c
  | 0x8 => f.c || f.z
  | 0x9 => !f.c && !f.z
  | 0xA => f.n
  | 0xB => !f.n
  | 0xC => f.v
  | 0xD => !f.v
  | 0xE => f.t
  | _ => !f.t

/-! ### Registers (R79) -/

/-- A result extended to 64 bits by its type. -/
def extendTo (t : Ty) (r : Nat) : Word :=
  if Ty.signedInt t then BitVec.ofInt 64 (sval t.bits (r % 2 ^ t.bits)) else BitVec.ofNat 64 (r % 2 ^ t.bits)

/-- The low bits of a register or immediate at a type's width. -/
def lowOf (t : Ty) (v : Word) : Nat := v.toNat % 2 ^ t.bits

/-! ### Floating point (R97, R98) -/

/-- The flags of a floating-point result r of type t. -/
def Flags.ofFloat (f : Flags) (t : Ty) (r : Nat) : Flags :=
  let v := (Fmt.ofTy t).decode r
  { f with z := v.isZero, n := v.isNeg, c := false, v := v.isNan }

/-- The four outcomes of a comparison: equal, less, greater, unordered. -/
def Flags.ofCompare (f : Flags) (x y : FVal) : Flags :=
  { f with z := fEq x y, n := fLt false x y, c := fLt false y x, v := x.isNan || y.isNan }

/-- The condition codes of R98, on the flags of a comparison. -/
def fcondHolds (cond : BitVec 4) (f : Flags) : Bool :=
  match cond.toNat with
  | 0 => f.z
  | 1 => !f.z
  | 2 => f.n
  | 3 => f.c || f.z
  | 4 => f.n || f.z
  | 5 => f.c
  | 6 => f.v
  | _ => !f.v

/-- The exceptions of a comparison: the ordered relations are invalid for any NaN, the others for a signalling one. -/
def fcmpInvalid (cond : BitVec 4) (x y : FVal) : BitVec 5 :=
  let rel := decide (2 ≤ cond.toNat) && decide (cond.toNat ≤ 5)
  if (rel && (x.isNan || y.isNan)) || x.sNan || y.sNan then xInvalid else 0

end Sys2Proof.Machine
end

