-- ==== Sys2Proof/Machine/Ranked.lean ====
section
/-! DEFINITION. Ranked lists (R346 to R349, R359) and the test of `.th` (R350, R351). -/
namespace Sys2Proof.Machine

/-- k of a row. -/
def Row.k (r : Row) : Nat := 2 ^ r.logk.toNat

/-- Pair p ranks above pair q (R346). -/
def ranksAbove (p q : W32 × W32) : Bool := decide (q.1 < p.1) || (p.1 == q.1 && decide (p.2 < q.2))

/-- A pair enters in rank order. -/
def insertPair (p : W32 × W32) : List (W32 × W32) → List (W32 × W32)
  | [] => [p]
  | q :: qs => if ranksAbove p q then p :: q :: qs else q :: insertPair p qs

/-- Whether a key is that of a NaN (R346): above the key of +∞, or below that of −∞. -/
def nanKey (k : W32) : Bool := decide (0xFF800000 < k) || decide (k < 0x007FFFFF)

/-- One pair is presented (R348); a NaN sets REF and enters nothing. -/
def Row.present (r : Row) (p : W32 × W32) : Row :=
  if nanKey p.1 then { r with ref := true }
  else
    match r.pairs.find? (fun q => q.2 == p.2) with
    | some q => if q.1 < p.1 then { r with pairs := insertPair p (r.pairs.filter (fun x => x.2 != p.2)) } else r
    | none =>
      if r.pairs.length < r.k then { r with pairs := insertPair p r.pairs }
      else
        match r.pairs.getLast? with
        | some l => if ranksAbove p l then { r with pairs := insertPair p r.pairs.dropLast } else r
        | none => r

/-- The pair of an FP32 value and an index (R346). -/
def pairOf (v idx : W32) : W32 × W32 := (BitVec.ofNat 32 (keyOf v.toNat), idx)

def State.row (s : State) (ck t r : Nat) : Row := tget (s.tile ck t).rows {} r

/-- The threshold of a row (R349). -/
def Row.threshold (r : Row) : Word :=
  match r.pairs.getLast? with
  | some p => if r.ranked && r.pairs.length == r.k then (1 : BitVec 32) ++ p.1 else 0
  | none => 0

/-- sys.th where a selection is in force and the rows, by 128 * tile + row, are as a function says. -/
def thresholdOf (sel : BitVec 12) (row : Nat → Row) : Word :=
  if sel.getLsbD 11 then (row (128 * (sel.extractLsb' 7 4).toNat + (sel.extractLsb' 0 7).toNat)).threshold else 0

/-- sys.th of a group (R349). -/
def State.threshold (s : State) (g : Nat) : Word :=
  thresholdOf (s.grp g).thsel (fun k => s.row (s.grp g).cluster (k / 128) (k % 128))

/-! ### What a thread may see of sys.th (R351) -/

/-- The steps of the last 4 cycles. -/
def recent (now : Nat) (l : List ThStep) : List ThStep := l.filter (fun e => decide (now < e.time + 4))

/-- A step that sys.th of a group can depend on is recorded. -/
def State.noteTh (s : State) (g : Nat) (who : Option Nat) (e : ThEff) : State :=
  s.modGrp g (fun x => { x with thLog := recent s.now x.thLog ++ [{ time := s.now, who := who, eff := e }] })

/-- Tile t of a group becomes v, and `ps` are the pairs that the step presented to a row: each row that it changes is recorded. -/
def State.stepRows (s : State) (g : Nat) (who : Option Nat) (t : Nat) (v : Tile) (ps : Option (Nat × List (W32 × W32))) : State :=
  let ck := (s.grp g).cluster
  let old := (s.tile ck t).rows
  let s := s.setTile ck t v
  match ps with
  | some (r, ps) => s.noteTh g who (.row t r (tget old {} r) (tget v.rows {} r) (some ps))
  | none =>
    ((old ++ v.rows).map (·.1)).dedup.foldl (fun s r =>
      if tget old {} r = tget v.rows {} r then s else s.noteTh g who (.row t r (tget old {} r) (tget v.rows {} r) none)) s

/-- A step of the executing thread at a tile that its group holds. -/
def State.stepTile (s : State) (t : Nat) (v : Tile) (ps : Option (Nat × List (W32 × W32))) : State :=
  s.stepRows s.myGrp (some s.cur) t v ps

/-- The executing thread's group selects a list. -/
def State.selectTh (s : State) (v : BitVec 12) : State :=
  (s.noteTh s.myGrp (some s.cur) (.select (s.grp s.myGrp).thsel v)).modGrp s.myGrp (fun g => { g with thsel := v })

/-- A selection, and rows that differ from what they are. -/
abbrev ThView := BitVec 12 × Table Row

/-- The view before a step. -/
def ThEff.undo (e : ThEff) (v : ThView) : ThView :=
  match e with
  | .select old _ => (old, v.2)
  | .row t r old _ _ => (v.1, tset v.2 (128 * t + r) old)

/-- The view after a step. -/
def ThEff.redo (e : ThEff) (v : ThView) : ThView :=
  match e with
  | .select _ new => (new, v.2)
  | .row t r old new ps =>
    (v.1, tset v.2 (128 * t + r) (match ps with | some ps => ps.foldl Row.present (tget v.2 old (128 * t + r)) | none => new))

/-- The views that thread k can have after steps: each of its own is reflected, each of another party may be. -/
def thViews (k : Nat) : List ThStep → List ThView → List ThView
  | [], vs => vs
  | e :: es, vs => thViews k es (if e.who = some k then vs.map e.eff.redo else (vs ++ vs.map e.eff.redo).dedup)

/-- The values of sys.th that an instruction of thread k may be compared with (R351): all its own steps are reflected, and of the steps
of other parties in the last 4 cycles any. -/
def State.thSeen (s : State) (g k : Nat) : List Word :=
  let es := recent s.now (s.grp g).thLog
  let base := es.reverse.foldl (fun v e => e.eff.undo v) ((s.grp g).thsel, [])
  (thViews k es [base]).map (fun v => thresholdOf v.1 (fun k => tget v.2 (s.row (s.grp g).cluster (k / 128) (k % 128)) k))

/-- Whether a bound read at a type is below sys.th (R350). -/
def belowTh (th : Word) (t : Ty) (b : Nat) : Bool :=
  th.getLsbD 32 &&
    (match boundKey t b with
      | some k => decide (k < th.toNat % 2 ^ 32)
      | none => false)

end Sys2Proof.Machine
end

