-- ==== Sys2Proof/Machine/Issue.lean ====
section
/-! DEFINITION. The issue of an instruction: the predicate (R28), what the first issue settles (R291, R351), completion, trap or wait. -/
namespace Sys2Proof.Machine

/-- Whether the predicate lets a thread execute (R28); `.th` is tested by the instruction itself. -/
def predHolds (p : Pred) (f : Flags) : Bool :=
  match p with
  | .always => true
  | .own => f.p
  | .nown => !f.p
  | .th => true

/-- The stage indices of a group's rings. -/
def State.ringViews (s : State) (g : Nat) : Table W32 :=
  (s.grp g).rings.zipIdx.filterMap (fun e => (s.ring (s.grp g).cluster e.1).2.map (fun r => (e.2, r.s)))

/-- What sys.th is for the instruction: its value and those that R351 lets it be, in the cycle of its first issue. -/
def State.thHeld (s : State) : Word × List Word :=
  s.me.ths.getD (s.threshold s.myGrp, s.thSeen s.myGrp s.cur)

/-- The stages of the rings that the instruction resolves against: those of its first issue (R291), or that a counted arrival keeps. -/
def State.stagesHeld (s : State) : Table W32 :=
  match s.me.views, s.me.kept with
  | [], none => s.ringViews s.myGrp
  | vs, _ => vs

/-- An issue begins: no access of the instruction has been made in it, and no address located. The first issue takes the stages of the
rings (R291) and sys.th (R351) for the whole instruction. -/
def State.issued (s : State) : State :=
  ({ s with cursor := 0, place := 0 } : State).modThr s.cur (fun t => { t with views := s.stagesHeld, ths := some s.thHeld })

/-- One issue of the executing thread. An instruction that waits has no effect on the thread's registers yet; it issues
again from its start, and the accesses that it has made stand in `got`. `body` answers a taken transfer's target. `ctl`: a control transfer, which under
tow is decided by the tug (R72). -/
def issue (len : Nat) (p : Pred) (ctl : Bool) (body : Exec (Option Addr)) (s : State) :
    Host.Outcome State Fault Refusal :=
  let s := s.issued
  let who := if ctl then (match s.towOf s.cur with | some w => if w.frozen.isNone then w.tug else s.cur | none => s.cur) else s.cur
  if predHolds p (s.thr who).f then
    match body.run s with
    | .ok (dest, s') => .next (s'.complete len dest)
    | .error (.trap c o epc x info) => .next (s.takeTrap s.cur c o epc x info)
    | .error (.wait w s') => .next (s'.modThr s.cur (fun t => { s.me.progress t with wait := w }))
    | .error (.rests w s') => .next (s'.modThr s.cur (fun t => { t with wait := w }))
    | .error (.ends s') => .next s'
  else .next (s.complete len none)

/-- An instruction that goes on at the next sequential address. -/
def straight (h : Hdr) (body : Exec Unit) (s : State) : Host.Outcome State Fault Refusal :=
  issue h.form.bytes h.pred false (do body; pure none) s

/-- As `straight`, for an S form. -/
def straightS (p : Pred) (body : Exec Unit) (s : State) : Host.Outcome State Fault Refusal :=
  issue 8 p false (do body; pure none) s

end Sys2Proof.Machine
end

