-- ==== Sys2Proof/Machine/SysRegs.lean ====
section
/-! DEFINITION. System registers (R227, R228, R232) and queue ports (R60 to R62), which instructions reach by name and
through window kind 010 (R158). -/
namespace Sys2Proof.Machine

/-- The tow role of a thread, as sys.tstat and the save record hold it: none, tug, follower. -/
def State.towRole (s : State) (k : Nat) : BitVec 2 :=
  match s.towOf k with
  | some w => if w.tug = k then 1 else 2
  | none => 0

/-- sys.tstat. -/
def State.tstat (s : State) (k : Nat) : Word :=
  let t := s.thr k
  (boolBit t.trap.ab ++ s.towRole k ++ boolBit t.trap.h).setWidth 64

/-- The value of a system register of the executing thread; `none` for an unassigned number. -/
def State.readSys (s : State) (num : Nat) : Option Word :=
  let t := s.me
  let g := s.grp s.myGrp
  let gr := s.grid g.grid
  match num with
  | 0x000 => some (t.f.toBits.setWidth 64)
  | 0x001 => some (t.lc.setWidth 64)
  | 0x002 => some (t.vm.setWidth 64)
  | 0x003 => some (BitVec.ofNat 64 t.tid)
  | 0x004 => some (BitVec.ofNat 64 g.gid)
  | 0x005 => some (BitVec.ofNat 64 (g.gtag % 256))
  | 0x006 => some gr.ident
  | 0x007 => some gr.seed
  | 0x008 => some (BitVec.ofNat 64 gr.berth)
  | 0x009 => some (t.trap.tow.setWidth 64)
  | 0x00A => some (g.fstat.setWidth 64)
  | 0x00B => some ((boolBit g.rstat).setWidth 64)
  | 0x00C => some (g.smiss.setWidth 64)
  | 0x00D => some (s.threshold s.myGrp)
  | 0x00E => some (g.thsel.setWidth 64)
  | 0x00F => some (BitVec.ofNat 64 (s.cycle s.myPkg))
  | 0x010 => some t.trap.cause
  | 0x011 => some t.trap.epc
  | 0x012 => some t.trap.eaddr
  | 0x013 => some t.trap.einfo
  | 0x014 => some t.trap.ea
  | 0x015 => some (t.trap.ef.toBits.setWidth 64)
  | 0x016 => some t.trap.ep6
  | 0x017 => some t.trap.ep7
  | 0x018 => some (s.tstat s.cur)
  | 0x019 => some ((g.ufault ++ g.ufaults).setWidth 64)
  | _ => none

/-- A read of a system register (0x0D0). -/
def readSysReg (num : Nat) (x : Option Word) (op : Word) : Exec Word := do
  let s ← get
  match s.readSys num with
  | some v => pure v
  | none => fault 0x0D0 x op

/-- A write of the threshold selection (R349). -/
def writeThsel (v : BitVec 12) (x : Option Word) (op : Word) : Exec Unit := do
  let g ← getGrp
  if v.getLsbD 11 && !g.tiles.contains (v.extractLsb' 7 4).toNat then fault 0x0F0 x op
  else modify (fun s => s.selectTh v)

def modTrap (f : Trapped → Trapped) : Exec Unit := modMe (fun t => { t with trap := f t.trap })

/-- A write of a system register (R232); reserved bits are ignored. -/
def writeSysReg (num : Nat) (v : Word) (x : Option Word) (op : Word) : Exec Unit := do
  let s ← get
  match s.readSys num with
  | none => fault 0x0D0 x op
  | some _ =>
    if 0x010 ≤ num && num ≤ 0x017 && !s.me.trap.h then fault 0x0D1 x op
    else
      match num with
      | 0x000 => modMe (fun t => { t with f := Flags.ofBits (v.setWidth 6) })
      | 0x001 => modMe (fun t => { t with lc := v.setWidth 32 })
      | 0x002 => modMe (fun t => { t with vm := v.setWidth 32 })
      | 0x00A => modMyGrp (fun g => { g with fstat := v.setWidth 5 })
      | 0x00B => modMyGrp (fun g => { g with rstat := v.getLsbD 0 })
      | 0x00C => modMyGrp (fun g => { g with smiss := v.setWidth 32 })
      | 0x00E => writeThsel (v.setWidth 12) x op
      | 0x010 => modTrap (fun t => { t with cause := v &&& 0xFFF })
      | 0x011 => modTrap (fun t => { t with epc := v })
      | 0x012 => modTrap (fun t => { t with eaddr := v })
      | 0x013 => modTrap (fun t => { t with einfo := v &&& 0xFF00FC })
      | 0x014 => modTrap (fun t => { t with ea := v })
      | 0x015 => modTrap (fun t => { t with ef := Flags.ofBits (v.setWidth 6) })
      | 0x016 => modTrap (fun t => { t with ep6 := v })
      | 0x017 => modTrap (fun t => { t with ep7 := v })
      | _ => fault 0x0D1 x op

/-! ### Queue ports (R60 to R62) -/

/-- The port, if it is allotted to the thread's group. -/
def myPort (q : Nat) (x : Option Word) (op : Word) : Exec Port := do
  let s ← get
  let p := s.port s.myCore q
  if s.me.group.isSome && p.group == s.me.group then pure p else fault 0x0B0 x op

/-- An entry is reserved at the tail, unless this instruction has reserved one already; with the port full the thread
moors (KIND 2). -/
def reserveTail (q : Nat) (x : Option Word) (op : Word) : Exec Unit := do
  let p ← myPort q x op
  let s ← get
  if p.entries.any (fun e => e.filler == some s.cur) then pure ()
  else if p.depth ≤ p.entries.length then moor 2 q 0
  else set (s.portPush s.myCore q { filler := some s.cur })

/-- The reserved entry is filled; an `enq` acts as a release at core scope (R62). -/
def fillTail (q : Nat) (v : Word) : Exec Unit := do
  releaseSteps .co
  let s ← get
  let p := s.port s.myCore q
  let fill (e : PortEntry) : PortEntry := if e.filler == some s.cur then { e with val := v, filler := none } else e
  set (s.setPort s.myCore q { p with entries := p.entries.map fill })

/-- The first entry that no reader has reserved becomes the executing thread's. -/
def claimEntry (k : Nat) : List PortEntry → List PortEntry
  | [] => []
  | e :: es => if e.reader.isNone then { e with reader := some k } :: es else e :: claimEntry k es

/-- An entry is reserved at the head; with none the thread moors (KIND 1), and it stalls until the entry is filled. -/
def reserveHead (q : Nat) (x : Option Word) (op : Word) : Exec Word := do
  let p ← myPort q x op
  let s ← get
  let es := if p.entries.any (fun e => e.reader == some s.cur) then p.entries else claimEntry s.cur p.entries
  match es.find? (fun e => e.reader == some s.cur) with
  | none => moor 1 q 0
  | some e => do
    set (s.setPort s.myCore q { p with entries := es })
    if e.filler.isSome then waitFor .fifo else pure e.val

/-- The entry is freed; the writer that has moored longest is released. -/
def freeHead (q : Nat) : Exec Unit := do
  let s ← get
  let p := s.port s.myCore q
  set ((s.setPort s.myCore q { p with entries := p.entries.filter (fun e => e.reader != some s.cur) }).releaseOne
    s.myCore q 2)

end Sys2Proof.Machine
end

