-- ==== Sys2Proof/Machine/Operands.lean ====
section
/-! DEFINITION. Operand forms: addresses and pointer updates (R85), sources and destinations (R79, R84 to R88), the
order of operands and the test of `.th` (R86, R89, R219, R350). -/
namespace Sys2Proof.Machine

/-! ### Pointers (R80) -/

def Thread.ptr (t : Thread) (n : BitVec 3) : Word := t.ptrs[n.toNat]'(by have := n.isLt; omega)
def Thread.setPtr (t : Thread) (n : BitVec 3) (v : Word) : Thread :=
  { t with ptrs := t.ptrs.set n.toNat v (by have := n.isLt; omega) }

/-- ADDR and STRIDE of a pointer register. -/
def ptrAddr (p : Word) : Addr := p.extractLsb' 0 56
def ptrStride (p : Word) : BitVec 8 := p.extractLsb' 56 8
/-- The register with another ADDR. -/
def withAddr (p : Word) (x : Addr) : Word := ptrStride p ++ x

/-- The executing thread's ADDR. -/
def getAddr (n : BitVec 3) : Exec Addr := do
  let t ← getMe
  pure (ptrAddr (t.ptr n))

def setAddr (n : BitVec 3) (x : Addr) : Exec Unit := modMe (fun t => t.setPtr n (withAddr (t.ptr n) x))

/-- OPA and OPB in sys.einfo (R225). -/
def opA : Word := 4
def opB : Word := 8

/-- The address of a memory operand with element size e and footprint z, and the pointer that its mode leaves (R85). -/
def specAddr (n : BitVec 3) (m : MemMode) (e z : Nat) : Exec Addr := do
  let t ← getMe
  let x := ptrAddr (t.ptr n)
  match m with
  | .ind => pure x
  | .postInc => do
    setAddr n (x + BitVec.ofNat 56 z)
    pure x
  | .postStride => do
    setAddr n (x + (ptrStride (t.ptr n)).signExtend 56 * BitVec.ofNat 56 e)
    pure x
  | .preDec => do
    setAddr n (x - BitVec.ofNat 56 z)
    pure (x - BitVec.ofNat 56 z)
  | .disp d => pure (x + d.setWidth 56)

/-- The pointer update of a specifier alone. -/
def specStep (o : Opnd) (e z : Nat) : Exec Unit :=
  match o with
  | .mem n m => do
    discard (specAddr n m e z)
  | _ => pure ()

/-- Natural alignment (R87); cause 0x0C0, or 0x0C3 for 16 bytes (R208). -/
def checkAlign (x : Addr) (align : Nat) (c : BitVec 10) (op : Word) : Exec Unit :=
  if x.toNat % align = 0 then pure () else fault c (some (x.setWidth 64)) op

/-- The checked address of a scalar memory operand of z bytes. -/
def memAddr (n : BitVec 3) (m : MemMode) (z : Nat) (op : Word) : Exec Addr := do
  let x ← specAddr n m z z
  checkAlign x z 0x0C0 op
  pure x

/-- Bytes of a scalar type (R84). -/
def tyBytes (t : Ty) : Nat := t.bits / 8

/-! ### Loads and stores with an ordering qualifier (R188, R192, R193) -/

/-- Whether a qualified access is performed as the plain access of its kind: at scope core. -/
def asPlain (q : Qual) : Bool := q.ord == .plain || q.scope == .co

/-- A load of n bytes at a location, plain or acquire. -/
def loadAt (q : Qual) (loc : Nat) (uc : Bool) (x : Addr) (n : Nat) (op : Word) : Exec (List Byte) := do
  let bs ← access { loc := loc, va := x, op := .read n, near := !uc && asPlain q } op
  acqPart q
  pure bs

/-- A store at a location, plain or release. `kind` is KIND of R196. -/
def storeQ (q : Qual) (loc : Nat) (uc : Bool) (x : Addr) (bs : List Byte) (kind : BitVec 3) (op : Word) : Exec Unit := do
  relPart q
  if asPlain q then storeAt loc uc x bs op
  else do
    let s ← get
    discard <| access { loc := loc, va := x, op := .write bs, rel := some q.scope, kind := kind,
                        posted := !s.remote loc } op

/-- An access of the thread through the core-local window is one of 8 bytes at type i64 or ui64 (R158). -/
def windowOk (t : Ty) : Bool := t == .i64 || t == .ui64

/-! ### Sources (R85, R88) -/

/-- The value of a scalar source of z bytes that is no memory operand. -/
def regValue (o : Opnd) : Exec Word := do
  let t ← getMe
  match o with
  | .ptr n => pure (t.ptr n)
  | .imm v => pure v
  | _ => pure t.a

/-- A scalar source of z bytes; a memory source through window kind 010 raises 0x105. -/
def readSrc (o : Opnd) (z : Nat) (op : Word) : Exec Word :=
  match o with
  | .mem n m => do
    let x ← memAddr n m z op
    let bs ← loadBytes x z op
    pure (leWord bs)
  | o => regValue o

/-- The source of `lda` and `lp`: in the core-local window a load performs `deq.ui64` or `rdsr` (R158). -/
def readWin (o : Opnd) (z : Nat) (win : Bool) (q : Qual) (op : Word) : Exec (Word × Option Nat) :=
  match o with
  | .mem n m => do
    let x ← memAddr n m z op
    match ← translate x z ⟨true, false⟩ win op with
    | .at loc uc => do
      reach loc z true (!uc) x op
      let bs ← loadAt q loc uc x z op
      pure (leWord bs, none)
    | .port p =>
      if win then do
        let v ← reserveHead p (some (x.setWidth 64)) op
        acqPart q
        pure (v, some p)
      else fault 0x105 (some (x.setWidth 64)) op
    | .sysreg r =>
      if win then do
        let v ← readSysReg r (some (x.setWidth 64)) op
        acqPart q
        pure (v, none)
      else fault 0x105 (some (x.setWidth 64)) op
  | o => do
    let v ← regValue o
    pure (v, none)

/-! ### Destinations -/

/-- Where a result goes. -/
inductive Dest where
  | a
  | va
  | ptr (n : BitVec 3)
  | mem (loc : Nat) (uc : Bool) (x : Addr)
  | port (q : Nat) (x : Addr)
  | sysreg (num : Nat) (x : Addr)
  deriving DecidableEq, Repr

/-- A destination of z bytes. -/
def openDest (o : Opnd) (z : Nat) (nd : Need) (win : Bool) (op : Word) : Exec Dest :=
  match o with
  | .mem n m => do
    let x ← memAddr n m z op
    match ← translate x z nd win op with
    | .at loc uc => do
      reach loc z nd.rd (!uc) x op
      pure (.mem loc uc x)
    | .port p => if win then pure (.port p x) else fault 0x105 (some (x.setWidth 64)) op
    | .sysreg r => if win then pure (.sysreg r x) else fault 0x105 (some (x.setWidth 64)) op
  | .ptr n => pure (.ptr n)
  | .va => pure .va
  | _ => pure .a

/-- The prior value of a destination at z bytes (R91). -/
def readDest (d : Dest) (z : Nat) (op : Word) : Exec Word := do
  let t ← getMe
  match d with
  | .mem loc uc x => do
    let bs ← access { loc := loc, va := x, op := .read z, near := !uc } op
    pure (leWord bs)
  | .ptr n => pure (t.ptr n)
  | _ => pure t.a

def setA (v : Word) : Exec Unit := modMe (fun t => { t with a := v })

/-- 8 bytes go to a port or a system register (R158). -/
def enqWord (p : Nat) (v : Word) (x : Addr) (op : Word) : Exec Unit := do
  reserveTail p (some (x.setWidth 64)) op
  fillTail p v

/-- A result of a type goes to its destination: to a register extended (R79), to memory in its width. -/
def writeDest (d : Dest) (t : Ty) (r : Nat) (op : Word) : Exec Unit :=
  match d with
  | .a => setA (extendTo t r)
  | .ptr n => modMe (fun th => th.setPtr n (extendTo t r))
  | .mem loc uc x => storeAt loc uc x (leBytes r (tyBytes t)) op
  | .port p x => enqWord p (BitVec.ofNat 64 r) x op
  | .sysreg n x => writeSysReg n (BitVec.ofNat 64 r) (some (x.setWidth 64)) op
  | .va => pure ()

/-! ### Two operands, and `.th` -/

/-- `skip` has no effect but T (R28). -/
def skipped (t0 : Thread) : Exec Unit := modMe (fun _ => { t0 with f := { t0.f with t := true } })

/-- An executed `.th` instruction clears T (R82). -/
def clearT (p : Pred) : Exec Unit := if p = .th then modMe (fun t => { t with f := { t.f with t := false } }) else pure ()

/-- Whether the bound is below sys.th, as the instruction sees it: below the value of its issue, and below the older ones that it
may still see, or else either outcome occurs (R351). An instruction that has made an access after its operands has passed the
test. -/
def thSkips (p : Pred) (bt : Ty) (b : Word) : Exec Bool := do
  let s ← get
  if p ≠ .th || decide (s.cursor < s.me.got.length) || !belowTh s.thHeld.1 bt (lowOf bt b) then pure false
  else if s.thHeld.2.all (fun w => belowTh w bt (lowOf bt b)) then pure true
  else do
    set { s with tick := s.tick + 1 }
    pure ((Config.freeWord s.tick).getLsbD 0)

/-- OPA, then OPB, then the test of `.th` on OPB's value at the type `bt`: `none` when the instruction is skipped. OPA's
fault is delivered before OPB's (R219), and neither an access to OPA nor its fault belongs to a skipped instruction
(log 20). -/
def operands {α : Type} (p : Pred) (step : Exec Unit) (opa : Exec α) (opb : Exec Word) (bt : Ty) :
    Exec (Option (α × Word)) := do
  let s0 ← get
  match opa.run s0 with
  | .ok (x, s1) => do
    set s1
    let y ← opb
    if ← thSkips p bt y then do
      skipped s0.me
      pure none
    else do
      clearT p
      pure (some (x, y))
  | .error e =>
    if p = .th && s0.me.got.isEmpty then
      match (do step; opb).run s0 with
      | .ok (y, s1) => do
        set s1
        if ← thSkips p bt y then do
          skipped s0.me
          pure none
        else throw e
      | .error (.trap _ _ _ _ _) => throw e
      | .error e' => throw (match e with | .trap _ _ _ _ _ => e' | e => e)
    else throw e

/-- A single source in OPB, and the test of `.th`. -/
def operand (p : Pred) (opb : Exec Word) (bt : Ty) : Exec (Option Word) := do
  let r ← operands p (pure ()) (pure ()) opb bt
  pure (r.map (·.2))

/-- Flags of the executing thread. -/
def modFlags (f : Flags → Flags) : Exec Unit := modMe (fun t => { t with f := f t.f })

/-- Exceptions go to sys.fstat (R83). -/
def orFstat (x : BitVec 5) : Exec Unit :=
  if x = 0 then pure () else modMyGrp (fun g => { g with fstat := g.fstat ||| x })

end Sys2Proof.Machine
end

