-- ==== Sys2Proof/Machine/Atomics.lean ====
section
/-! DEFINITION. Fences, 16-byte accesses, atomics, `uadd`, compare and swap (R205 to R213). -/
namespace Sys2Proof.Machine

/-- `fence` (R206). -/
def execFence (p : Pred) (q : Qual) (s : State) : Host.Outcome State Fault Refusal :=
  issue (Form.bytes .M) p false (do
    relPart q
    acqPart q
    pure none) s

/-- `ifence` (R207). -/
def execIfence (p : Pred) (s : State) : Host.Outcome State Fault Refusal :=
  straightS p (do
    releaseSteps .co
    modMe (fun t => { t with block := none })
    modify (fun s => s.modCore s.myCore (fun c => { c with codeLines := [] }))) s

/-- Lanes 4j to 4j + 3 of `va`, as 16 bytes. -/
def quadOf (va : BitVec 1024) (j : Nat) : List Byte := leBytes (va.extractLsb' (128 * j) 128).toNat 16

/-- `va` with 16 bytes in lanes 0 to 3. -/
def withQuad (va : BitVec 1024) (bs : List Byte) : BitVec 1024 :=
  va.extractLsb' 128 896 ++ BitVec.ofNat 128 (leVal bs)

/-- The checked address of a 16-byte operand (0x0C3). -/
def quadAddr (n : BitVec 3) (m : MemMode) (op : Word) : Exec Addr := do
  let x ← specAddr n m 16 16
  checkAlign x 16 0x0C3 op
  pure x

/-- `ldq` (R208). -/
def execLdq (h : Hdr) (q : Qual) (src : Opnd) (s : State) : Host.Outcome State Fault Refusal :=
  straight h (do
    match src with
    | .mem n m => do
      let x ← quadAddr n m opB
      let (loc, uc) ← locate x 16 ⟨true, false⟩ opB
      let bs ← loadAt q loc uc x 16 opB
      modMe (fun t => { t with va := withQuad t.va bs })
    | _ => pure ()) s

/-- `stq` (R208). -/
def execStq (h : Hdr) (q : Qual) (dst : Opnd) (s : State) : Host.Outcome State Fault Refusal :=
  straight h (do
    match dst with
    | .mem n m => do
      let x ← quadAddr n m opA
      let (loc, uc) ← locate x 16 ⟨false, true⟩ opA
      let t ← getMe
      storeQ q loc uc x (quadOf t.va 0) 4 opA
    | _ => pure ()) s

/-- The target of an atomic: n bytes, aligned, readable and writable. -/
def target (o : Opnd) (n : Nat) : Exec (Nat × Bool × Addr) :=
  match o with
  | .mem b m => do
    let x ← specAddr b m n n
    checkAlign x n (if n = 16 then 0x0C3 else 0x0C0) opA
    let (loc, uc) ← locate x n ⟨true, true⟩ opA
    pure (loc, uc, x)
  | _ => pure (0, true, 0)

/-- One read-modify-write at the home, with its release and acquire parts (R209): the old bytes. -/
def atomicStep (q : Qual) (loc : Nat) (x : Addr) (f : Rmw) (v : List Byte) (kind : BitVec 3) : Exec (List Byte) := do
  relPart q
  let old ← access { loc := loc, va := x, op := .rmw f v, rel := if Ord.rels q.ord then some q.scope else none,
                     kind := kind } opA
  acqPart q
  pure old

/-- An atomic (R209). -/
def amo (f : Rmw) (h : Hdr) (ty : Ty) (q : Qual) (tgt src : Opnd) (s : State) : Host.Outcome State Fault Refusal :=
  let n := tyBytes ty
  straight h (do
    let (loc, _, x) ← target tgt n
    let v ← readSrc src n opB
    let bs ← atomicStep q loc x f (leBytes v.toNat n) 1
    let old := leVal bs
    setA (extendTo ty old)
    modFlags (fun f => f.ofAlu ty.bits { r := old })) s

/-- `amo.add` -/
def execAmoAdd (h : Hdr) (ty : Ty) (q : Qual) (tgt src : Opnd) (s : State) : Host.Outcome State Fault Refusal :=
  amo .add h ty q tgt src s

/-- `amo.and` -/
def execAmoAnd (h : Hdr) (ty : Ty) (q : Qual) (tgt src : Opnd) (s : State) : Host.Outcome State Fault Refusal :=
  amo .and h ty q tgt src s

/-- `amo.or` -/
def execAmoOr (h : Hdr) (ty : Ty) (q : Qual) (tgt src : Opnd) (s : State) : Host.Outcome State Fault Refusal :=
  amo .or h ty q tgt src s

/-- `amo.xor` -/
def execAmoXor (h : Hdr) (ty : Ty) (q : Qual) (tgt src : Opnd) (s : State) : Host.Outcome State Fault Refusal :=
  amo .xor h ty q tgt src s

/-- `amo.min`: signed for i types. -/
def execAmoMin (h : Hdr) (ty : Ty) (q : Qual) (tgt src : Opnd) (s : State) : Host.Outcome State Fault Refusal :=
  amo (if Ty.signedInt ty then .minS else .minU) h ty q tgt src s

/-- `amo.max` -/
def execAmoMax (h : Hdr) (ty : Ty) (q : Qual) (tgt src : Opnd) (s : State) : Host.Outcome State Fault Refusal :=
  amo (if Ty.signedInt ty then .maxS else .maxU) h ty q tgt src s

/-- `amo.swap` -/
def execAmoSwap (h : Hdr) (ty : Ty) (q : Qual) (tgt src : Opnd) (s : State) : Host.Outcome State Fault Refusal :=
  amo .swap h ty q tgt src s

/-- `uadd` (R210, R200): into a claimed line at once, else with a claim; at the home for a UC page or a bank. -/
def execUadd (h : Hdr) (ty : Ty) (tgt src : Opnd) (s : State) : Host.Outcome State Fault Refusal :=
  let n := tyBytes ty
  straight h (do
    let (loc, uc, x) ← target tgt n
    let v ← readSrc src n opB
    let s ← get
    let c : Contrib := { off := loc % 128, n := n, v := v }
    if uc then discard <| access { loc := loc, va := x, op := .rmw .add (leBytes v.toNat n), posted := true } opA
    else if thas (s.core s.myCore).upd (lineOf loc) && s.me.got.length ≤ s.cursor then
      if s.linePending s.cur (lineOf loc) then waitFor .path
      else set (s.contributeLine s.myCore (lineOf loc) c)
    else discard <| access { loc := loc, va := x, op := .claim c } opA) s

/-- The flags of a compare and swap. -/
def casFlags (ok : Bool) (f : Flags) : Flags := { f with p := ok, z := ok, n := false, c := false, v := false }

/-- `cas.64` (R211). -/
def execCas64 (h : Hdr) (q : Qual) (tgt src : Opnd) (s : State) : Host.Outcome State Fault Refusal :=
  straight h (do
    let (loc, _, x) ← target tgt 8
    let v ← readSrc src 8 opB
    let t ← getMe
    let old ← atomicStep q loc x (.cas (leBytes t.a.toNat 8)) (leBytes v.toNat 8) 2
    setA (leWord old)
    modFlags (casFlags (decide (leWord old = t.a)))) s

/-- `cas.128` (R212). -/
def execCas128 (h : Hdr) (q : Qual) (tgt : Opnd) (s : State) : Host.Outcome State Fault Refusal :=
  straight h (do
    let (loc, _, x) ← target tgt 16
    let t ← getMe
    let old ← atomicStep q loc x (.cas (quadOf t.va 0)) (quadOf t.va 1) 3
    modMe (fun t => { t with va := withQuad t.va old })
    modFlags (casFlags (decide (old = quadOf t.va 0)))) s

/-- `amo.nib` (R213). -/
def execAmoNib (h : Hdr) (q : Qual) (tgt src : Opnd) (s : State) : Host.Outcome State Fault Refusal :=
  straight h (do
    let (loc, _, x) ← target tgt 1
    let v ← readSrc src 1 opB
    let high := v.getLsbD 4
    let bs ← atomicStep q loc x (.nib high) (leBytes v.toNat 1) 1
    let old := leVal bs
    setA (BitVec.ofNat 64 old)
    let nib := if high then old / 16 else old % 16
    modFlags (fun f => { f with z := decide (nib = 0), n := false, c := false, v := false })) s

end Sys2Proof.Machine
end

