-- ==== Sys2Proof/Machine/Sampling.lean ====
section
/-! DEFINITION. The grid abort that a thread samples (R75, R102, R303), and the observations that a site records
(R402 to R405, R410, R414). -/
namespace Sys2Proof.Machine

/-- Whether the executing thread is a follower of a running tow. -/
def State.following (s : State) : Bool :=
  match s.towOf s.cur with
  | some w => w.frozen.isNone && w.tug != s.cur
  | none => false

def following : Exec Bool := do
  let s ← get
  pure s.following

/-- The threads that sample with thread k: all members of its tow, a trap having frozen it or not. -/
def State.together (s : State) (k : Nat) : List Nat :=
  match s.towOf k with
  | some w => w.members
  | none => [k]

/-- Whether thread k is to go to the abort entry: the abort of its grid has reached its package, or had reached its group when it was
saved (R239), or the thread itself or a member of its tow has set it (R75, R390); and it has not gone there. -/
def State.abortSet (s : State) (k : Nat) : Bool :=
  let t := s.thr k
  let g := s.grp (t.group.getD 0)
  ((s.grid g.grid).reached.contains (packageOf g.cluster) || g.aborted || (s.together k).any (fun m => (s.thr m).told)) && !t.trap.ab

def State.setAb (s : State) (k : Nat) : State := s.modThr k (fun t => { t with trap := { t.trap with ab := true } })

/-- The abort entry of a thread's manifest; 0 for none (R371). -/
def State.abortEntry (s : State) (k : Nat) : Addr := (s.man ((s.thr k).group.getD 0) 2).setWidth 56

/-- A launch that a thread has sent is ordered like any other; the thread learns nothing of it any more. -/
def State.detach (s : State) (k : Nat) : State :=
  { s with launches := s.launches.map (fun l => if l.thread == some k then { l with thread := none } else l) }

/-- The threads end; a tow whose members end is over. -/
def State.endAll (s : State) (ks : List Nat) : State :=
  let s := { s with tows := s.tows.filter (fun w => !ks.contains w.tug) }
  ks.foldl (fun s k => ((s.dropReservations k).detach k).endThread k) s

/-- Thread k, with the members of its tow, goes to the abort entry, or ends where the manifest names none. R75 has every member
sample at the tug's next sampling point; whether the mooring of a follower in a sampling instruction is one the spec does not say,
and here it is: the first member that samples takes the tow along (log 74, DESIGN CHOICE). -/
def State.goAbort (s : State) (k : Nat) : State :=
  let ks := s.together k
  let e := s.abortEntry k
  if e = 0 then s.endAll ks
  else
    let s := ks.foldl (fun s m => (((s.dropReservations m).detach m).setAb m).goOn m e) s
    match s.towOf k with
    | some w => s.setTow { w with done := [], next := none, dec := none, begun := false, held := none, frozen := none }
    | none => s

/-- The threads that a test accepts and that are moored in a sampling instruction, or on a pending handle, sample (R303). -/
def State.sampleMoored (s : State) (p : Nat → Bool) : State :=
  (s.mooredOn (fun k kd _ _ =>
    (kd == 0 || kd == 4 || kd == 5 || kd == 6) && (s.thr k).group.isSome && (s.grp ((s.thr k).group.getD 0)).st == .placed && p k)).foldl
    (fun s k => if (s.thr k).live && s.abortSet k then s.goAbort k else s) s

/-- The abort is sampled at the issue of an instruction, once, and the instruction then performs nothing. In a tow the tug samples. -/
def sampleAbort : Exec Unit := do
  let s ← get
  if s.me.passed then pure ()
  else if !s.following && s.abortSet s.cur then throw (.ends (s.goAbort s.cur))
  else modMe (fun t => { t with passed := true })

/-- Whether thread k is the tug of a tow that a trap has frozen. -/
def State.freezes (s : State) (k : Nat) : Bool :=
  match s.towOf k with
  | some w => w.frozen.isSome
  | none => false

/-- The abort is sampled after a taken `.s` branch: where the thread goes on. The tug of a frozen tow takes the tow along (R75). -/
def sampleTaken (t : Addr) : Exec Addr := do
  let s ← get
  if !s.following && s.abortSet s.cur then
    if s.abortEntry s.cur = 0 || s.freezes s.cur then throw (.ends (s.goAbort s.cur))
    else do
      set ((s.together s.cur).foldl (fun s m => s.setAb m) s)
      pure (s.abortEntry s.cur)
  else pure t

/-- The wake copy of the code that a thread executes (R402). -/
def State.wakeBase (s : State) (k : Nat) : Option Nat :=
  match s.codeAt ((s.thr k).group.getD 0) (s.thr k).pc with
  | some m => m.wake
  | none => none

/-- An update leaves for the cluster's queue of 32 entries; one that finds it full is dropped and counted (R410). -/
def State.wakeSend (s : State) (k : Nat) (site : BitVec 16) (o : WakeObs) : State :=
  match s.wakeBase k with
  | none => s
  | some base =>
    let u : WakeUpd := { loc := base + 8 * site.toNat, copy := base, thread := ((s.thr k).group, (s.thr k).tid), order := s.moorings, obs := o }
    { s.modClus (clusterOf (coreOf k)) (fun c =>
        if 32 ≤ c.wakeQ.length then { c with wakeDrops := tset c.wakeDrops base (tget c.wakeDrops 0 base + 1) }
        else { c with wakeQ := c.wakeQ ++ [u] }) with moorings := s.moorings + 1 }

/-- The update of an instruction with a wake clause (R405). -/
def wakeNote (site : BitVec 16) (o : WakeObs) : Exec Unit :=
  if site = 0 then pure () else modify (fun s => s.wakeSend s.cur site o)

/-- The update of a control transfer, which a tow's tug makes (R414). -/
def wakeNoteCtl (site : BitVec 16) (o : WakeObs) : Exec Unit := do
  if ← following then pure () else wakeNote site o

/-- Whether a load at an address is long-latency (R90): no L1 hit, and no bank of the thread's own cluster through a
local window. An `.acq.co` load is performed as a plain one (R193), so it may hit the L1 and is then not long-latency: R90's
definition exempts an L1 hit, its list of examples names every acquire load (log 68, DEDUCED). -/
def State.longLatency (s : State) (x : Addr) (q : Qual) (loc : Nat) (uc : Bool) : Bool :=
  if isBank loc then homeCluster (s.homeOf loc) != s.myClus
  else !s.me.got.isEmpty || uc || !asPlain q || !thas (s.core s.myCore).l1 (lineOf loc) || x.getLsbD 55

/-- Line bits of an address (R405). -/
def wakeLine (x : Addr) : BitVec 16 := x.extractLsb' 7 16

end Sys2Proof.Machine
end

