-- ==== Sys2Proof/Machine/Lanes.lean ====
section
/-! DEFINITION. Lanes, vector operands and the arithmetic of vector instructions (R132 to R150). -/
namespace Sys2Proof.Machine

/-! ### Lanes (R132, R133) -/

def lane (v : BitVec 1024) (i : Nat) : W32 := v.extractLsb' (32 * i) 32
def lanesOf (v : BitVec 1024) : List W32 := (List.range 32).map (lane v)
/-- `va` with lane i given for each i. -/
def vecOf (f : Nat → W32) : BitVec 1024 :=
  (List.range 32).foldl (fun v i => v ||| ((f i).setWidth 1024 <<< (32 * i))) 0
def activeLanes (vm : W32) : List Nat := (List.range 32).filter (fun i => vm.getLsbD i)
/-- Lanes written where `vm` is 1. -/
def mergeLanes (vm : W32) (old : BitVec 1024) (f : Nat → W32) : BitVec 1024 :=
  vecOf (fun i => if vm.getLsbD i then f i else lane old i)

/-! ### Vector operands in memory (R134) -/

/-- Element size, footprint and alignment. -/
def vecE : Ty → Nat
  | .pb c => 4 * (c.toNat + 2)
  | .f4 => 1
  | t => tyBytes t
def vecZ : Ty → Nat
  | .pb c => 4 * (c.toNat + 2)
  | .f4 => 16
  | t => 32 * tyBytes t
def vecAlign : Ty → Nat
  | .pb _ => 4
  | t => vecE t

/-- The accesses that the lanes of a mask make: offset and bytes of each (R151). Of a block record, the words that
hold BEXP and the lanes' elements are read. -/
def vecParts (t : Ty) (vm : W32) : List (Nat × Nat) :=
  match t with
  | .pb c =>
    let w := c.toNat + 1
    let ls := activeLanes vm
    ((List.range (w + 1)).filter (fun k =>
      if k = 0 then !ls.isEmpty
      else ls.any (fun i => decide (32 * (k - 1) < w * (i + 1)) && decide (w * i < 32 * k)))).map (fun k => (4 * k, 4))
  | .f4 => ((List.range 16).filter (fun j => vm.getLsbD (2 * j) || vm.getLsbD (2 * j + 1))).map (fun j => (j, 1))
  | t => (activeLanes vm).map (fun i => (i * tyBytes t, tyBytes t))

/-- The whole footprint of a kind 001 operand lies in its pontoon, which it resolved to at the first issue (R291). -/
def ringFootprint (x : Addr) (z : Nat) (op : Word) : Exec Unit := do
  let s ← get
  if x.extractLsb' 52 4 ≠ 9 || x.extractLsb' 48 4 ≠ 0 || s.foundAt.isSome then pure ()
  else
    match s.ringOf s.myGrp (x.extractLsb' 45 3).toNat with
    | none => fault 0x311 (some (x.setWidth 64)) op
    | some (_, r) =>
      if ringN r.parm ≤ (x.extractLsb' 41 4).toNat then fault 0x310 (some (x.setWidth 64)) op
      else if ringZ r.parm < (x.extractLsb' 0 41).toNat + z then fault 0x315 (some (x.setWidth 64)) op
      else pure ()

/-- The checked address of a vector operand. -/
def vecAddr (n : BitVec 3) (m : MemMode) (t : Ty) (op : Word) : Exec Addr := do
  let x ← specAddr n m (vecE t) (vecZ t)
  checkAlign x (vecAlign t) 0x0C0 op
  ringFootprint x (vecZ t) op
  pure x

/-- A piece of a vector operand that has been translated. -/
structure Piece where
  off : Nat
  n : Nat
  va : Addr
  loc : Nat
  uc : Bool
  deriving DecidableEq, Repr

/-- The pieces of an operand, each with its offset, its bytes and its address, translated and checked. -/
def locatePieces (nd : Need) (op : Word) : List (Nat × Nat × Addr) → Exec (List Piece)
  | [] => pure []
  | (o, n, v) :: ps => do
    let (loc, uc) ← locateRaw v n nd op
    let rest ← locatePieces nd op ps
    pure ({ off := o, n := n, va := v, loc := loc, uc := uc } :: rest)

/-- The data errors of pieces. -/
def reachPieces (nd : Need) (op : Word) : List Piece → Exec Unit
  | [] => pure ()
  | p :: ps => do
    reach p.loc p.n nd.rd (!p.uc) p.va op
    reachPieces nd op ps

/-- Every piece is translated and checked before any meets a data error (R219), and before any is accessed (R143, R154). Of several
that fault alike, the first is delivered, which is the lowest lane's (log 70, DESIGN CHOICE: R219 orders operands and kinds of fault
only). -/
def locateAll (nd : Need) (op : Word) (xs : List (Nat × Nat × Addr)) : Exec (List Piece) := do
  let ps ← locatePieces nd op xs
  reachPieces nd op ps
  pure ps

/-- The pieces of a contiguous operand. -/
def locateParts (x : Addr) (nd : Need) (op : Word) (ps : List (Nat × Nat)) : Exec (List Piece) :=
  locateAll nd op (ps.map (fun p => (p.1, p.2, x + BitVec.ofNat 56 p.1)))

/-- The pieces of a contiguous operand that an instruction reads and those that it writes: all are translated and checked before any
meets a data error (R219). -/
def locateBoth (x : Addr) (op : Word) (rs ws : List (Nat × Nat)) : Exec (List Piece × List Piece) := do
  let part (p : Nat × Nat) : Nat × Nat × Addr := (p.1, p.2, x + BitVec.ofNat 56 p.1)
  let a ← locatePieces ⟨true, false⟩ op (rs.map part)
  let b ← locatePieces ⟨false, true⟩ op (ws.map part)
  reachPieces ⟨true, false⟩ op a
  reachPieces ⟨false, true⟩ op b
  pure (a, b)

/-- The bytes of the pieces, as a number whose byte k is byte k of the operand. -/
def loadPieces (q : Qual) (op : Word) : List Piece → Exec Nat
  | [] => pure 0
  | p :: ps => do
    let bs ← access { loc := p.loc, va := p.va, op := .read p.n, near := !p.uc && asPlain q } op
    let r ← loadPieces q op ps
    pure (leVal bs * 2 ^ (8 * p.off) + r)

/-- The release part of an instruction that stores several pieces, unless it has made one of the stores already. -/
def relOnce (q : Qual) : Exec Unit := do
  let s ← get
  if s.cursor < s.me.got.length then pure () else relPart q

/-- The bytes of a number that a piece stores. -/
def Piece.bytes (p : Piece) (v : Nat) : List Byte := leBytes (v / 2 ^ (8 * p.off)) p.n

/-- The stores of the pieces that follow one to the same view of a ring: a rotation performs them with it (R292). -/
def Piece.more (p : Piece) (v : Nat) (ps : List Piece) : List (Nat × Addr × HomeOp) :=
  (ps.takeWhile (fun r => isView p.va && r.va.extractLsb' 41 15 == p.va.extractLsb' 41 15)).map (fun r => (r.loc, r.va, .write (r.bytes v)))

/-- The pieces of a number are stored, in ascending order. The spec fixes the order for `vstx` only; here the element accesses of
every vector instruction are made in ascending order (log 70, DESIGN CHOICE). A release is carried by the first store to each line
(log 21). Of a store to another package whose later piece has no reply (0x391), the earlier pieces stay stored: R226 lets a store
without a reply be performed or not, R154 has a fault leave memory as it was (log 89, DESIGN CHOICE). -/
def storePieces (q : Qual) (v : Nat) (op : Word) (seen : List Nat) : List Piece → Exec Unit
  | [] => pure ()
  | p :: ps => do
    if asPlain q then storeMore p.loc p.uc p.va (p.bytes v) (p.more v ps) op
    else do
      let s ← get
      discard <| access { loc := p.loc, va := p.va, op := .write (p.bytes v),
                          rel := if seen.contains (lineOf p.loc) then none else some q.scope,
                          posted := !s.remote p.loc, more := p.more v ps } op
    storePieces q v op (lineOf p.loc :: seen) ps

/-! ### Elements (R141, R142) -/

/-- Element i of packed elements. -/
def rawElem (t : Ty) (v : Nat) (i : Nat) : Nat := v / 2 ^ (t.bits * i) % 2 ^ t.bits

/-- An element widened to a lane (R141). A signalling NaN of a converted format gives the quiet NaN that R141 names, and no exception:
R121 has an instruction that discards a signalling NaN set invalid, R141 names none (log 89, DESIGN CHOICE). -/
def widenLane (t : Ty) (b : Nat) : W32 :=
  if t.isInt then (extendTo t b).setWidth 32
  else if t = .f32 then BitVec.ofNat 32 b
  else BitVec.ofNat 32 (widen32 t b)

/-- Lane i of a memory vector. -/
def laneOfMem (t : Ty) (v : Nat) (i : Nat) : W32 :=
  match t with
  | .pb c => BitVec.ofNat 32 (pbElem (c.toNat + 1) v i)
  | t => widenLane t (rawElem t v i)

/-- A lane narrowed to an element, with its exceptions (R142). -/
def narrowLane (t : Ty) (md : Mode) (x : W32) : Nat × BitVec 5 :=
  if t = .f32 then (x.toNat, 0)
  else
    let (r, e, _) := convert t (if t.isInt then (if Ty.signedInt t then .i32 else .ui32) else .f32) md x.toNat
    (r, e)

/-- Elements of the given lanes packed, with their exceptions; inactive lanes leave zeros. -/
def packLanes (t : Ty) (md : Nat → Mode) (f : Nat → W32) (ls : List Nat) : Nat × BitVec 5 :=
  ls.foldl (fun acc i =>
    let (r, x) := narrowLane t (md i) (f i)
    (acc.1 + r * 2 ^ (t.bits * i), acc.2 ||| x)) (0, 0)

/-! ### Sources and destinations (R135) -/

/-- A memory vector of 32-bit lanes. -/
def readVec32 (x : Addr) (vm : W32) (op : Word) : Exec Nat := do
  let ps ← locateParts x ⟨true, false⟩ op (vecParts .ui32 vm)
  loadPieces ⟨.plain, .co⟩ op ps

/-- The lanes of a vector source; a memory vector is read in the lanes of vm. -/
def vecSrc (o : Opnd) (vm : W32) (op : Word) : Exec (Nat → W32) := do
  let t ← getMe
  match o with
  | .mem n m => do
    let x ← vecAddr n m .ui32 op
    let v ← readVec32 x vm op
    pure (fun i => BitVec.ofNat 32 (rawElem .ui32 v i))
  | .va => pure (lane t.va)
  | .imm v => pure (fun _ => v.setWidth 32)
  | _ => pure (fun _ => t.a.setWidth 32)

/-- A vector destination: `va`, or a translated memory vector. -/
inductive VDest where
  | va
  | mem (ps : List Piece)
  deriving DecidableEq, Repr

def openVec (o : Opnd) (vm : W32) (nd : Need) (op : Word) : Exec VDest :=
  match o with
  | .mem n m => do
    let x ← vecAddr n m .ui32 op
    let ps ← locateParts x nd op (vecParts .ui32 vm)
    pure (.mem ps)
  | _ => pure .va

/-- The lanes of a destination before the instruction (R137). -/
def readVDest (d : VDest) (op : Word) : Exec (Nat → W32) := do
  match d with
  | .va => do
    let t ← getMe
    pure (lane t.va)
  | .mem ps => do
    let v ← loadPieces ⟨.plain, .co⟩ op ps
    pure (fun i => BitVec.ofNat 32 (rawElem .ui32 v i))

/-- The active lanes are written. -/
def writeVDest (d : VDest) (f : Nat → W32) (op : Word) : Exec Unit :=
  match d with
  | .va => modMe (fun t => { t with va := mergeLanes t.vm t.va f })
  | .mem ps => storePieces ⟨.plain, .co⟩ (vecOf f).toNat op [] ps

/-! ### Lane arithmetic (R137, R138) -/

/-- A lane operation on integers of a type. -/
def laneInt (op : Ty → Nat → Nat → Alu) (t : Ty) (x y : W32) : W32 × BitVec 5 :=
  (BitVec.ofNat 32 (op t x.toNat y.toNat).r, 0)

/-- An FP32 lane operation, rounded once. -/
def laneFp (op : FVal → FVal → FVal × BitVec 5) (x y : W32) : W32 × BitVec 5 :=
  let (r, e) := fmtF32.finish .rne (op (fmtF32.decode x.toNat) (fmtF32.decode y.toNat))
  (BitVec.ofNat 32 r, e)

/-- An operation with an integer and a floating-point reading. -/
def laneBoth (i : Ty → Nat → Nat → Alu) (f : FVal → FVal → FVal × BitVec 5) (t : Ty) (x y : W32) : W32 × BitVec 5 :=
  if t = .f32 then laneFp f x y else laneInt i t x y

/-- |y| of an integer lane, or the lane with its sign bit cleared. -/
def laneAbs (t : Ty) (y : W32) : W32 × BitVec 5 :=
  (if t = .f32 then y &&& 0x7FFFFFFF else if y.msb then 0 - y else y, 0)

/-- 0 - y of an integer lane, or the lane with its sign bit inverted. -/
def laneNeg (t : Ty) (y : W32) : W32 × BitVec 5 := (if t = .f32 then y ^^^ 0x80000000 else 0 - y, 0)

/-- The right shift: arithmetic for i32, logical for ui32. -/
def aluVshr (t : Ty) (x y : Nat) : Alu := if Ty.signedInt t then aluSar t x y else aluShr t x y

/-- The exceptions of the active lanes. -/
def lanesExc (vm : W32) (f : Nat → BitVec 5) : BitVec 5 := (activeLanes vm).foldl (fun e i => e ||| f i) 0

/-- r_i := x_i op y_i in the active lanes (R137). -/
def vecTwo (op : Ty → W32 → W32 → W32 × BitVec 5) (h : Hdr) (t : Ty) (dst src : Opnd) (s : State) :
    Host.Outcome State Fault Refusal :=
  straight h (do
    let th ← getMe
    let d ← openVec dst th.vm ⟨true, true⟩ opA
    let x ← readVDest d opA
    let y ← vecSrc src th.vm opB
    writeVDest d (fun i => (op t (x i) (y i)).1) opA
    orFstat (lanesExc th.vm (fun i => (op t (x i) (y i)).2))) s

/-- r_i := op y_i in the active lanes. -/
def vecOne (op : W32 → W32 × BitVec 5) (h : Hdr) (dst src : Opnd) (s : State) : Host.Outcome State Fault Refusal :=
  straight h (do
    let th ← getMe
    let d ← openVec dst th.vm ⟨false, true⟩ opA
    let y ← vecSrc src th.vm opB
    writeVDest d (fun i => (op (y i)).1) opA
    orFstat (lanesExc th.vm (fun i => (op (y i)).2))) s

/-! ### The functions of R148

A result that is no power of two is irrational: no FP32 value and no tie. It is held to 250 bits and more, with a last bit
that says that it is inexact, so its rounding is that of the exact result. -/

/-- Bits of the fixed-point numbers. -/
def fxP : Nat := 288

/-- sum over k < n of z^(2k+1) / (2k+1), from the term p = z^(2k+1) on. -/
def atanhSum (z2 : Nat) : Nat → Nat → Nat → Nat
  | 0, _, _ => 0
  | n + 1, k, p => p / (2 * k + 1) + atanhSum z2 n (k + 1) (p * z2 / 2 ^ fxP)

/-- 2 atanh z = ln ((1 + z)/(1 - z)), for z up to 1/3. -/
def ln2atanh (z : Nat) : Nat := 2 * atanhSum (z * z / 2 ^ fxP) 100 0 z

/-- ln 2. -/
def fxLn2 : Nat := ln2atanh (2 ^ fxP / 3)

/-- sum of x^n / n!, from the term p = x^n / n! on. -/
def expSum (x : Nat) : Nat → Nat → Nat → Nat
  | 0, _, _ => 0
  | n + 1, k, p => p + expSum x n (k + 1) (p * x / 2 ^ fxP / (k + 1))

/-- 2^(a/b) for a whole number part i and a fraction f in fixed point. -/
def exp2Q (i : Int) (f : Nat) : Nat × Nat :=
  let r := expSum (f * fxLn2 / 2 ^ fxP) 80 0 (2 ^ fxP)
  scaleQ (2 * r + 1) (2 ^ (fxP + 1)) (-i)

/-- 2^y. -/
def fExp2 (y : FVal) : FVal × BitVec 5 :=
  match y with
  | .fin n a b =>
    let z : Int := if n then -(a : Int) else (a : Int)
    let i : Int := min (max (z / (b : Int)) (-200)) 200
    let f : Nat := (z % (b : Int)).toNat
    if f = 0 || i = 200 || z / (b : Int) < -200 then
      let (p, q) := scaleQ 1 1 (-i)
      (.fin false p q, 0)
    else
      let (p, q) := exp2Q i (f * 2 ^ fxP / b)
      (.fin false p q, 0)
  | .inf n => (if n then .fin false 0 1 else .inf false, 0)
  | y => nanResult [y] false

/-- log2 y. -/
def fLog2 (y : FVal) : FVal × BitVec 5 :=
  match y with
  | .fin n a b =>
    if a = 0 then (.inf true, xDivZero)
    else if n then nanResult [] true
    else
      let e := log2Q a b
      let (p, q) := scaleQ a b e
      if p = q then (.fin (decide (e < 0)) e.natAbs 1, 0)
      else
        let l := ln2atanh ((p - q) * 2 ^ fxP / (p + q)) * 2 ^ fxP / fxLn2
        let v : Int := 2 * (e * (2 ^ fxP : Nat) + (l : Int)) + 1
        (.fin (decide (v < 0)) v.natAbs (2 ^ (fxP + 1)), 0)
  | .inf n => if n then nanResult [] true else (.inf false, 0)
  | y => nanResult [y] false

/-- 1/y. -/
def fRcp (y : FVal) : FVal × BitVec 5 := fDiv (.fin false 1 1) y

/-- 1/sqrt y. -/
def fRsq (y : FVal) : FVal × BitVec 5 :=
  match y with
  | .fin n a b =>
    if a = 0 then (.inf n, xDivZero)
    else if n then nanResult [] true
    else
      let (p, q) := sqrtFin b a
      (.fin false p q, 0)
  | .inf n => if n then nanResult [] true else (.fin false 0 1, 0)
  | y => nanResult [y] false

/-- A function of R148 on a lane. -/
def laneFun (f : FVal → FVal × BitVec 5) (y : W32) : W32 × BitVec 5 :=
  let (r, e) := fmtF32.finish .rne (f (fmtF32.decode y.toNat))
  (BitVec.ofNat 32 r, e)

/-! ### Reductions (R149) -/

/-- The largest (smallest) integer of the active lanes, from the value that an empty mask gives. -/
def redInt (pick : Ty → Nat → Nat → Alu) (t : Ty) (none : Nat) (xs : List W32) : Nat :=
  xs.foldl (fun m x => (pick t m x.toNat).r) none

/-- maximumNumber (minimumNumber) of the active lanes. -/
def redFp (pick : FVal → FVal → FVal × BitVec 5) (xs : List W32) : Nat × BitVec 5 :=
  let r := xs.foldl (fun (m : FVal × BitVec 5) x =>
    let p := pick m.1 (fmtF32.decode x.toNat)
    (p.1, m.2 ||| p.2)) (.nan false, 0)
  fmtF32.finish .rne r

/-- `vredmax` and `vredmin`. -/
def vecReduce (pick : Ty → Nat → Nat → Alu) (pickF : FVal → FVal → FVal × BitVec 5) (empty : Ty → Nat) (h : Hdr) (t : Ty)
    (src : Opnd) (s : State) : Host.Outcome State Fault Refusal :=
  straight h (do
    let th ← getMe
    let y ← vecSrc src th.vm opB
    let xs := (activeLanes th.vm).map y
    if t = .f32 then do
      let (r, e) := redFp pickF xs
      setA (extendTo .f32 r)
      modFlags (fun f => f.ofFloat .f32 r)
      orFstat e
    else do
      let r := redInt pick t (empty t) xs
      setA (extendTo t r)
      modFlags (fun f => f.ofAlu 32 { r := r })) s

/-! ### vxsum (R150) -/

/-- The value of a lane of an integer type. -/
def laneVal (t : Ty) (x : W32) : Int := intVal t x.toNat

/-- The exact sum's entry at a scale. -/
def sumEntry (sc : Int) (xs : List W32) : Entry :=
  xs.foldl (fun e x => contribute sc e (fmtF32.decode x.toNat)) {}

/-- The sticky range status of the group. -/
def setRange (b : Bool) : Exec Unit := if b then modMyGrp (fun g => { g with rstat := true }) else pure ()

end Sys2Proof.Machine
end

