-- ==== Sys2Proof/Machine/Pages.lean ====
section
/-! DEFINITION. Page table walks (R171, R172), and the addresses of those who are no threads: engines, Keel, the
completions of grids (R173 to R176, R202, R256). -/
namespace Sys2Proof.Machine

/-- A level of the tree: the lowest index bit, the index bits, whether a leaf may stand there, whether it must. -/
structure Level where
  shift : Nat
  bits : Nat
  leaf : Bool
  last : Bool
  deriving DecidableEq, Repr

def levels : List Level :=
  [⟨48, 7, false, false⟩, ⟨39, 9, false, false⟩, ⟨30, 9, true, false⟩, ⟨21, 9, true, false⟩, ⟨16, 5, true, true⟩]

/-- Whether an entry is malformed at its level (R172). -/
def badEntry (e : Word) (l : Level) : Bool :=
  let leaf := e.getLsbD 1
  e.extractLsb' 52 12 ≠ 0 || e.extractLsb' 6 6 ≠ 0 || (leaf && !l.leaf) || (!leaf && l.last) ||
    (leaf && (e.toNat % 2 ^ 52 / 2 ^ 12 * 2 ^ 12) % 2 ^ l.shift != 0) || (e.getLsbD 4 && e.getLsbD 3) ||
    (!leaf && e.extractLsb' 2 4 ≠ 0) || decide (144 ≤ paUnit (e.toNat % 2 ^ 52))

/-- The leaf of an entry. -/
def leafOf (e : Word) (root va : Nat) (l : Level) : Leaf :=
  { root := root, va := va / 2 ^ l.shift * 2 ^ l.shift, size := l.shift, pa := e.toNat % 2 ^ 52 / 2 ^ 12 * 2 ^ 12,
    rd := e.getLsbD 2, wr := e.getLsbD 3, ex := e.getLsbD 4, uc := e.getLsbD 5 }

/-- The walk from a table on. -/
def walkFrom (m : Memory) (root va : Nat) : List Level → Nat → Walked
  | [], _ => .fault 0x106
  | l :: ls, table =>
    let e := leWord (memBytes m (table + 8 * (va / 2 ^ l.shift % 2 ^ l.bits)) 8)
    if !e.getLsbD 0 then .fault 0x100
    else if badEntry e l then .fault 0x106
    else if e.getLsbD 1 then .leaf (leafOf e root va l)
    else walkFrom m root va ls (e.toNat % 2 ^ 52 / 2 ^ 12 * 2 ^ 12)

/-- The walk of the page tables with a root key; without tables nothing is mapped. -/
def State.walk (s : State) (root va : Nat) : Walked :=
  match s.roots.find? (fun e => e.1 == root) with
  | none => .fault 0x100
  | some e => walkFrom s.mem root (va % 2 ^ 55) levels e.2

/-! ### Addresses of engines (R174, R175, R202) -/

/-- What an engine's address names: a location; a fault; or it waits: for a walk, a bank's switch, a saved group, a
ring's rotation to a stage. -/
inductive EngAt where
  | at (loc : Nat)
  | fault (c : BitVec 10)
  | walk
  | bank
  | saved
  deriving DecidableEq, Repr

/-- Whether a bank's pending switch stalls an access of an operation (R170): it waits for the operations that were under way when its
`bank` issued (R169), and those go on. -/
def Bank.stalls (b : Bank) (op : Option OpId) : Bool :=
  match b.queue with
  | [] => false
  | q :: _ =>
    match op with
    | some o => !q.ops.contains o
    | none => true

/-- A scratchpad byte of a group, for an operation. -/
def State.engScratchFor (s : State) (g so : Nat) (op : Option OpId) : EngAt :=
  match (s.grp g).banks[so / 2 ^ 19 % 32]? with
  | none => .fault 0x103
  | some b =>
    let bk := s.bank (s.grp g).cluster b
    if bk.stalls op then .bank
    else if bk.mode ≠ .sp then .fault 0x103
    else .at (bankLoc (s.grp g).cluster b (so % 2 ^ 19))

/-- A scratchpad byte of a group. -/
def State.engScratch (s : State) (g so : Nat) : EngAt := s.engScratchFor g so none

/-- A scratchpad byte of the group with a tag on a cluster, for a grid. -/
def State.tagScratch (s : State) (ck gtag grid so : Nat) (op : Option OpId) : EngAt :=
  match s.groupAt ck gtag grid with
  | some g => s.engScratchFor g so op
  | none =>
    if s.groups.any (fun e => e.2.grid == grid &&
        (match e.2.save with | some v => v.cluster == ck && v.gtag == gtag | none => false)) then .saved
    else .fault 0x104

/-- n bytes of a ring view; `stage` is the stage index that the request resolved against (R291). -/
def State.engView (s : State) (g : Nat) (x : Addr) (n : Nat) (stage : Option W32) : EngAt :=
  let k := (x.extractLsb' 41 4).toNat
  let off := (x.extractLsb' 0 41).toNat
  if x.extractLsb' 48 4 ≠ 0 then .fault 0x102
  else
    match s.ringOf g (x.extractLsb' 45 3).toNat with
    | none => .fault 0x311
    | some (_, r) =>
      if ringN r.parm ≤ k then .fault 0x310
      else if ringZ r.parm < off + n then .fault 0x315
      else .at (s.ringLoc g r.parm ((stage.getD r.s + BitVec.ofNat 32 k).toNat % ringN r.parm * ringZ r.parm + off))

/-- A global address of an operation through the cluster TLB. A miss takes an outstanding-miss entry; each access that waits takes the
walk's result, installed or not (R175, R181). In slack water none translates (R468). -/
def State.engGlobal (s : State) (ck root va : Nat) (nd : Need) (op : Option OpId) : EngAt × State :=
  let me : EngWait := (op.getD (0, 0, 0), va)
  let use (s : State) (l : Leaf) : EngAt × State :=
    match s.leafCheck l va (packageOf ck) nd with
    | .error c => (.fault c, s)
    | .ok pa => (.at pa, s)
  if s.slack (packageOf ck) then (.fault 0x100, s)
  else
    match (s.clus ck).engWalked.find? (fun e => e.1 == root && e.2.1 == me) with
    | some (_, _, w) =>
      let s := s.modClus ck (fun k => { k with engWalked := k.engWalked.filter (fun e => !(e.1 == root && e.2.1 == me)) })
      (match w with
        | .fault c => (.fault c, s)
        | .leaf l => use s l)
    | none =>
      match (s.clus ck).tlb.find? (fun l => l.covers root va) with
      | some l => use (s.modClus ck (fun k => { k with tlb := tlbInsert k.tlb l })) l
      | none => (.walk, s.takeMiss ck root (va / 2 ^ 16) none (some me))

/-- n bytes at a local virtual address, for an operation of an engine that works for a group on its cluster. -/
def State.engAddr (s : State) (g : Nat) (x : Addr) (n : Nat) (nd : Need) (stage : Option W32) (op : Option OpId) : EngAt × State :=
  let ck := (s.grp g).cluster
  if !x.getLsbD 55 then s.engGlobal ck (s.rootOf g) x.toNat nd op
  else
    match (x.extractLsb' 52 3).toNat with
    | 0 => if x.extractLsb' 24 28 ≠ 0 then (.fault 0x102, s) else (s.engScratchFor g (x.extractLsb' 0 24).toNat op, s)
    | 1 => (s.engView g x n stage, s)
    | 2 => (.fault 0x105, s)
    | 3 =>
      if x.extractLsb' 48 4 ≠ 0 || x.extractLsb' 32 10 ≠ 0 then (.fault 0x102, s)
      else
        let c := packageOf ck * 64 + (x.extractLsb' 42 6).toNat
        let grid := (s.grp g).grid
        if !s.ownsCluster (s.grid grid).part c then (.fault 0x104, s)
        else (s.tagScratch c (x.extractLsb' 24 8).toNat grid (x.extractLsb' 0 24).toNat op, s)
    | _ => (.fault 0x102, s)

/-- The stage index of every ring of a group (R291). -/
def State.stagesOf (s : State) (g : Nat) : Table W32 :=
  (List.range 8).filterMap (fun j => (s.ringOf g j).map (fun r => (j, r.2.s)))

/-- The stage that an address resolves against. -/
def stageFor (views : Table W32) (x : Word) : Option W32 :=
  (views.find? (fun e => e.1 == (x.extractLsb' 45 3).toNat)).map (·.2)

/-- As `engAddr`, of an operation that has resolved the views of its group's rings when it was taken: of a ring that was not initialised
then it has none (R291). -/
def State.engTaken (s : State) (g : Nat) (views : Table W32) (x : Word) (n : Nat) (nd : Need) (op : Option OpId) : EngAt × State :=
  if x.extractLsb' 52 4 = 9 ∧ x.extractLsb' 48 4 = 0 ∧ stageFor views x = none then (.fault 0x311, s)
  else s.engAddr g (x.setWidth 56) n nd (stageFor views x) op

/-- n bytes at a global address, translated by the tables themselves on a package. -/
def State.walkAddr (s : State) (root va package : Nat) (nd : Need) : EngAt :=
  if s.slack package then .fault 0x100
  else
  match s.walk root va with
  | .fault c => .fault c
  | .leaf l =>
    match s.leafCheck l va package nd with
    | .error c => .fault c
    | .ok pa => .at pa

/-- An address in remote form, for a group (R256): a global address is translated at PKG; a scratchpad is checked there.
In slack water no request in remote form is served (R468). A reserved bit of a scratchpad form raises 0x102 at the beat; in a word of the
request it is refused as the request is taken, and the spec names no cause for one that stands in the BASE of a shape record (log 88,
DESIGN CHOICE). -/
def State.remoteAddr (s : State) (g : Nat) (x : Word) (nd : Need) (op : Option OpId) : EngAt :=
  let gr := s.grid (s.grp g).grid
  let p := (x.extractLsb' 52 12).toNat
  let here := packageOf (s.grp g).cluster
  if s.unrouted here p || s.slack here then .fault 0x390
  else if !x.getLsbD 51 then
    match s.walk (gr.root p) (x.toNat % 2 ^ 51) with
    | .fault c => .fault c
    | .leaf l =>
      let pa := l.pa + x.toNat % 2 ^ l.size
      if (nd.rd && !l.rd) || (nd.wr && (!l.wr || s.locked pa)) then .fault 0x101 else .at pa
  else if x.extractLsb' 48 3 ≠ 0 || x.extractLsb' 32 10 ≠ 0 then .fault 0x102
  else
    let c := p * 64 + (x.extractLsb' 42 6).toNat
    if !s.ownsCluster gr.part c then .fault 0x104
    else s.tagScratch c (x.extractLsb' 24 8).toNat (s.grp g).grid (x.extractLsb' 0 24).toNat op

/-! ### Ranges (R177) -/

/-- The 64 KiB keys of n bytes of the translated space. -/
def keysOf (va n : Nat) : List Nat :=
  if n = 0 then []
  else ((List.range ((va + n - 1) / 2 ^ 16 + 1 - va / 2 ^ 16)).map (fun i => va / 2 ^ 16 + i)).filter (fun k => decide (k < 2 ^ 39))

/-- The lines that hold n bytes at a virtual address: first and last of each page that is mapped. -/
def State.rangeLines (s : State) (root va n : Nat) : List (Nat × Nat) :=
  (keysOf va n).filterMap (fun k =>
    match s.walk root (k * 2 ^ 16) with
    | .fault _ => none
    | .leaf l =>
      let lo := max va (k * 2 ^ 16)
      let hi := min (va + n) ((k + 1) * 2 ^ 16)
      let pa := l.pa + k * 2 ^ 16 % 2 ^ l.size
      some ((pa + lo % 2 ^ 16) / 128, (pa + (hi - 1 - k * 2 ^ 16)) / 128))

def inLines (ls : List (Nat × Nat)) (line : Nat) : Bool := ls.any (fun e => decide (e.1 ≤ line) && decide (line ≤ e.2))

end Sys2Proof.Machine
end

