-- ==== Sys2Proof/Machine/Handles.lean ====
section
/-! DEFINITION. Future handles (R223, R224, R251, R252, R274 to R276). -/
namespace Sys2Proof.Machine

def Thread.handle (t : Thread) (n : BitVec 3) : Handle := t.h[n.toNat]'(by have := n.isLt; omega)
def Thread.setHandle (t : Thread) (n : BitVec 3) (x : Handle) : Thread :=
  { t with h := t.h.set n.toNat x (by have := n.isLt; omega) }

/-- Engines as sys.einfo numbers them (R225). -/
def engFerry : BitVec 4 := 1
def engMatrix : BitVec 4 := 2
def engBank : BitVec 4 := 3
def engTile : BitVec 4 := 4
def engRank : BitVec 4 := 5

/-- A fault that no thread can be told is reported to a fault domain where it is of the platform range (R441). -/
def State.untell (s : State) (g : Nat) (c : BitVec 10) : State :=
  let gr := s.grid (s.grp g).grid
  if 0x380 ≤ c.toNat ∧ c.toNat ≤ 0x3EF then { s with untold := s.untold ++ [(gr.part, gr.region, c)] } else s

/-- An engine fault that can no longer be delivered (R224). -/
def State.undeliverable (s : State) (g : Nat) (c : BitVec 10) : State :=
  ((s.untell g c).modGrp g (fun x =>
    { x with
      ufault := if x.ufaults = 0 then c else x.ufault
      ufaults := if x.ufaults = 0xFFFFFFFF then x.ufaults else x.ufaults + 1 })).report g c

/-- The fault that a handle register holds when something else takes the register: it is counted, once. -/
def State.dropFault (s : State) (k : Nat) (n : BitVec 3) : State :=
  let t := s.thr k
  let x := t.handle n
  if x.st = .faulted && !x.counted then
    (s.modThr k (fun t => t.setHandle n { x with counted := true })).undeliverable (t.group.getD 0) x.cause
  else s

/-- A new operation in a handle register of the executing thread (R251, R252). -/
def newHandle (n : BitVec 3) (f : Handle → Handle) : Exec Unit := do
  modify (fun s => s.dropFault s.cur n)
  modMe (fun t => t.setHandle n (f { st := .pending, seq := (t.handle n).seq + 1 }))

/-- Threads moored on a handle issue again (R252, R274). -/
def State.wakeHandle (s : State) (k : Nat) (n : Nat) : State :=
  s.wakeAll (s.mooredOn (fun t kd _ _ => kd == 0 && (s.thr t).watch == some (8 * k + n)))

/-- The outcome of an operation. A fault for which the spec names no address leaves a free value in `eaddr` (log 17). -/
inductive Done where
  | complete
  | faulted (c : BitVec 10) (x : Option Word)
  | cancelled (c : BitVec 10)
  deriving DecidableEq, Repr

/-- Something of a group's grid has moved: its drift window starts afresh (R242). -/
def State.stir (s : State) (g : Nat) : State :=
  if thas s.grids (s.grp g).grid then s.modGrid (s.grp g).grid (fun x => { x with quietSince := s.now }) else s

/-- The operation SEQ of a handle register ends (R224, R251, R252): a register that has taken another operation does not
see it. A fault of a thread that has halted, or of a detached operation, is counted. -/
def State.finish (s : State) (g k n : Nat) (seq : W32) (d : Done) : State :=
  let i : BitVec 3 := BitVec.ofNat 3 n
  let t := s.thr k
  let x := t.handle i
  let seen := decide (t.group = some g) && decide (x.seq = seq) && x.st == .pending
  let lost := !seen || !t.live
  let (v, s) := s.trapAddr (match d with | .faulted _ v => v | _ => some 0)
  let s :=
    if seen then
      (s.modThr k (fun t => t.setHandle i
        (match d with
          | .complete => { x with st := .complete }
          | .faulted c _ => { x with st := .faulted, cause := c, eaddr := v, counted := lost }
          | .cancelled c => { x with st := .cancelled, cause := c })))
    else s
  let s :=
    match d with
    | .faulted c _ => if lost then s.undeliverable g c else s
    | _ => s
  -- a token may wait for a detached operation too; the grid is not quiet (R242)
  (s.stir g).wakeHandle k n

/-- A handle read as an operand: a pending one moors the thread (R252), a faulted one delivers its fault (R223). -/
def readHandle (n : BitVec 3) : Exec Unit := do
  let t ← getMe
  let s ← get
  let x := t.handle n
  match x.st with
  | .pending => do
    modMe (fun t => { t with watch := some (8 * s.cur + n.toNat) })
    moor 0 n.toNat 0
  | .faulted =>
    if x.counted then pure ()
    else do
      let s' := s.modThr s.cur (fun t => t.setHandle n { x with st := .complete })
      let info : Word := (x.engine.setWidth 64 <<< 16) ||| (n.setWidth 64 <<< 4)
      throw (.ends (s'.takeTrap s.cur x.cause 1 none (some x.eaddr) info))
  | _ => pure ()

end Sys2Proof.Machine
end

