-- ==== Sys2Proof/Machine/Storage.lean ====
section
/-! DEFINITION. Prefetch, invalidation, writeback, banks, TLBs and walkers (R166 to R183). -/
namespace Sys2Proof.Machine

/-- The byte range of a range instruction. -/
def rangeOf (r : Range) : Exec (Addr × Nat) :=
  match r with
  | .all => pure (0, 0)
  | .bytes n m cnt => do
    let t ← getMe
    let c := match cnt with | .nb v => v.toNat | .acc => (t.a.extractLsb' 0 24).toNat
    let x ← specAddr n m c c
    pure (x, c)

/-! ### pf (R178) -/

/-- The virtual addresses of the lines that cover n bytes. -/
def coverLines (x : Addr) (n : Nat) : List Addr :=
  if n = 0 then []
  else (List.range ((x.toNat + n - 1) / 128 + 1 - x.toNat / 128)).map (fun i => BitVec.ofNat 56 ((x.toNat / 128 + i) * 128))

/-- Lines enter the core's prefetch queue of 256; those that find it full are dropped. -/
def State.prefetch (s : State) (c g : Nat) (tgt : CacheTgt) (ls : List Addr) : State :=
  s.modCore c (fun k =>
    { k with prefetch := (k.prefetch ++ ls.map (fun x => (PfLine.mk g x tgt))).take (max 256 k.prefetch.length) })

/-- `pf` (R178). -/
def execPf (h : Hdr) (tgt : CacheTgt) (r : Range) (s : State) : Host.Outcome State Fault Refusal :=
  straight h (do
    let (x, n) ← rangeOf r
    modify (fun s => s.prefetch s.myCore s.myGrp tgt (coverLines x n))) s

/-- A line comes into a level (R178, R163): not one that is update-only in the core. -/
def State.bring (s : State) (c : Nat) (tgt : CacheTgt) (line : Nat) : State :=
  if thas (s.core c).upd line then s
  else
    match tgt with
    | .l1 => (s.nearLoad c (line * 128) 128).2
    | .nc =>
      let ck := clusterOf c
      if !s.hasWay ck || (s.near ck line).valid = BitVec.allOnes 128 then s
      else
        (s.fetchLine c line 0).2
    | .home => s

/-- The prefetch queue of a core takes its next line: looked up in the cluster TLB; on a miss a walk is queued at the
lowest priority and the line is dropped. -/
def execPrefetchLineLookup (core : Nat) (s : State) : Host.Outcome State Fault Refusal :=
  match (s.core core).prefetch with
  | [] => .next s
  | p :: ps =>
    let s := s.modCore core (fun k => { k with prefetch := ps })
    let ck := clusterOf core
    let root := s.rootOf p.group
    if p.va.getLsbD 55 then .next s
    else
      match (s.clus ck).tlb.find? (fun l => l.covers root p.va.toNat) with
      | none => .next (s.takeMiss ck root (p.va.toNat / 2 ^ 16) none none)
      | some l =>
        match s.leafCheck l p.va.toNat (packageOf ck) ⟨true, false⟩ with
        | .error _ => .next s
        | .ok pa => .next (if l.uc && p.tgt != .home then s else s.bring core p.tgt (lineOf pa))

/-! ### inv and wbk (R179, R180) -/

/-- The instruction waits for the thread's own accesses and, at the near cache, for writebacks on their way: no written
byte is lost. -/
def settle (nc : Bool) : Exec Unit := do
  let s ← get
  if s.inFlight s.cur || (nc && s.writebacksOut s.myClus) then waitFor .release else pure ()

/-- The lines that a range instruction acts on. -/
def State.rangeTest (s : State) (r : Range) (x : Addr) (n : Nat) : Nat → Bool :=
  if r == .all then fun _ => true
  else if x.getLsbD 55 then fun _ => false
  else
    let ls := s.rangeLines (s.rootOf s.myGrp) x.toNat n
    inLines ls

/-- The update-only lines of a core that a test accepts are merged. -/
def State.mergeWhere (s : State) (c : Nat) (p : Nat → Bool) : State :=
  (((s.core c).upd.map (·.1)).filter p).foldl (fun s l => s.mergeLine c l) s

/-- The dirty lines of a near cache that a test accepts are written back. -/
def State.writebackWhere (s : State) (ck : Nat) (p : Nat → Bool) : State :=
  (((s.clus ck).near.map (·.1)).filter p).foldl (fun s l => s.writeback ck l) s

/-- `inv` (R179). -/
def execInv (h : Hdr) (tgt : CacheTgt) (r : Range) (s : State) : Host.Outcome State Fault Refusal :=
  straight h (do
    let (x, n) ← rangeOf r
    settle (tgt == .nc)
    let s ← get
    let p := s.rangeTest r x n
    let s := s.mergeWhere s.myCore p
    let s := s.modCore s.myCore (fun k => { k with l1 := k.l1.filter (fun e => !p e.1) })
    if tgt == .nc then
      let s := s.writebackWhere s.myClus p
      set (s.modClus s.myClus (fun c => { c with near := c.near.filter (fun e => !p e.1) }))
    else set s) s

/-- `wbk` (R180). -/
def execWbk (h : Hdr) (tgt : CacheTgt) (r : Range) (s : State) : Host.Outcome State Fault Refusal :=
  straight h (do
    let (x, n) ← rangeOf r
    settle (tgt == .nc)
    let s ← get
    let p := s.rangeTest r x n
    let s := s.mergeWhere s.myCore p
    set (if tgt == .nc then s.writebackWhere s.myClus p else s)) s

/-! ### Banks (R169, R170, R182, R183) -/

/-- The slot of a group that a bank is. -/
def Group.slotOfBank (g : Group) (b : Nat) : Option Nat := g.banks.findIdx? (· == b)

def bankModeOf (m : BitVec 2) : Option BankMode :=
  match m.toNat with
  | 0 => some .nc
  | 1 => some .sp
  | 2 => some .fifo
  | _ => none

/-- The landing word of a ring (R290). -/
def State.ringWord (s : State) (g : Nat) (parm : Word) : Nat := s.ringLoc g parm (ringN parm * ringZ parm)

/-- Whether a bank holds a landing word that an armed request names. -/
def State.bankArmed (s : State) (ck b : Nat) : Bool :=
  (s.clus ck).armed.any (fun a => a.loc / 2 ^ 19 == bankLoc ck b 0 / 2 ^ 19)

/-- A bank enters a mode (R169): a way that is withdrawn writes back the dirty lines of the near cache and drops the
others, and the bank starts from zero; between scratchpad and FIFO the bytes stay; a near-cache way starts empty. The entries of a FIFO
stand in its port, and in its bank as the port left them when it was unlinked (log 73). -/
def State.enterMode (s : State) (ck b : Nat) (m : BankMode) (z : Bool) : State :=
  let old := (s.bank ck b).mode
  let loc := bankLoc ck b 0
  let zero (s : State) : State :=
    { s with
      mem := memClear s.mem loc (2 ^ 19)
      landings := s.landings.filter (fun e => !(decide (loc ≤ e.1) && decide (e.1 < loc + 2 ^ 19))) }
  let s :=
    match old, m with
    | .nc, .nc => s
    | .nc, _ =>
      let s := s.writebackAll ck
      let s := s.setBank ck b { s.bank ck b with mode := m }
      zero (if s.hasWay ck then s else s.modClus ck (fun c => { c with near := [] }))
    | _, .nc => zero s
    | _, _ => s
  let s := if m == .sp && z then zero s else s
  s.setBank ck b { s.bank ck b with mode := m }

def modeBits (m : BankMode) : BitVec 2 :=
  match m with
  | .nc => 0
  | .sp => 1
  | .fifo => 2

/-- The value that `bankq` writes. -/
def State.bankq (s : State) (g j : Nat) : Word :=
  let gr := s.grp g
  let count : Word := BitVec.ofNat 64 (gr.banks.length * 2 ^ 16)
  match gr.banks[j]? with
  | none => count
  | some b =>
    let bk := s.bank gr.cluster b
    let port : BitVec 2 := BitVec.ofNat 2 ((bk.port.map (·.2)).getD 0)
    let low : BitVec 12 :=
      boolBit bk.ring.isSome ++ port ++ boolBit bk.port.isSome ++ boolBit (!bk.queue.isEmpty) ++ modeBits bk.mode ++
        BitVec.ofNat 5 b
    count ||| (boolBit true ++ (0 : BitVec 3) ++ low).setWidth 64

/-- `bankq` (R183). -/
def execBankq (p : Pred) (j : NumArg 5) (s : State) : Host.Outcome State Fault Refusal :=
  straightS p (do
    let s ← get
    let n := match j with | .imm v => v.toNat | .acc => (s.me.a.extractLsb' 0 5).toNat
    setA (s.bankq s.myGrp n)
    let valid := decide (n < (s.grp s.myGrp).banks.length)
    modFlags (fun f => { f with z := !valid, n := false, c := false, v := false })) s

/-! ### TLBs and walkers (R174 to R176, R181) -/

/-- `tlbinv` (R181). -/
def execTlbinv (h : Hdr) (r : Range) (s : State) : Host.Outcome State Fault Refusal :=
  straight h (do
    let (x, n) ← rangeOf r
    let s ← get
    let ck := s.myClus
    let hit (va size : Nat) : Bool :=
      r == .all || (decide (n ≠ 0) && decide (va < x.toNat + n) && decide (x.toNat < va + 2 ^ size))
    let s := s.modClus ck (fun c =>
      { c with
        tlb := c.tlb.filter (fun l => !hit l.va l.size)
        misses := c.misses.map (fun m =>
          if m.started then { m with drops := (if r == .all then (0, 2 ^ 55) else (x.toNat, n)) :: m.drops } else m) })
    set ((List.range 16).foldl (fun s i =>
      s.modCore (ck * 16 + i) (fun k => { k with utlb := k.utlb.filter (fun l => !hit l.va l.size) })) s)) s

/-- Clusters of a die with misses that no walk has taken, those of threads and engines before those of prefetches. -/
def State.waitingMiss (s : State) (ck : Nat) (low : Bool) : Option Miss :=
  (s.clus ck).misses.find? (fun m => !m.started && m.low == low)

/-- The walker of a die takes a queued miss: round-robin over its clusters, oldest first within one (R176). -/
def execWalkStart (package die : Nat) (s : State) : Host.Outcome State Fault Refusal :=
  let p := s.pkg package
  let base := package * 64 + die * 16
  let busy := (p.walks.filter (fun w => w.cluster / 16 == base / 16)).length
  let last := p.walkLast.getD die 15
  let order := (List.range 16).map (fun i => base + (last + 1 + i) % 16)
  let pick (low : Bool) : Option (Nat × Miss) := order.findSome? (fun ck => (s.waitingMiss ck low).map (fun m => (ck, m)))
  if 64 ≤ busy then .next s
  else
    match (pick false).orElse (fun _ => pick true) with
    | none => .next s
    | some (ck, m) =>
      let s := s.modClus ck (fun c =>
        { c with misses := c.misses.map (fun x => if x.root == m.root && x.key == m.key then { x with started := true } else x) })
      .next (s.modPkg package (fun p =>
        { p with
          walks := p.walks ++ [{ cluster := ck, root := m.root, key := m.key }]
          walkLast := (List.range 4).map (fun d => if d = die then ck % 16 else p.walkLast.getD d 15) }))

/-- The threads of a miss issue again with its result; the engine accesses that wait take it (R175). -/
def State.satisfy (s : State) (ck : Nat) (m : Miss) (w : Walked) : State :=
  let s := m.threads.foldl (fun s k =>
    if (s.thr k).wait == .walk then s.modThr k (fun t => { t with walked := some (m.key, w), wait := .ready }) else s) s
  s.modClus ck (fun c =>
    { c with
      misses := c.misses.filter (fun x => !(x.root == m.root && x.key == m.key))
      engWalked := c.engWalked ++ m.eng.map (fun e => (m.root, e, w)) })

/-- A walk ends (R175): its leaf is installed and satisfies every pending entry inside its page whose walk has not
started; a fault goes to every access that waits on it. -/
def execWalkComplete (cluster root key : Nat) (s : State) : Host.Outcome State Fault Refusal :=
  let pk := packageOf cluster
  match (s.clus cluster).misses.find? (fun m => m.root == root && m.key == key && m.started) with
  | none => .next s
  | some m =>
    let w := s.walk root (key * 2 ^ 16)
    let s := s.modPkg pk (fun p =>
      { p with walks := p.walks.filter (fun x => !(x.cluster == cluster && x.root == root && x.key == key)) })
    let s := s.satisfy cluster m w
    match w with
    | .fault _ => .next s
    | .leaf l =>
      let dropped := m.drops.any (fun d => decide (l.va < d.1 + d.2) && decide (d.1 < l.va + 2 ^ l.size))
      let s := if dropped then s else s.modClus cluster (fun c => { c with tlb := tlbInsert c.tlb l })
      let inside := (s.clus cluster).misses.filter (fun x => !x.started && l.covers x.root (x.key * 2 ^ 16))
      .next (inside.foldl (fun s x => s.satisfy cluster x w) s)

end Sys2Proof.Machine
end

