-- ==== Sys2Proof/Machine/Landing.lean ====
section
/-! DEFINITION. Landing words (R267 to R272) and the rotation of rings (R294), which a count can bring about. -/
namespace Sys2Proof.Machine

/-- The fields of a landing word that its home computes with. -/
structure LandWord where
  target : Nat
  arrived : Nat
  gen : W32
  ovf : Bool
  deriving DecidableEq, Repr

def State.landing (s : State) (loc : Nat) : LandWord :=
  { target := leVal (memBytes s.mem loc 4), arrived := leVal (memBytes s.mem (loc + 4) 4),
    gen := BitVec.ofNat 32 (leVal (memBytes s.mem (loc + 8) 4)), ovf := (memGet s.mem (loc + 15)).getLsbD 6 }

/-- The generation g has reached v (R270). -/
def reached (g v : W32) : Bool := decide ((g - v).toNat < 2 ^ 31)

/-- RING and NARM of a word. -/
def State.landInfo (s : State) (loc : Nat) : Bool × Nat := tget s.landings (false, 0) loc

/-- The home keeps RING and NARM of a word, from the first instruction or count that has it as a landing word until its bank is zeroed
(R267, log 77). -/
def State.setLandInfo (s : State) (loc : Nat) (v : Bool × Nat) : State :=
  { s with landings := tset s.landings loc v, mem := stampLanding s.mem loc v }

/-- The word is written; its reserved bits, RING and NARM stay. -/
def State.setLanding (s : State) (loc : Nat) (w : LandWord) : State :=
  let b := memGet s.mem (loc + 15)
  let b := b &&& 0xBF ||| (if w.ovf then 0x40 else 0)
  { s with mem := memWrite (memSet s.mem (loc + 15) b) loc (leBytes w.target 4 ++ leBytes w.arrived 4 ++ leBytes w.gen.toNat 4) }.setLandInfo
    loc (s.landInfo loc)

def State.armMore (s : State) (loc : Nat) : State := s.setLandInfo loc ((s.landInfo loc).1, (s.landInfo loc).2 + 1)
def State.armLess (s : State) (loc : Nat) : State := s.setLandInfo loc ((s.landInfo loc).1, (s.landInfo loc).2 - 1)

/-- The cluster of a bank's location. -/
def locCluster (loc : Nat) : Nat := (loc - bankBase) / 2 ^ 24

/-! ### The transfers of a channel -/

def State.channel (s : State) (ck ch : Nat) : Channel := tget (s.clus ck).channels {} ch
def State.setChannel (s : State) (ck ch : Nat) (v : Channel) : State :=
  s.modClus ck (fun c => { c with channels := tset c.channels ch v })

/-- Transfers that have completed leave the front of the channel; the watermark passes them (R259). -/
def dropFinished : List Xfer → List Xfer
  | [] => []
  | x :: xs => if x.finished then dropFinished xs else x :: xs

/-- The transfer of an identifier on a channel. -/
def State.xferAt (s : State) (ck ch id : Nat) : Option Xfer := (s.channel ck ch).xfers.find? (fun x => x.id = id)

def State.setXfer (s : State) (ck ch : Nat) (x : Xfer) : State :=
  let c := s.channel ck ch
  s.setChannel ck ch { c with xfers := dropFinished (c.xfers.map (fun y => if y.id = x.id then x else y)) }

/-! ### Rings (R294) -/

/-- Whether ring r of a cluster can rotate. -/
def State.canRotate (s : State) (g : Nat) (r : Ring) : Bool :=
  let w := s.landing (s.ringWord g r.parm)
  decide (ringP r.parm ≤ r.c) && (w.target == 0 || reached w.gen (r.s + 1))

/-- Rotations, as many as the arrivals and the landing word allow. -/
def State.rotations (s : State) (g : Nat) (r : Ring) : Nat → Ring
  | 0 => r
  | n + 1 => if s.canRotate g r then s.rotations g { r with s := r.s + 1, c := r.c - ringP r.parm } n else r

/-- Who waits with a write beyond d: a moored thread, or a beat of a copy (R292). -/
inductive Held where
  | thread (key : Nat)
  | beat (chan xfer beat : Nat)
  deriving DecidableEq, Repr

/-- The writes beyond d of a group that the stage of its ring j has come to, in the order in which they moored or were held (R292). -/
def State.heldWrites (s : State) (g j : Nat) : List Held :=
  let ts : List (Nat × Held) := s.threads.filterMap (fun e =>
    match e.2.wait with
    | .moored kd o v _ i => if kd == 7 && o == j && e.2.group == some g && s.viewDue g j v then some (i, .thread e.1) else none
    | _ => none)
  let bs : List (Nat × Held) := (s.clus (s.grp g).cluster).channels.flatMap (fun c => c.2.xfers.flatMap (fun x =>
    if x.req.group == g && !x.finished && x.cause.isNone && !x.cancelled then
      x.beats.zipIdx.filterMap (fun b =>
        match b.1.st, b.1.ring with
        | .ahead, some (i, j', v) => if j' == j && s.viewDue g j v then some (i, .beat c.1 x.id b.2) else none
        | _, _ => none)
    else []))
  (sortBy (fun x y => decide (x.1 ≤ y.1)) (ts ++ bs)).map (·.2)

/-- The writes of a moored thread are performed; its instruction goes on after them. -/
def State.performMoored (s : State) (k : Nat) : State :=
  ((s.thr k).pending.foldl (fun s m =>
    let (bs, s) := s.performNow (coreOf k) m
    s.modThr k (fun t => { t with got := t.got ++ [some bs], wrote := true })) s).modThr k (fun t =>
      { t with pending := [], kept := none, wait := .ready })

/-- The bytes of a held beat are written at their homes. -/
def State.performBeat (s : State) (ck ch id beat : Nat) : State :=
  match s.xferAt ck ch id with
  | none => s
  | some x =>
    match x.beats[beat]? with
    | none => s
    | some b =>
      let s := (b.put.foldl (fun s o => (s.homeServe o.1 0 o.2).2) s).stir x.req.group
      s.setXfer ck ch
        { x with
          exc := x.exc ||| b.exc
          beats := x.beats.set beat { b with st := .moved, held := none, ring := none, put := [], exc := 0 } }

/-- Ring r of a cluster is tested. Where its stage moves, the writes that it has come to are performed (R292), and the threads whose
awaited stage has come are released (R298); nothing of a group that is being saved (R305). -/
def State.rotate (s : State) (ck r : Nat) : State :=
  match s.ring ck r with
  | (some g, some v) =>
    let v' := s.rotations g v (v.c + 1)
    if v' = v then s
    else
      let s := s.setRing ck r (some g, some v')
      let j := (s.grp g).rings.findIdx (· == r)
      if (s.grp g).st != .placed then s
      else
        let s := (s.heldWrites g j).foldl (fun s w =>
          match w with
          | .thread k => s.performMoored k
          | .beat ch id n => s.performBeat ck ch id n) s
        s.wakeAll (s.mooredOn (fun k kd o x => kd == 6 && o == j && (s.thr k).group == some g && reached v'.s x))
  | _ => s

/-- The ring whose landing word stands at a location. -/
def State.ringAt (s : State) (loc : Nat) : Option Nat :=
  let ck := locCluster loc
  ((s.clus ck).rings.find? (fun e =>
    match e.2 with
    | (some g, some v) => s.ringWord g v.parm == loc
    | _ => false)).map (·.1)

/-! ### After a step of the word (R268, R269, R272) -/

/-- An armed request fires. -/
def State.fire (s : State) (ck : Nat) (a : Armed) : State :=
  (s.modClus ck (fun c => { c with armed := c.armed.filter (· != a), fired := c.fired ++ [a.req] })).armLess a.loc

/-- Rotation, then the release of the threads moored on the word, then the armed requests in arming order. -/
def State.afterLanding (s : State) (loc : Nat) : State :=
  let ck := locCluster loc
  let s := match s.ringAt loc with | some r => s.rotate ck r | none => s
  let g := (s.landing loc).gen
  let ts := s.mooredOn (fun k kd _ v => kd == 3 && (s.thr k).watch == some loc && reached g v)
  let s := s.wakeAll ts
  ((s.clus ck).armed.filter (fun a => a.loc == loc && reached g a.gen)).foldl (fun s a => s.fire ck a) s

/-- A count of n bytes (R268). -/
def State.count (s : State) (loc n : Nat) : State :=
  let w := s.landing loc
  let x := w.arrived + n
  let w :=
    if w.target = 0 then { w with arrived := x % 2 ^ 32, ovf := w.ovf || decide (2 ^ 32 ≤ x) }
    else { w with gen := w.gen + BitVec.ofNat 32 (x / w.target), arrived := x % w.target }
  (s.setLanding loc w).afterLanding loc

/-- The location of a landing word of a group, by its scratchpad offset; `none` where no scratchpad bank holds it. -/
def State.landLoc (s : State) (g so : Nat) : Option Nat :=
  match s.engScratch g so with
  | .at loc => some loc
  | _ => none

/-- The scratchpad offset of a ring's landing word. -/
def ringWordOff (parm : Word) : Nat := ringSlot parm * 2 ^ 19 + ringN parm * ringZ parm

end Sys2Proof.Machine
end

