-- ==== Sys2Proof/Machine/Ferry.lean ====
section
/-! DEFINITION. Ferry requests, transfers and landing instructions (R253 to R278). -/
namespace Sys2Proof.Machine

/-! ### Issue (R254, R271) -/

/-- The request words at an operand: four plain loads (R254). -/
def readRequest (o : Opnd) : Exec (Word × Word × Word × Word) :=
  match o with
  | .mem n m => do
    let x ← specAddr n m 32 32
    checkAlign x 8 0x0C0 opB
    let w0 ← loadBytes x 8 opB
    let w1 ← loadBytes (x + 8) 8 opB
    let w2 ← loadBytes (x + 16) 8 opB
    let w3 ← loadBytes (x + 24) 8 opB
    pure (leWord w0, leWord w1, leWord w2, leWord w3)
  | _ => pure (0, 0, 0, 0)

/-- A follow-on address is 64-byte aligned. -/
def checkFollow (fo : Word) : Exec Unit := if fo.toNat % 64 = 0 then pure () else fault 0x0C0 (some fo) 0

/-- A request of the executing thread, with a new operation in its handle. -/
def newRequest (hn : BitVec 3) (w : Word × Word × Word × Word) (fo : Word) : Exec Req := do
  newHandle hn (fun x => { x with engine := engFerry, chan := w.1.extractLsb' 28 4 })
  let s ← get
  pure { w0 := w.1, w1 := w.2.1, w2 := w.2.2.1, w3 := w.2.2.2, fo := fo, thread := s.cur, h := hn.toNat,
         seq := (s.me.handle hn).seq, group := s.myGrp }

/-- Whether the core's request FIFO is full (R250). -/
def fifoFull : Exec Bool := do
  let s ← get
  pure (decide (16 ≤ (s.core s.myCore).fifo.length))

def pushRequest (r : Req) : Exec Unit :=
  modify (fun s => s.modCore s.myCore (fun c => { c with fifo := c.fifo ++ [r] }))

/-- `fcopy` (R254). -/
def execFcopy (h : Hdr) (hn : BitVec 3) (req : Opnd) (follow : Word) (s : State) : Host.Outcome State Fault Refusal :=
  straight h (do
    let w ← readRequest req
    checkFollow follow
    releaseSteps .pk
    if ← fifoFull then waitFor .fifo
    else do
      let r ← newRequest hn w follow
      pushRequest r) s

/-- `fcopy.try` (R254). -/
def execFcopyTry (h : Hdr) (hn : BitVec 3) (req : Opnd) (follow : Word) (s : State) :
    Host.Outcome State Fault Refusal :=
  straight h (do
    let w ← readRequest req
    checkFollow follow
    releaseSteps .pk
    if ← fifoFull then do
      newHandle hn (fun x => { x with st := .cancelled, cause := 0x2C4, engine := engFerry, chan := w.1.extractLsb' 28 4 })
      setA 1
      modFlags (fun f => { f with p := false })
    else do
      let r ← newRequest hn w follow
      pushRequest r
      setA 0
      modFlags (fun f => { f with p := true })) s

/-- The landing word that a trigger names (R271). -/
def triggerWord (trig : BitVec 34) : Exec Nat := do
  let s ← get
  let g := s.myGrp
  if trig.getLsbD 27 then
    match s.ringOf g (trig.extractLsb' 24 3).toNat with
    | none => faultOp 0x0E1
    | some (_, r) => pure (s.ringWord g r.parm)
  else
    let so := (trig.extractLsb' 0 24).toNat
    match (s.grp g).banks[so / 2 ^ 19]? with
    | none => faultOp 0x0E1
    | some b =>
      let bk := s.bank s.myClus b
      if !bk.queue.isEmpty then waitFor .bank
      else if bk.mode ≠ .sp then faultOp 0x0E1
      else if so % 16 ≠ 0 then faultOp 0x0C0
      else pure (bankLoc s.myClus b (so % 2 ^ 19))

/-- `fcopy.on` (R271, R272). -/
def execFcopyOn (h : Hdr) (hn : BitVec 3) (req : Opnd) (trig : BitVec 34) (follow : Word) (s : State) :
    Host.Outcome State Fault Refusal :=
  straight h (do
    let w ← readRequest req
    checkFollow follow
    let loc ← triggerWord trig
    let s ← get
    if 64 ≤ (s.clus s.myClus).armed.length + ((s.clus s.myClus).fired).length then faultOp 0x2C1
    else do
      releaseSteps .pk
      let r ← newRequest hn w follow
      let s ← get
      let v : W32 := s.me.a.setWidth 32
      let a : Armed := { req := r, loc := loc, gen := v }
      let s := (s.modClus s.myClus (fun c => { c with armed := c.armed ++ [a] })).armMore loc
      set (if reached (s.landing loc).gen v then s.fire s.myClus a else s)) s

/-! ### The check of a request (R255 to R258, R262 to R264) -/

/-- A shape record (R263). -/
structure Shape where
  base : Word
  ety : Nat
  dims : List (Nat × Word)
  key : Word
  wcnt : Word
  deriving DecidableEq, Repr

def byteAt (bs : List Byte) (i : Nat) : Byte := bs.getD i 0
def wordAt (bs : List Byte) (i : Nat) : Word := leWord ((bs.drop i).take 8)
def halfAt (bs : List Byte) (i : Nat) : Nat := leVal ((bs.drop i).take 4)

/-- The record of 256 bytes; none where R263 refuses it. -/
def parseShape (bs : List Byte) : Option Shape :=
  let nd := (byteAt bs 8).toNat
  let et := (byteAt bs 9).toNat
  if nd = 0 || 12 < nd || 0xD < et || !((bs.drop 10).take 6).all (· == 0) || !((bs.drop 176).take 80).all (· == 0) then none
  else some { base := wordAt bs 0, ety := et, key := wordAt bs 160, wcnt := wordAt bs 168,
              dims := (List.range nd).map (fun d => (halfAt bs (16 + 4 * d), wordAt bs (64 + 8 * d))) }

/-- The elements of a record. -/
def dimsCount (ds : List (Nat × Word)) : Nat := ds.foldl (fun n d => n * d.1) 1

/-- Bytes of an element type code 0x0 to 0xD. -/
def codeBytes (t : Nat) : Nat :=
  match t with
  | 0x0 | 0x4 | 0xC | 0xD => 1
  | 0x1 | 0x5 | 0xA | 0xB => 2
  | 0x2 | 0x6 | 0x9 => 4
  | _ => 8

/-- The floating-point types of a conversion (R262). -/
def convTy (c : BitVec 4) : Option Ty :=
  match c.toNat with
  | 0x9 => some .f32
  | 0xA => some .f16
  | 0xB => some .bf16
  | 0xC => some .f8e4
  | 0xD => some .f8e5
  | 0xE => some .f4
  | _ => none

/-- The triples of R262. -/
def tripleOk (sf lf df : BitVec 4) : Bool :=
  decide (9 ≤ sf.toNat ∧ sf.toNat ≤ 0xB) &&
    (match lf.toNat with
      | 0xA => df == 9 || df == 0xA
      | 0xB => df == 9 || df == 0xB
      | 0xC | 0xD | 0xE => decide (9 ≤ df.toNat ∧ df.toNat ≤ 0xB)
      | _ => false)

def Req.sfmt (r : Req) : BitVec 4 := r.w0.extractLsb' 24 4
def Req.lfmt (r : Req) : BitVec 4 := r.w0.extractLsb' 20 4
def Req.dfmt (r : Req) : BitVec 4 := r.w0.extractLsb' 16 4
def Req.len (r : Req) : Nat := (r.w0.extractLsb' 32 32).toNat
def Req.chanNo (r : Req) : Nat := (r.w0.extractLsb' 28 4).toNat
def Req.srem (r : Req) : Bool := r.w0.getLsbD 9
def Req.drem (r : Req) : Bool := r.w0.getLsbD 8
def Req.srBit (r : Req) : Bool := r.w0.getLsbD 7
def Req.convBit (r : Req) : Bool := r.w0.getLsbD 6
def Req.ssh (r : Req) : Bool := r.w0.getLsbD 5
def Req.dsh (r : Req) : Bool := r.w0.getLsbD 4
/-- Bytes of a source element. -/
def Req.srcBytes (r : Req) : Nat := if r.convBit then codeBytes r.sfmt.toNat else 1

/-- The operation that a request is. -/
def Req.op (r : Req) : OpId := (r.thread, r.h, r.seq)

/-- A reserved bit of a word in remote form (R256). -/
def remoteReserved (w : Word) : Bool := w.getLsbD 51 && (w.extractLsb' 48 3 ≠ 0 || w.extractLsb' 32 10 ≠ 0)

/-- What R258 refuses with 0x2C0, but for the destination's package. -/
def Req.malformed (r : Req) : Bool :=
  r.w0.extractLsb' 10 6 ≠ 0 || r.w0.extractLsb' 0 4 ≠ 0 || r.w3.extractLsb' 52 12 ≠ 0 || r.w3.extractLsb' 29 9 ≠ 0 ||
    r.w3.extractLsb' 1 3 ≠ 0 || (!r.w3.getLsbD 0 && r.w3 ≠ 0) || (r.w3.getLsbD 28 && r.w3.extractLsb' 38 14 ≠ 0) ||
    (r.w3.getLsbD 27 && r.w3.extractLsb' 4 20 ≠ 0) || (r.convBit && !tripleOk r.sfmt r.lfmt r.dfmt) ||
    (!r.convBit && (r.sfmt ≠ 0 || r.lfmt ≠ 0 || r.dfmt ≠ 0 || r.srBit)) || (r.srBit && !r.dsh) ||
    ((r.ssh || r.dsh) && decide (r.len ≠ 0)) || decide (r.len % r.srcBytes ≠ 0) || (r.drem && decide (r.fo ≠ 0)) ||
    (r.w3.getLsbD 28 && r.drem) || (r.srem && !r.ssh && remoteReserved r.w1) || (r.drem && !r.dsh && remoteReserved r.w2)

/-- A record through the cluster's cache of 32, by partition and address (R265): its bytes, a fault, or it waits. -/
inductive RecGot where
  | bytes (bs : List Byte)
  | fault (c : BitVec 10) (x : Word)
  | wait
  deriving DecidableEq, Repr

def State.shapeRecord (s : State) (g : Nat) (x : Word) (op : OpId) : RecGot × State :=
  let ck := (s.grp g).cluster
  let root := (s.grid (s.grp g).grid).part
  let va := x.toNat % 2 ^ 56
  if va % 256 ≠ 0 then (.fault 0x2C2 x, s)
  else
    match (s.clus ck).shapes.find? (fun e => e.1 == root && e.2.1 == va) with
    | some e => (.bytes e.2.2, s.modClus ck (fun c => { c with shapes := c.shapes.filter (· != e) ++ [e] }))
    | none =>
      match s.engAddr g (x.setWidth 56) 256 ⟨true, false⟩ none (some op) with
      | (.at loc, s) =>
        match s.readError loc 256 with
        | some c => (.fault c x, s.noteBad loc c)
        | none =>
          let (bs, s) := s.homePerform loc 0 (.read 256)
          (.bytes bs, s.modClus ck (fun c =>
            { c with shapes := (if 32 ≤ c.shapes.length then c.shapes.tail else c.shapes) ++ [(root, va, bs)] }))
      | (.fault c, s) => (.fault c x, s)
      | (_, s) => (.wait, s)

/-- A side: shaped, or contiguous with n elements of a size. Its views resolve against the stages that the group's rings have now
(R291). -/
def State.sideOf (s : State) (g : Nat) (remote : Bool) (rec : Option Shape) (word : Word) (n sz : Nat) : Side :=
  match rec with
  | some r => { base := r.base, remote := remote, dims := r.dims, esize := sz, views := s.stagesOf g }
  | none => { base := word, remote := remote, dims := [(n, BitVec.ofNat 64 sz)], esize := sz, views := s.stagesOf g }

/-- The element sizes and the number of elements of a copy, or 0x2C2 (R264). -/
def pairing (r : Req) (src dst : Option Shape) : Option (Nat × Nat × Nat) :=
  let n := match src, dst with
    | some a, some b => if dimsCount a.dims = dimsCount b.dims then some (dimsCount a.dims) else none
    | some a, none => some (dimsCount a.dims)
    | none, some b => some (dimsCount b.dims)
    | none, none => some (r.len / r.srcBytes)
  match n with
  | none => none
  | some n =>
    if r.convBit then
      let ok := (match src with | some a => a.ety == r.sfmt.toNat | none => true) &&
        (match dst with | some b => b.ety == r.dfmt.toNat | none => true)
      if ok && decide (n * codeBytes r.dfmt.toNat < 2 ^ 32) then some (n, codeBytes r.sfmt.toNat, codeBytes r.dfmt.toNat)
      else none
    else
      let sz := match src, dst with
        | some a, some b => if codeBytes a.ety = codeBytes b.ety then some (codeBytes a.ety) else none
        | some a, none => some (codeBytes a.ety)
        | none, some b => some (codeBytes b.ety)
        | none, none => some 1
      match sz with
      | some z => if n * z < 2 ^ 32 then some (n, z, z) else none
      | none => none

/-- Element i of a side (R264): its address. The sum is one of 64 bits, of which a local address uses the low 56; of a remote form it may
carry past VA, which R264 does not speak of: a carry into LOC moves the element to a scratchpad, one into PKG raises 0x102 where the
element is global (log 88, DESIGN CHOICE). -/
def Side.elemAt (x : Side) (i : Nat) : Word :=
  (x.dims.foldl (fun (acc : Word × Nat) d => (acc.1 + BitVec.ofNat 64 (acc.2 % d.1) * d.2, acc.2 / d.1)) (x.base, i)).1

/-- Beats: consecutive elements within one 32-byte block of the destination, at most 32 bytes (R260). -/
def makeBeats (dst : Side) : Nat → Nat → List Beat → List Beat
  | 0, _, acc => acc.reverse
  | n + 1, i, acc =>
    let blk (k : Nat) : Nat := (dst.elemAt k).toNat % 2 ^ 56 / 32
    match acc with
    | b :: bs =>
      if blk i = blk b.start && (b.n + 1) * dst.esize ≤ 32 then makeBeats dst n (i + 1) ({ b with n := b.n + 1 } :: bs)
      else makeBeats dst n (i + 1) ({ start := i, n := 1 } :: acc)
    | [] => makeBeats dst n (i + 1) [{ start := i, n := 1 }]

/-- The package of a destination: PKG of the remote form, or the one that its base translates to. -/
def State.destPackage (s : State) (g : Nat) (d : Side) (op : OpId) : Option Nat × State :=
  if d.remote then (some (d.base.extractLsb' 52 12).toNat, s)
  else
    let here := packageOf (s.grp g).cluster
    match s.engAddr g (d.base.setWidth 56) 1 ⟨false, false⟩ none (some op) with
    | (.at loc, s) => (some (if isBank loc then packageOf (locCluster loc) else paPkg loc), s)
    | (.walk, s) => (none, s)
    | (_, s) => (some here, s)

/-- The landing word of a reference (R257), as group and scratchpad offset; 0x2C3 where it names none. -/
def State.landingRef (s : State) (g pkg : Nat) (w3 : Word) : Except (BitVec 10) (Option (Nat × Nat)) :=
  if !w3.getLsbD 0 then .ok none
  else
    let grid := (s.grp g).grid
    let who :=
      if w3.getLsbD 28 then some g
      else s.groupAt (pkg * 64 + (w3.extractLsb' 46 6).toNat) (w3.extractLsb' 38 8).toNat grid
    match who with
    | none => .error 0x2C3
    | some t =>
      if w3.getLsbD 27 then
        match s.ringOf t (w3.extractLsb' 24 3).toNat with
        | none => .error 0x2C3
        | some (_, r) => .ok (some (t, ringWordOff r.parm))
      else
        let so := (w3.extractLsb' 19 5).toNat * 2 ^ 19 + (w3.extractLsb' 4 15).toNat * 16
        match s.engScratch t so with
        | .at _ | .bank => .ok (some (t, so))
        | _ => .error 0x2C3

/-- A request checked as its channel takes it: a transfer, a cause with its address, or it waits for a walk. -/
inductive Checked where
  | ok (x : Xfer)
  | bad (c : BitVec 10) (x : Option Word)
  | wait
  deriving DecidableEq, Repr

/-- The records of both sides. -/
def State.bothRecords (s : State) (r : Req) : Except (BitVec 10 × Word) (Option (Option Shape × Option Shape)) × State :=
  let one (s : State) (on : Bool) (w : Word) : Except (BitVec 10 × Word) (Option (Option Shape)) × State :=
    if !on then (.ok (some none), s)
    else
      match s.shapeRecord r.group w r.op with
      | (.bytes bs, s) =>
        (match parseShape bs with | some v => .ok (some (some v)) | none => .error (0x2C2, w), s)
      | (.fault c x, s) => (.error (c, x), s)
      | (.wait, s) => (.ok none, s)
  match one s r.ssh r.w1 with
  | (.error e, s) => (.error e, s)
  | (.ok none, s) => (.ok none, s)
  | (.ok (some a), s) =>
    match one s r.dsh r.w2 with
    | (.error e, s) => (.error e, s)
    | (.ok none, s) => (.ok none, s)
    | (.ok (some b), s) => (.ok (some (a, b)), s)

/-- The checks of R258. The rule does not order them: here the request's bits come first, then the shape records, then SELF with a local
destination on another package, then the landing reference (log 88, DESIGN CHOICE). -/
def State.checkReq (s : State) (r : Req) : Checked × State :=
  if r.malformed then (.bad 0x2C0 none, s)
  else
    match s.bothRecords r with
    | (.error (c, x), s) => (.bad c (some x), s)
    | (.ok none, s) => (.wait, s)
    | (.ok (some (a, b)), s) =>
      match pairing r a b with
      | none => (.bad 0x2C2 (some (if r.ssh then r.w1 else r.w2)), s)
      | some (n, sz, dz) =>
        let src := s.sideOf r.group r.srem a r.w1 n sz
        let dst := s.sideOf r.group r.drem b r.w2 n dz
        match s.destPackage r.group dst r.op with
        | (none, s) => (.wait, s)
        | (some pkg, s) =>
          if r.w3.getLsbD 28 && pkg != packageOf (s.grp r.group).cluster then (.bad 0x2C0 none, s)
          else
            match s.landingRef r.group pkg r.w3 with
            | .error c => (.bad c none, s)
            | .ok land =>
              let conv := match convTy r.sfmt, convTy r.lfmt, convTy r.dfmt with
                | some u, some v, some w => if r.convBit then some (u, v, w) else none
                | _, _, _ => none
              let sr := match b with | some d => if r.srBit then some (d.key, d.wcnt) else none | none => none
              (.ok { id := 0, req := r, src := src, dst := dst, conv := conv, sr := sr, land := land,
                     beats := makeBeats dst n 0 [] }, s)

/-! ### Transfers (R258 to R262) -/

/-- The watermark of a channel (R259). -/
def Channel.mark (c : Channel) : Nat :=
  match dropFinished c.xfers with
  | x :: _ => x.id
  | [] => c.next

/-- Whether a channel has room for a transfer. -/
def Channel.room (c : Channel) : Bool := decide ((c.xfers.filter (fun x => !x.finished)).length < 8)


/-- A transfer ends: its exceptions go to the group, its handle completes (R260). -/
def State.endXfer (s : State) (ck ch : Nat) (x : Xfer) : State :=
  let s := s.setXfer ck ch { x with finished := true }
  let s := s.modGrp x.req.group (fun g => { g with fstat := g.fstat ||| x.exc })
  let d : Done :=
    match x.cause with
    | some c => .faulted c x.eaddr
    | none => if x.cancelled then .cancelled 0x2C5 else .complete
  s.finish x.req.group x.req.thread x.req.h x.req.seq d

/-- Whether a transfer has moved its last beat: all are counted, or it has stopped and none is under way; one that is held for a
rotation is not. -/
def Xfer.settledBeats (x : Xfer) : Bool :=
  if x.cause.isSome || x.cancelled then x.beats.all (fun b => b.st == .waiting || b.st == .ahead || b.st == .counted)
  else x.beats.all (fun b => b.st == .counted)

/-- A transfer is recorded, and it ends when its last beat has been counted and no follow-on command is due. -/
def State.noteXfer (s : State) (ck ch : Nat) (x : Xfer) : State :=
  if x.settledBeats && (x.req.fo = 0 || x.cause.isSome || x.cancelled || x.followed) then s.endXfer ck ch x
  else s.setXfer ck ch x

/-- Threads of a core that wait for the engine to take the requests before theirs (R266): one of them is gone. -/
def State.fifoTaken (s : State) (c pos : Nat) : State :=
  { s with
    threads := s.threads.map (fun e =>
      match e.2.sent with
      | some (some n) =>
        if coreOf e.1 == c && e.2.wait == .fifo && decide (pos < n.toNat) then (e.1, { e.2 with sent := some (some (n - 1)) }) else e
      | _ => e) }

/-- The request at a place of a core's FIFO is gone. -/
def State.fifoErase (s : State) (c pos : Nat) : State :=
  (s.modCore c (fun k => { k with fifo := k.fifo.eraseIdx pos })).fifoTaken c pos

/-- The requests of a core's FIFO that a test accepts are gone. -/
def State.fifoDrop (s : State) (c : Nat) (p : Req → Bool) : State :=
  (((s.core c).fifo.zipIdx.filter (fun e => p e.1)).map (·.2)).reverse.foldl (fun s i => s.fifoErase c i) s

/-- The request that the engine takes next (R258), and where it stands: among the fired, or at the head of a core. -/
def State.nextRequest (s : State) (ck : Nat) : Option (Req × Option Nat) :=
  let c := s.clus ck
  let room (r : Req) : Bool := (s.channel ck r.chanNo).room
  match c.fired.find? room with
  | some r => some (r, none)
  | none =>
    ((List.range 16).map (fun i => (c.ferryLast + 1 + i) % 16)).findSome? (fun i =>
      match (s.core (ck * 16 + i)).fifo with
      | r :: _ => if room r then some (r, some i) else none
      | [] => none)

/-- The request leaves its place. -/
def State.takeOut (s : State) (ck : Nat) (r : Req) (core : Option Nat) : State :=
  match core with
  | none => s.modClus ck (fun c => { c with fired := c.fired.filter (· != r) })
  | some i =>
    let s := s.modClus ck (fun c => { c with ferryLast := i })
    s.fifoErase (ck * 16 + i) 0

/-- The engine takes a request, numbers it and checks it (R258). It waits while an address of the check is walked. -/
def execFerryTakeRequest (cluster : Nat) (s : State) : Host.Outcome State Fault Refusal :=
  match s.nextRequest cluster with
  | none => .next s
  | some (r, core) =>
    match s.checkReq r with
    | (.wait, s) => .next s
    | (res, s) =>
      let s := s.takeOut cluster r core
      let ch := s.channel cluster r.chanNo
      let id := ch.next
      let s := s.setChannel cluster r.chanNo { ch with next := (id + 1) % 2 ^ 48 }
      let i : BitVec 3 := BitVec.ofNat 3 r.h
      let x := (s.thr r.thread).handle i
      let s :=
        if x.seq = r.seq && x.st == .pending then
          s.modThr r.thread (fun t => t.setHandle i { x with chan := BitVec.ofNat 4 r.chanNo, tid := BitVec.ofNat 48 id })
        else s
      let v : Xfer :=
        match res with
        | .ok v => { v with id := id }
        | .bad c x => { id := id, req := r, cause := some c, eaddr := x }
        | .wait => { id := id, req := r }
      let ch := s.channel cluster r.chanNo
      .next ((s.setChannel cluster r.chanNo { ch with xfers := ch.xfers ++ [v] }).noteXfer cluster r.chanNo v)

/-- The ring and the resolved stage of a write to a side's ring view that lies beyond the ring's producer distance (R292). -/
def State.viewAhead (s : State) (g : Nat) (d : Side) (x : Word) : Option (Nat × W32) :=
  if d.remote || x.extractLsb' 52 4 != 9 then none
  else
    (stageFor d.views x).bind (fun b =>
      let j := (x.extractLsb' 45 3).toNat
      let v := b + BitVec.ofNat 32 (x.extractLsb' 41 4).toNat
      if s.viewDue g j v then none else some (j, v))

/-- As `viewAhead`, of a beat: its elements lie in one block, and so in one view (R260). -/
def State.beatAhead (s : State) (x : Xfer) (b : Beat) : Option (Nat × W32) :=
  s.viewAhead x.req.group x.dst (x.dst.elemAt b.start)

/-- Where element i of a side stands, for an operation of a group. -/
def State.elemLoc (s : State) (g : Nat) (d : Side) (i : Nat) (nd : Need) (op : OpId) : EngAt × State :=
  let x := d.elemAt i
  if d.remote then
    if x.toNat % d.esize ≠ 0 then (.fault 0x0C0, s)
    else if x.getLsbD 51 = false && x.extractLsb' 52 12 ≠ d.base.extractLsb' 52 12 then (.fault 0x102, s)
    else (s.remoteAddr g x nd (some op), s)
  else if x.toNat % d.esize ≠ 0 then (.fault 0x0C0, s)
  else s.engTaken g d.views x d.esize nd (some op)

/-- The locations of the elements of a beat; or why it does not move. -/
def State.elemLocs (s : State) (g : Nat) (d : Side) (nd : Need) (op : OpId) : Nat → Nat → Except (EngAt × Word) (List Nat) × State
  | 0, _ => (.ok [], s)
  | n + 1, i =>
    match s.elemLoc g d i nd op with
    | (.at loc, s) =>
      match s.elemLocs g d nd op n (i + 1) with
      | (.ok ls, s) => (.ok (loc :: ls), s)
      | (.error e, s) => (.error e, s)
    | (e, s) => (.error (e, d.elemAt i), s)

/-- The group of a saved destination, by the placement that an address names (R278). -/
def State.savedAt (s : State) (ck gtag grid : Nat) : Option Nat :=
  (s.groups.find? (fun e => e.2.grid == grid &&
    (match e.2.save with | some v => v.cluster == ck && v.gtag == gtag | none => false))).map (·.1)

/-- The saved group that an address of a transfer's destination names. -/
def State.destGroup (s : State) (g : Nat) (d : Side) (x : Word) : Option Nat :=
  let p := if d.remote then (x.extractLsb' 52 12).toNat else packageOf (s.grp g).cluster
  s.savedAt (p * 64 + (x.extractLsb' 42 6).toNat) (x.extractLsb' 24 8).toNat (s.grp g).grid

/-- A source element converted (R262), with its exceptions. -/
def convElem (x : Xfer) (i v : Nat) : Nat × BitVec 5 :=
  match x.conv with
  | none => (v, 0)
  | some (st, lt, dt) =>
    let md : Mode := match x.sr with | some (key, w) => .srOf key (BitVec.ofNat 64 i) w | none => .rne
    let (l, e, _) := convert lt st md v
    let (d, _, _) := convert dt lt .rne l
    (d, e)

/-- The elements of a beat move, one after the other: read at their homes, converted, written at their homes. -/
def State.moveElems (s : State) (x : Xfer) : Nat → List (Nat × Nat) → Except (BitVec 10) (List (Nat × Nat)) × BitVec 5 × State
  | _, [] => (.ok [], 0, s)
  | i, (a, d) :: ls =>
    match s.readError a x.src.esize with
    | some c => (.error c, 0, s.noteBad a c)
    | none =>
      let (bs, s) := s.homePerform a 0 (.read x.src.esize)
      let (v, e) := convElem x i (leVal bs)
      match s.moveElems x (i + 1) ls with
      | (.ok ws, e', s) => (.ok ((d, v) :: ws), e ||| e', s)
      | (.error c, e', s) => (.error c, e', s)

/-- The transfer stops with a cause; no further beat moves. One that has stopped on an earlier cause keeps that, and one that has been
cancelled stays so (R276). -/
def State.failXfer (s : State) (ck ch : Nat) (x : Xfer) (c : BitVec 10) (a : Option Word) : State :=
  s.noteXfer ck ch (if x.cause.isSome || x.cancelled then x else { x with cause := some c, eaddr := a })

/-- A beat's transfer stops with a cause; the beat itself is over. -/
def State.failBeat (s : State) (ck ch beat : Nat) (x : Xfer) (c : BitVec 10) (a : Option Word) : State :=
  s.failXfer ck ch { x with beats := x.beats.modify beat (fun b => { b with st := .counted }) } c a

/-- The destination locations of a beat: those of the restored group where the beat was held for one; 0x104 where that group is gone
(R278). -/
def State.beatDest (s : State) (x : Xfer) (b : Beat) : Except (EngAt × Word) (List Nat) × State :=
  match b.dest with
  | some g =>
    let a := x.dst.elemAt b.start
    if !thas s.groups g || (s.grp g).st == .gone then (.error (.fault 0x104, a), s)
    else if (s.grp g).present then
      (((List.range b.n).map (fun j => b.start + j)).foldr (fun i acc =>
        match acc, s.engScratchFor g ((x.dst.elemAt i).extractLsb' 0 24).toNat (some x.req.op) with
        | .ok ls, .at l => .ok (l :: ls)
        | .error e, _ => .error e
        | _, e => .error (e, x.dst.elemAt i)) (.ok []), s)
    else (.error (.saved, a), s)
  | none => s.elemLocs x.req.group x.dst ⟨false, true⟩ x.req.op b.n b.start

/-- A beat is held for the saved group that an address of its destination names (R278). -/
def State.holdBeat (s : State) (ck ch beat : Nat) (x : Xfer) (b : Beat) (a : Word) : State :=
  let b := { b with held := some (b.held.getD s.now), dest := b.dest.orElse (fun _ => s.destGroup x.req.group x.dst a) }
  s.setXfer ck ch { x with beats := x.beats.set beat b }

/-- Messages of a beat leave the engine (R189): one for each of its elements, named by its place in the beat. -/
def State.produce (s : State) (ck ch beat : Nat) (x : Xfer) (ops : List ((Nat × HomeOp) × Nat)) : State :=
  let ms : List Msg := ops.map (fun e =>
    { beat := some ⟨ck, ch, x.id, beat, e.2⟩, loc := e.1.1, op := e.1.2, owner := s.ownerOf e.1.1, cycle := s.now })
  s.modClus ck (fun c => { c with outbox := c.outbox ++ ms })

/-- The bytes of a beat are written at their homes (R260), at once or by messages. With a view beyond d the beat is held with them, until
the rotation that performs them (R292); of a group that is being saved no rotation will, and the copy is cancelled (R305). -/
def State.storeBeat (s : State) (ck ch beat : Nat) (x : Xfer) (b : Beat) (ws : List (Nat × Nat)) (e : BitVec 5) : State :=
  let all := (ws.map (fun w => (w.1, HomeOp.write (leBytes w.2 x.dst.esize)))).zipIdx
  -- a beat that has been held on its way writes what has not been written (R278)
  let ops : List ((Nat × HomeOp) × Nat) := all.filter (fun o => !b.acked.contains o.2)
  match s.beatAhead x b with
  | some (j, v) =>
    if (s.grp x.req.group).st == .saving then s.failBeat ck ch beat x 0x2F0 none
    else
      ({ s.setXfer ck ch
          { x with
            beats := x.beats.set beat
              { b with st := .ahead, held := none, ring := some (s.moorings, j, v), put := ops.map (fun (o : (Nat × HomeOp) × Nat) => o.1), exc := e } } with
        moorings := s.moorings + 1 }).stir x.req.group
  | none =>
    let x := { x with exc := x.exc ||| e }
    if s.eager then
      let s := (ops.foldl (fun (s : State) (o : (Nat × HomeOp) × Nat) => (s.homeServe o.1.1 0 o.1.2).2) s).stir x.req.group
      s.noteXfer ck ch { x with beats := x.beats.set beat { b with st := .moved, held := none } }
    else
      (s.produce ck ch beat x ops).setXfer ck ch
        { x with beats := x.beats.set beat { b with st := .writing, held := none, sent := some s.now } }

/-- A beat that waits begins: its elements are read at their homes, at once or by messages. It is held while its destination's group is
saved or its bank switches (R278), and it waits for walks. -/
def State.startBeat (s : State) (ck ch beat : Nat) (x : Xfer) (b : Beat) : State :=
  match s.elemLocs x.req.group x.src ⟨true, false⟩ x.req.op b.n b.start with
  | (.error (.fault c, a), s) => s.failXfer ck ch x c (some a)
  | (.error _, s) => s
  | (.ok ss, s) =>
    match s.beatDest x b with
    | (.error (.fault c, a), s) => s.failXfer ck ch x c (some a)
    | (.error (.saved, a), s) => s.holdBeat ck ch beat x b a
    | (.error _, s) => s
    | (.ok ds, s) =>
      if s.eager then
        match s.moveElems x b.start (ss.zip ds) with
        | (.error c, _, s) => s.failXfer ck ch x c (some (x.src.elemAt b.start))
        | (.ok ws, e, s) => s.storeBeat ck ch beat x b ws e
      else
        (s.produce ck ch beat x ((ss.map (fun l => (l, HomeOp.read x.src.esize))).zipIdx)).setXfer ck ch
          { x with beats := x.beats.set beat { b with st := .reading, held := none, sent := some s.now, srcs := ss.map (fun _ => none) } }

/-- A beat whose reads have all returned goes on: converted, and written. -/
def State.finishBeat (s : State) (ck ch beat : Nat) (x : Xfer) (b : Beat) : State :=
  match b.srcs.mapM id with
  | none => s
  | some vs =>
    match s.beatDest x b with
    | (.error (.fault c, a), s) => s.failBeat ck ch beat x c (some a)
    | (.error (.saved, a), s) => s.holdBeat ck ch beat x b a
    | (.error _, s) => s
    | (.ok ds, s) =>
      let cs := vs.zipIdx.map (fun v => convElem x (b.start + v.2) (leVal v.1))
      s.storeBeat ck ch beat x b (ds.zip (cs.map (·.1))) (cs.foldl (fun e c => e ||| c.2) 0)

/-- A beat moves (R260). Of a transfer that has stopped, no further beat begins, and those that are reading go on (R276). -/
def execFerryBeat (cluster chan tid beat : Nat) (s : State) : Host.Outcome State Fault Refusal :=
  match (s.channel cluster chan).xfers.find? (fun x => x.id = tid) with
  | none => .next s
  | some x =>
    match x.beats[beat]? with
    | none => .next s
    | some b =>
      if x.finished then .next s
      else
        match b.st with
        | .waiting => if x.cause.isSome || x.cancelled then .next s else .next (s.startBeat cluster chan beat x b)
        | .reading => .next (s.finishBeat cluster chan beat x b)
        | _ => .next s

/-- The reply to a message of a beat (R226, R260). -/
def State.beatReply (s : State) (p : BeatPiece) (r : Except (BitVec 10) (List Byte)) : State :=
  match (s.channel p.cluster p.chan).xfers.find? (fun x => x.id = p.xfer) with
  | none => s
  | some x =>
    match x.beats[p.beat]? with
    | none => s
    | some b =>
      let put (b : Beat) : State := s.noteXfer p.cluster p.chan { x with beats := x.beats.set p.beat b }
      let acked := p.piece :: b.acked
      match r, b.st with
      | .error c, .reading => s.failBeat p.cluster p.chan p.beat x c (some (x.src.elemAt (b.start + p.piece)))
      | .error c, .writing => s.failBeat p.cluster p.chan p.beat x c (some (x.dst.elemAt (b.start + p.piece)))
      | .ok bs, .reading => put { b with srcs := b.srcs.set p.piece (some bs) }
      | .ok _, .writing =>
        if (List.range b.n).all (fun i => acked.contains i) then (put { b with st := .moved, acked := [] }).stir x.req.group
        else put { b with acked := acked }
      | _, _ => s

/-- The transfer of an identifier, where it has not ended, is noted as it stands. -/
def State.renote (s : State) (ck ch id : Nat) : State :=
  match s.xferAt ck ch id with
  | some x => if x.finished then s else s.noteXfer ck ch x
  | none => s

/-- A beat's bytes are counted into its landing word (R260, R268); the count waits while the word's group is saved. The count may let a
ring rotate, which performs other beats of the transfer (R292). -/
def execFerryBeatCount (cluster chan tid beat : Nat) (s : State) : Host.Outcome State Fault Refusal :=
  match (s.channel cluster chan).xfers.find? (fun x => x.id = tid) with
  | none => .next s
  | some x =>
    match x.beats[beat]? with
    | none => .next s
    | some b =>
      if x.finished || b.st != .moved then .next s
      else
        let s := s.stir x.req.group
        let x := { x with beats := x.beats.set beat { b with st := .counted } }
        match x.land with
        | none => .next (s.noteXfer cluster chan x)
        | some (g, so) =>
          match s.engScratchFor g so (some x.req.op) with
          | .at loc => .next (((s.setXfer cluster chan x).count loc (b.n * x.dst.esize)).renote cluster chan tid)
          | .fault c => if (s.grp g).present || (s.grp g).st == .gone then .next (s.failXfer cluster chan x c none) else .next s
          | _ => .next s

/-- Since when a beat is held for a group that is saved (R278). -/
def State.heldSince (s : State) (b : Beat) : Option Nat :=
  match b.held, b.st, b.dest.map s.grp with
  | some t, .waiting, some g | some t, .reading, some g => if g.st == .saved then some (max t ((g.save.map (·.since)).getD 0)) else none
  | _, _, _ => none

/-- A beat held for a saved group for 2^24 cycles is refused (R278). -/
def execBeatHoldTimeout (cluster chan tid beat : Nat) (s : State) : Host.Outcome State Fault Refusal :=
  match (s.channel cluster chan).xfers.find? (fun x => x.id = tid) with
  | none => .next s
  | some x =>
    match x.beats[beat]? with
    | none => .next s
    | some b =>
      match s.heldSince b with
      | some t =>
        if !x.finished && decide (2 ^ 24 ≤ s.now - t) then .next (s.failBeat cluster chan beat x 0x2C6 (some (x.dst.elemAt b.start)))
        else .next s
      | none => .next s

/-! ### Remote accesses without a reply (R226, R278) -/

/-- A message of a thread whose reply it awaits, from its path or a channel. -/
def State.awaited (s : State) (k : Nat) : Option Msg :=
  let p (m : Msg) : Bool := m.thread == some k && m.reply.isSome && !isBank m.loc && paPkg m.loc != packageOf (clusterOf (coreOf k))
  (((s.core (coreOf k)).path.find? p).orElse (fun _ => (s.chans.findSome? (fun e => e.2.2.find? p)))).orElse (fun _ => s.lost.find? p)

/-- Messages in the channels that a test accepts are gone. -/
def State.dropSent (s : State) (p : Msg → Bool) : State :=
  { s with
    chans := (s.chans.map (fun e => (e.1, e.2.1, e.2.2.filter (fun m => !p m)))).filter (fun e => !e.2.2.isEmpty)
    lost := s.lost.filter (fun m => !p m) }

/-- The message is gone. -/
def State.dropMsg (s : State) (k : Nat) (m : Msg) : State :=
  (s.modCore (coreOf k) (fun c => { c with path := c.path.filter (· != m) })).dropSent (· == m)

/-- Whether a message belongs to a beat. -/
def ofBeat (ck ch tid beat : Nat) (m : Msg) : Bool :=
  match m.beat with
  | some p => p.cluster == ck && p.chan == ch && p.xfer == tid && p.beat == beat
  | none => false

/-- The messages of a beat that have not been performed. -/
def State.beatMsgs (s : State) (ck ch tid beat : Nat) : List Msg :=
  ((s.clus ck).outbox ++ s.chans.flatMap (fun e => e.2.2) ++ s.lost).filter (ofBeat ck ch tid beat)

/-- They are gone. -/
def State.dropBeat (s : State) (ck ch tid beat : Nat) : State :=
  (s.modClus ck (fun c => { c with outbox := c.outbox.filter (fun m => !ofBeat ck ch tid beat m) })).dropSent (ofBeat ck ch tid beat)

/-- What a beat has on its way goes back to the engine: a read begins anew, a write is held for its group (R239, R278). -/
def State.recallBeat (s : State) (p : BeatPiece) (g : Nat) : State :=
  match s.xferAt p.cluster p.chan p.xfer with
  | none => s
  | some x =>
    match x.beats[p.beat]? with
    | none => s
    | some b =>
      let s := s.dropBeat p.cluster p.chan p.xfer p.beat
      let b := match b.st with
        | .reading => { b with st := .waiting, srcs := [] }
        | .writing => { b with st := .reading, held := some (b.held.getD s.now), dest := some g }
        | _ => b
      s.setXfer p.cluster p.chan { x with beats := x.beats.set p.beat b }

/-- The package of a location. -/
def locPackage (loc : Nat) : Nat :=
  if 2 ^ 54 ≤ loc then packageOf ((loc - 2 ^ 54) / 16) else if isBank loc then packageOf (locCluster loc) else paPkg loc

/-- Whether a trap of a thread is delivered at once: no other member of its tow is under way (R74). -/
def State.trapsNow (s : State) (k : Nat) : Bool :=
  match s.towOf k with
  | some w => w.frozen.isSome || !w.members.any (fun m => m != k && s.underway m)
  | none => true

/-- A message without a reply has been performed at its home, where it has reached it. -/
def State.performUnseen (s : State) (m : Msg) : State := if s.lost.contains m then s else (s.homeServe m.loc m.core m.op).2

/-- A remote access has had no reply for 2^20 cycles: its thread traps with 0x391, its transfer faults. A write may or
may not have been performed: both outcomes occur. -/
def execRemoteTimeout (who : Remote) (performed : Performed) (s : State) : Host.Outcome State Fault Refusal :=
  match who with
  | .thread k =>
    match s.awaited k with
    | none => .next s
    | some m =>
      if s.now < m.cycle + 2 ^ 20 then .next s
      else
        let s := (if performed = .yes then s.performUnseen m else s).dropMsg k m
        -- where its fault waits for other members of the tow, the instruction takes it when it issues again (R74)
        if s.trapsNow k && !s.frozenFollower k then .next (s.takeTrap k 0x391 (originOf 0x391) none (some (m.va.setWidth 64)) m.opnd)
        else .next (s.modThr k (fun t => { t with err := m.reply.map (fun i => (i, 0x391)) }))
  | .beat cluster chan tid beat =>
    match (s.channel cluster chan).xfers.find? (fun x => x.id = tid) with
    | none => .next s
    | some x =>
      match x.beats[beat]? with
      | none => .next s
      | some b =>
        let ms := s.beatMsgs cluster chan tid beat
        match b.sent with
        | none => .next s
        | some t =>
          if x.finished || !(b.st == .reading || b.st == .writing) || decide (s.now < t + 2 ^ 20) ||
              !ms.any (fun m => locPackage m.loc != packageOf cluster) then .next s
          else
            let s := (if performed = .yes then ms.foldl (fun s m => s.performUnseen m) s else s).dropBeat cluster chan tid beat
            .next (s.failBeat cluster chan beat x 0x391 (some ((if b.st = .reading then x.src else x.dst).elemAt b.start)))

/-! ### Landing and channel instructions (R266, R269, R270, R277) -/

/-- A landing word operand: kind 000 or 011, 16-byte aligned. -/
def landOperand (o : Opnd) (nd : Need) : Exec (Nat × Addr) :=
  match o with
  | .mem n m => do
    let x ← specAddr n m 16 16
    checkAlign x 16 0x0C0 opA
    if !x.getLsbD 55 || (x.extractLsb' 52 3 ≠ 0 && x.extractLsb' 52 3 ≠ 3) then fault 0x0E1 (some (x.setWidth 64)) opA
    else do
      let (loc, _) ← locate x 16 nd opA
      pure (loc, x)
  | _ => fault 0x0E1 none opA

/-- The step at the word's home comes after the thread's earlier accesses to that home. -/
def atWord (loc : Nat) : Exec Unit := do
  let s ← get
  if s.clear s.myCore (s.homeOf loc) then pure () else waitFor .path

/-- `land.init` (R269). -/
def execLandInit (h : Hdr) (word value : Opnd) (s : State) : Host.Outcome State Fault Refusal :=
  straight h (do
    let (loc, _) ← landOperand word ⟨false, true⟩
    let v ← readSrc value 8 opB
    atWord loc
    modify (fun s =>
      (s.setLanding loc { target := (v.extractLsb' 0 32).toNat, arrived := 0, gen := v.extractLsb' 32 32,
                          ovf := false }).afterLanding loc)) s

/-- `land.wait` (R270). -/
def execLandWait (h : Hdr) (word gen : Opnd) (s : State) : Host.Outcome State Fault Refusal :=
  straight h (do
    let (loc, x) ← landOperand word ⟨true, false⟩
    let v ← readSrc gen 8 opB
    atWord loc
    modify (fun s => s.setLandInfo loc (s.landInfo loc))
    let s ← get
    if s.me.freed || reached (s.landing loc).gen (v.setWidth 32) then acquireSteps .pk
    else do
      modMe (fun t => { t with watch := some loc })
      moor 3 x.toNat (v.setWidth 32)) s

/-- `fmark` (R277). -/
def execFmark (p : Pred) (ch : NumArg 4) (s : State) : Host.Outcome State Fault Refusal :=
  straightS p (do
    let s ← get
    let n := match ch with | .imm v => v.toNat | .acc => (s.me.a.extractLsb' 0 4).toNat
    acquireSteps .pk
    setA (BitVec.ofNat 64 ((s.channel s.myClus n).mark))) s

/-- `shape.fence` (R266). -/
def execShapeFence (p : Pred) (s : State) : Host.Outcome State Fault Refusal :=
  straightS p (do
    let s ← get
    let left : Word := match s.me.sent with
      | some (some n) => n
      | _ => BitVec.ofNat 64 (s.core s.myCore).fifo.length
    if left = 0 then set (s.modClus s.myClus (fun c => { c with shapes := [] }))
    else do
      modMe (fun t => { t with sent := some (some left) })
      waitFor .fifo) s

end Sys2Proof.Machine
end

