-- ==== Sys2Proof/Machine/Rings.lean ====
section
/-! DEFINITION. Ring, barrier and pod-barrier instructions (R287 to R303). -/
namespace Sys2Proof.Machine

/-! ### Rings -/

/-- The descriptor of the group's ring j (0x311 where it is not allotted), with its record. -/
def ringDesc (j : Nat) : Exec (Nat × Option Ring) := do
  let s ← get
  match (s.grp s.myGrp).rings[j]? with
  | none => faultOp 0x311
  | some r => pure (r, (s.ring s.myClus r).2)

/-- The slots that a ring covers (R290). -/
def ringSlots (v : Word) : List Nat := (List.range ((ringN v * ringZ v + 16 + 2 ^ 19 - 1) / 2 ^ 19)).map (fun i => ringSlot v + i)

/-- Whether the fields of a parameter word are those of a ring (R289, R297). -/
def parmOk (v : Word) : Bool :=
  let logn := (v.extractLsb' 40 3).toNat
  let size := (v.extractLsb' 24 12).toNat
  v.extractLsb' 57 7 == 0 && !v.getLsbD 43 && decide (1 ≤ logn) && decide (logn ≤ 4) && decide (1 ≤ ringD v) &&
    decide (ringD v < ringN v) && decide (1 ≤ size) && decide (size ≤ 3584)

/-- Whether every slot of a ring is allotted, in scratchpad mode and in no ring but r. One whose switch is pending counts as one that
is not (log 87, DESIGN CHOICE: R290 asks for scratchpad mode only). -/
def State.ringRangeOk (s : State) (g r : Nat) (v : Word) : Bool :=
  (ringSlots v).all (fun i =>
    match (s.grp g).banks[i]? with
    | none => false
    | some b =>
      let bk := s.bank (s.grp g).cluster b
      bk.mode == .sp && bk.queue.isEmpty && (bk.ring.isNone || bk.ring == some r))

/-- Whether an address is one of ring j (R157). -/
def ofRing (j : Nat) (x : Word) : Bool := x.extractLsb' 52 4 == 9 && (x.extractLsb' 45 3).toNat == j

/-- Whether a side of a copy has an element in ring j; a contiguous one lies in one view. -/
def Side.inRing (d : Side) (j : Nat) : Bool :=
  !d.remote && (ofRing j d.base ||
    (match d.dims with
      | [(n, st)] => st != BitVec.ofNat 64 d.esize && (List.range n).any (fun i => ofRing j (d.elemAt i))
      | ds => (List.range (dimsCount ds)).any (fun i => ofRing j (d.elemAt i))))

/-- Whether a ring is busy (R297). A copy is taken against it that has an element of its source or destination in it; one that only
counts into its landing word is none (log 87, DESIGN CHOICE). -/
def State.ringBusy (s : State) (g j : Nat) (v : Ring) : Bool :=
  !(s.mooredOn (fun k kd o _ => (kd == 6 || kd == 7) && o == j && (s.thr k).group == some g)).isEmpty ||
    (s.clus (s.grp g).cluster).channels.any (fun c =>
      c.2.xfers.any (fun x => !x.finished && x.req.group == g && (x.src.inRing j || x.dst.inRing j))) ||
    decide ((s.landInfo (s.ringWord g v.parm)).2 ≠ 0)

/-- A ring leaves its banks and its landing word. -/
def State.freeRing (s : State) (g : Nat) (v : Ring) : State :=
  let ck := (s.grp g).cluster
  let s := (ringSlots v.parm).foldl (fun s i =>
    match (s.grp g).banks[i]? with
    | some b => s.setBank ck b { s.bank ck b with ring := none }
    | none => s) s
  s.setLandInfo (s.ringWord g v.parm) (false, (s.landInfo (s.ringWord g v.parm)).2)

/-- Ring r is initialised with a parameter word (R297). -/
def State.startRing (s : State) (g r : Nat) (v : Word) : State :=
  let ck := (s.grp g).cluster
  let s := (ringSlots v).foldl (fun s i =>
    match (s.grp g).banks[i]? with
    | some b => s.setBank ck b { s.bank ck b with ring := some r }
    | none => s) s
  let s := s.setRing ck r ((s.ring ck r).1, some { parm := v })
  let w := s.ringWord g v
  (s.setLanding w { target := ringTarget v, arrived := 0, gen := 0, ovf := false }).setLandInfo w (true, (s.landInfo w).2)

/-- `ring.init` (R297). -/
def execRingInit (h : Hdr) (ring : BitVec 3) (src : Opnd) (s : State) : Host.Outcome State Fault Refusal :=
  straight h (do
    let v ← readSrc src 8 opB
    let (r, cur) ← ringDesc ring.toNat
    let s ← get
    let g := s.myGrp
    let busy := match cur with | some x => s.ringBusy g ring.toNat x | none => false
    let free : State := match cur with | some x => s.freeRing g x | none => s
    if v = 0 then
      if busy then faultOp 0x313 else set (free.setRing free.myClus r ((free.ring free.myClus r).1, none))
    else if !parmOk v || !s.ringRangeOk g r v then faultOp 0x312
    else if busy then faultOp 0x313
    else set (free.startRing g r v)) s


/-- `ring.arrive` (R298): an arrival that it has counted is not counted again (R305); one that a rotation has released has only to
return. -/
def execRingArrive (p : Pred) (ring : BitVec 3) (nw : Bool) (s : State) : Host.Outcome State Fault Refusal :=
  straightS p (do
    if (← getMe).freed then acquireSteps .pk else
    let (r, cur) ← ringDesc ring.toNat
    match cur with
    | none => faultOp 0x311
    | some v => do
      sampleAbort
      let s ← get
      match s.me.kept with
      | some stage => do
        setA ((stage - 1).setWidth 64)
        if reached v.s stage then acquireSteps .pk else moorLate 6 ring.toNat stage
      | none => do
        releaseSteps .cl
        let s ← get
        if 2 ^ 16 ≤ v.c + 1 then faultOp 0x314
        else
          let b : W32 := v.s + BitVec.ofNat 32 (v.c / ringP v.parm)
          let s := (s.setRing s.myClus r ((s.ring s.myClus r).1, some { v with c := v.c + 1 })).rotate s.myClus r
          set s
          setA (b.setWidth 64)
          if nw then pure ()
          else
            let now := match (s.ring s.myClus r).2 with | some x => x.s | none => v.s
            modMe (fun t => { t with kept := some (b + 1) })
            if reached now (b + 1) then acquireSteps .pk else moorLate 6 ring.toNat (b + 1)) s

/-- The value of `ring.stat` (R299). -/
def ringStat (v : Ring) : Word :=
  (v.s ++ BitVec.ofNat 16 v.c ++ v.parm.extractLsb' 44 8 ++ v.parm.extractLsb' 36 4 ++ v.parm.extractLsb' 40 3 ++ boolBit true)

/-- `ring.stat` (R299). -/
def execRingStat (p : Pred) (ring : BitVec 3) (s : State) : Host.Outcome State Fault Refusal :=
  straightS p (do
    let (_, cur) ← ringDesc ring.toNat
    acquireSteps .pk
    setA (match cur with | some v => ringStat v | none => 0)
    modFlags (fun f => { f with z := cur.isNone, n := false, c := false, v := false })) s

/-! ### Barriers (R300, R301) -/

/-- The record of the group's barrier b (0x320). -/
def barDesc (b : Nat) : Exec Nat := do
  let s ← get
  match (s.grp s.myGrp).bars[b]? with
  | none => faultOp 0x320
  | some r => pure r

/-- Phases complete while enough have arrived. -/
def Bar.settle (b : Bar) : Bar :=
  if b.count = 0 then b else { b with phase := b.phase + BitVec.ofNat 32 (b.c / b.count), c := b.c % b.count }

/-- Phase g of a barrier has completed. -/
def phaseDone (phase g : W32) : Bool := decide (1 ≤ (phase - g).toNat) && decide ((phase - g).toNat < 2 ^ 31)

/-- The record is written; threads whose phase has completed are released. -/
def State.updateBar (s : State) (g ck r : Nat) (b : Bar) : State :=
  let s := s.setBar ck r b
  let n := (s.grp g).bars.findIdx (· == r)
  s.wakeAll (s.mooredOn (fun k kd o v => kd == 4 && o == n && (s.thr k).group == some g && phaseDone b.phase v))

/-- `bar.init` (R300). -/
def execBarInit (p : Pred) (bar : BitVec 5) (src : Opnd) (s : State) : Host.Outcome State Fault Refusal :=
  straightS p (do
    let r ← barDesc bar.toNat
    let v ← readSrc src 4 opA
    let n := (v.extractLsb' 0 32).toNat
    if n = 0 || 65535 < n then faultOp 0x321
    else modify (fun s => s.updateBar s.myGrp s.myClus r ({ s.bar s.myClus r with count := n }.settle))) s

/-- `bar.arrive` (R300). -/
def execBarArrive (p : Pred) (bar : BitVec 5) (s : State) : Host.Outcome State Fault Refusal :=
  straightS p (do
    let r ← barDesc bar.toNat
    sampleAbort
    releaseSteps .cl
    let s ← get
    let b := s.bar s.myClus r
    if 2 ^ 16 ≤ b.c + 1 then faultOp 0x314
    else do
      let ph : W32 := b.phase + (if b.count = 0 then 0 else BitVec.ofNat 32 (b.c / b.count))
      set (s.updateBar s.myGrp s.myClus r ({ b with c := b.c + 1 }.settle))
      setA (ph.setWidth 64)) s

/-- `bar.wait` (R301). -/
def execBarWait (p : Pred) (bar : BitVec 5) (src : Opnd) (s : State) : Host.Outcome State Fault Refusal :=
  straightS p (do
    let r ← barDesc bar.toNat
    let v ← readSrc src 4 opA
    sampleAbort
    let s ← get
    let g : W32 := v.setWidth 32
    if s.me.freed || phaseDone (s.bar s.myClus r).phase g then acquireSteps .cl else moor 4 bar.toNat g) s

/-! ### Pod barriers (R302) -/

/-- B of a group's grid. -/
def State.podCount (s : State) (g : Nat) : Nat := ((s.man g 7).extractLsb' 0 9).toNat

/-- Waiting for a phase of the pod barrier; the site records whether the thread moored. -/
def podWait (g : W32) (site : BitVec 16) : Exec Unit := do
  let s ← get
  if s.me.freed || phaseDone (s.grid (s.grp s.myGrp).grid).phase g then do
    acquireSteps .pd
    wakeNote site (.branch s.me.sent.isSome)
  else do
    modMe (fun t => { t with sent := some none })
    moorLate 5 0 g

/-- One arrival of the group: the phase that it belongs to. At B the group has arrived for that phase, and its counter drops by B. -/
def podArrive (b : Nat) : Exec W32 := do
  releaseSteps .pd
  let g ← getGrp
  modMyGrp (fun g => if g.pod + 1 = b then { g with pod := 0, podPhase := g.podPhase + 1 } else { g with pod := g.pod + 1 })
  pure g.podPhase

/-- `podbar` (R302, R305). -/
def execPodbar (h : Hdr) (mode : PodMode) (site : BitVec 16) (s : State) : Host.Outcome State Fault Refusal :=
  straight h (do
    let s ← get
    let b := s.podCount s.myGrp
    if b = 0 then faultOp 0x322
    else do
      sampleAbort
      match mode with
      | .both =>
        match s.me.kept with
        | some g => do
          setA (g.setWidth 64)
          podWait g site
        | none => do
          let g ← podArrive b
          setA (g.setWidth 64)
          modMe (fun t => { t with kept := some g })
          podWait g site
      | .arrive => do
        let g ← podArrive b
        setA (g.setWidth 64)
        wakeNote site (.branch false)
      | .wait => podWait (s.me.a.setWidth 32) site) s

/-- The groups of a grid that the machine still holds. -/
def State.groupsOf (s : State) (grid : Nat) : List (Nat × Group) := s.groups.filter (fun e => e.2.grid == grid && e.2.st != .gone)

/-- A phase completes when every group index has arrived, retired or been cancelled; completion reaches every package's
waiters (R302). -/
def execPodBarrierComplete (grid : Nat) (s : State) : Host.Outcome State Fault Refusal :=
  let gr := s.grid grid
  let b := ((gr.man.getD 7 0).extractLsb' 0 9).toNat
  let here := (s.groupsOf grid).filter (fun e => phaseDone e.2.podPhase gr.phase)
  if b = 0 || gr.gone + here.length < gr.count || gr.st == .ended then .next s
  else
    let s := s.setGrid grid { gr with phase := gr.phase + 1 }
    .next (s.wakeAll (s.mooredOn (fun k kd _ v =>
      kd == 5 && (s.grp ((s.thr k).group.getD 0)).grid == grid && phaseDone (gr.phase + 1) v)))

end Sys2Proof.Machine
end

