-- ==== Sys2Proof/Machine/Matrix.lean ====
section
/-! DEFINITION. Matrix arrays (R307 to R339): acceptance of commands, passes, completion, chains, pairs, and follow-on
commands (R273). An operand's element is read at the pass boundary that
starts its operation, or before it by a turn of the agenda (log 22). -/
namespace Sys2Proof.Machine

/-! ### Arrays, queues and chains (R307, R319, R322) -/

def State.arr (s : State) (ck a : Nat) : MArray := tget (s.clus ck).arrays {} a
def State.setArr (s : State) (ck a : Nat) (v : MArray) : State :=
  s.modClus ck (fun c => { c with arrays := tset c.arrays a v })
def State.modArr (s : State) (ck a : Nat) (f : MArray → MArray) : State := s.setArr ck a (f (s.arr ck a))

/-- The chain that covers an array. -/
def State.chainOf (s : State) (ck a : Nat) : Chain := (s.arr ck a).chain.getD { first := a }

/-- The arrays of a chain. -/
def Chain.arrays (c : Chain) : List Nat := (List.range c.cnt).map (fun i => c.first + i)

def MArray.queue (a : MArray) (hi : Bool) : List MCmd := if hi then a.qh else a.qn
def MArray.setQueue (a : MArray) (hi : Bool) (q : List MCmd) : MArray := if hi then { a with qh := q } else { a with qn := q }
def MArray.ctx (a : MArray) (hi : Bool) : Option Ctx := if hi then a.ch else a.cn
def MArray.setCtx (a : MArray) (hi : Bool) (c : Option Ctx) : MArray := if hi then { a with ch := c } else { a with cn := c }
def MArray.all (a : MArray) : List MCmd := a.qh ++ a.qn

/-- The operation that a command belongs to: its own, or that of the copy that it follows. -/
def MCmd.opId (c : MCmd) : Option OpId := c.handle.orElse (fun _ => c.copy)

/-- The tiles that a command owns from acceptance on (R321). -/
def State.ownedTiles (s : State) (ck : Nat) (c : MCmd) : List Nat :=
  if c.op = 1 then []
  else if c.rank then [c.tile]
  else (List.range (s.chainOf ck c.array).cnt).map (fun i => c.tile + i)

/-- Whether an operation owns a tile (R321). -/
def State.tileLocked (s : State) (ck t : Nat) : Bool :=
  (List.range 4).any (fun a => (s.arr ck a).all.any (fun c => (s.ownedTiles ck c).contains t))

/-- Whether a group holds a tile, an array. -/
def State.holdsTile (s : State) (g t : Nat) : Bool := (s.grp g).tiles.contains t
def State.holdsArray (s : State) (g a : Nat) : Bool := (s.grp g).arrays.contains a

/-- Whether a thread of the group that has stalled on a tile has still to perform its instruction (R344). -/
def State.tileAwaited (s : State) (g t : Nat) : Bool := s.threads.any (fun e => e.2.group == some g && e.2.locked == some t)

/-- The location of a tile's storage, as an uncorrectable error names it (R226). -/
def tileLoc (ck t : Nat) : Nat := 2 ^ 54 + ck * 16 + t

/-- Whether a tile's storage has an uncorrectable error. -/
def State.tileFlawed (s : State) (ck t : Nat) : Bool := s.flaws.contains (tileLoc ck t)

/-- The arrays that an `mchain` affects: those of the new chain, and of the chains that cover one of them (R333). -/
def State.linkArrays (s : State) (ck : Nat) (c : Chain) : List Nat :=
  (List.range 4).filter (fun a => c.arrays.contains a || (s.chainOf ck a).arrays.any (fun b => c.arrays.contains b))

/-- Whether an `mchain` that affects an array waits. -/
def State.linkPending (s : State) (ck a : Nat) : Bool := (s.clus ck).links.any (fun l => (s.linkArrays ck l.cfg).contains a)

/-! ### Command records (R315, R316) -/

/-- A record: its eight words. -/
abbrev MRec := List Word

def MRec.word (r : MRec) (i : Nat) : Word := r.getD i 0
def MRec.op (r : MRec) : Nat := ((r.word 0).extractLsb' 60 4).toNat
def MRec.array (r : MRec) : Nat := ((r.word 0).extractLsb' 56 2).toNat
def MRec.rank (r : MRec) : Bool := (r.word 0).getLsbD 48
def MRec.qsel (r : MRec) : Nat := ((r.word 0).extractLsb' 46 2).toNat
def MRec.pair (r : MRec) : BitVec 2 := (r.word 0).extractLsb' 44 2
def MRec.mcnt (r : MRec) : Nat := ((r.word 0).extractLsb' 36 8).toNat
def MRec.k (r : MRec) : Nat := ((r.word 0).extractLsb' 27 9).toNat
def MRec.n (r : MRec) : Nat := ((r.word 0).extractLsb' 18 9).toNat
def MRec.tile (r : MRec) : Nat := ((r.word 4).extractLsb' 0 4).toNat
def MRec.row0 (r : MRec) : Nat := ((r.word 4).extractLsb' 8 8).toNat
def MRec.col0 (r : MRec) : Nat := ((r.word 4).extractLsb' 16 8).toNat

/-- A type code 0xA to 0xF with its width field (R310). -/
def matrixTy (fmt : BitVec 4) (pbw : BitVec 3) : Option Ty :=
  match fmt.toNat with
  | 0xA => if pbw = 0 then some .f16 else none
  | 0xB => if pbw = 0 then some .bf16 else none
  | 0xC => if pbw = 0 then some .f8e4 else none
  | 0xD => if pbw = 0 then some .f8e5 else none
  | 0xE => if pbw = 0 then some .f4 else none
  | 0xF => if pbw = 0 then none else some (.pb pbw)
  | _ => none

def MRec.fmt (r : MRec) : Option Ty := matrixTy ((r.word 0).extractLsb' 52 4) ((r.word 0).extractLsb' 49 3)

/-- Reserved fields that are not zero (R315; CMPL as R257 lays it out). -/
def MRec.reservedSet (r : MRec) : Bool :=
  let c := r.word 7
  (r.word 0).extractLsb' 58 2 ≠ 0 || (r.word 0).extractLsb' 0 18 ≠ 0 || (r.word 2).extractLsb' 32 32 ≠ 0 ||
    (r.word 4).extractLsb' 4 4 ≠ 0 || (r.word 4).extractLsb' 24 8 ≠ 0 || (r.word 4).extractLsb' 48 16 ≠ 0 ||
    (r.word 5).extractLsb' 32 32 ≠ 0 || c.extractLsb' 52 12 ≠ 0 || c.extractLsb' 29 9 ≠ 0 || c.extractLsb' 1 3 ≠ 0 ||
    (!c.getLsbD 0 && c ≠ 0) || (c.getLsbD 28 && c.extractLsb' 38 14 ≠ 0) || (c.getLsbD 27 && c.extractLsb' 4 20 ≠ 0)

/-- What R316 refuses with 0x2A1. `op` is the instruction's; none for a follow-on command. -/
def MRec.malformed (r : MRec) (op : Option Nat) : Bool :=
  let aux := r.word 6
  r.reservedSet || decide (r.op < 1) || decide (3 < r.op) || (match op with | some o => r.op != o | none => false) ||
    r.fmt.isNone || decide (r.qsel = 3) || r.pair == 3 ||
    (if r.op = 1 then
      decide (r.mcnt ≠ 0) || r.rank || r.pair != 0 || decide (r.k < 1) || decide (256 < r.k) || decide (r.n < 1) ||
        decide (256 < r.n) || ((match r.fmt with | some t => t.isPb | none => false) && decide (r.n % 32 ≠ 0))
    else decide (r.mcnt < 1) || decide (128 < r.mcnt) || decide (r.k ≠ 0) || decide (r.n ≠ 0)) ||
    (decide (r.op = 3) && (r.pair != 0 || (if op.isSome then aux != 0 else aux == 0)))

/-- Whether slack water does not serve a format: all but E4M3, E5M2 and E2M1 (R468). -/
def State.unserved (s : State) (ck : Nat) (t : Ty) : Bool :=
  s.slack (packageOf ck) && !(t == .f8e4 || t == .f8e5 || t == .f4)


/-- The cause of a view that does not resolve. -/
def State.viewCause (s : State) (g : Nat) (x : Word) : Option (BitVec 10) :=
  if x.extractLsb' 52 4 = 9 then (match s.engView g (x.setWidth 56) 1 none with | .fault c => some c | _ => none) else none

/-- The head of the chain that a record's command joins. -/
def State.recHead (s : State) (ck : Nat) (r : MRec) : Nat :=
  if r.op = 1 then (s.chainOf ck r.array).first else r.array

/-- The queue that a record joins: whether the high one. -/
def State.recHigh (s : State) (ck : Nat) (r : MRec) : Bool :=
  if r.qsel = 0 then (s.arr ck (s.recHead ck r)).high else r.qsel = 2

/-- A record's command, without its landing word. -/
def State.recCmd (s : State) (g : Nat) (r : MRec) (handle copy : Option OpId) (table : Word) : MCmd :=
  let run : Run := { src := r.word 1, tags := r.word 3, pitch := ((r.word 2).extractLsb' 0 32).toNat, mcnt := r.mcnt,
                     views := s.stagesOf g }
  { op := r.op, array := r.array, fmt := r.fmt.getD .f16, rank := r.rank, pair := r.pair, k := r.k, n := r.n, run := run,
    tile := r.tile, row0 := r.row0, col0 := r.col0, pkey := (r.word 4).extractLsb' 32 16,
    ibase := (r.word 5).extractLsb' 0 32, aux := if r.op = 3 && handle.isSome then table else r.word 6, group := g,
    handle := handle, copy := copy, runs := if r.op = 3 then [run] else [], total := r.mcnt }

/-- Whether a command stalls before its acceptance (R330, R344). -/
def State.mustStall (s : State) (g : Nat) (r : MRec) : Bool :=
  let ck := (s.grp g).cluster
  let hd := s.recHead ck r
  s.holdsArray g r.array && decide (r.qsel ≠ 3) &&
    (s.linkPending ck hd || decide (16 ≤ ((s.arr ck hd).queue (s.recHigh ck r)).length) ||
      (s.ownedTiles ck (s.recCmd g r none none 0)).any (fun t => s.tileAwaited g t))

/-- Acceptance (R316): the checks, then the command enters its queue. A record that fails several is refused with the cause that R316 lists
first; the rule itself gives no order (log 88, DESIGN CHOICE). -/
def State.acceptCmd (s : State) (g : Nat) (r : MRec) (op : Option Nat) (table : Word) (handle copy : Option OpId) :
    Except (BitVec 10) State :=
  let ck := (s.grp g).cluster
  let hd := s.recHead ck r
  let ch := s.chainOf ck hd
  let c := s.recCmd g r handle copy table
  if r.malformed op || s.unserved ck c.fmt then .error 0x2A1
  else if !s.holdsArray g r.array || (r.op ≠ 1 && ch.first ≠ r.array) || (r.pair == 1 && !ch.east) || (r.pair == 2 && !ch.west) then
    .error 0x2A2
  else if r.op ≠ 1 && (!(s.ownedTiles ck c).all (fun t => s.holdsTile g t) || 15 < r.tile + ch.cnt - 1 || 128 < r.row0 + r.mcnt) then
    .error 0x2A3
  else if r.op = 3 && (s.arr ck hd).all.any (fun c => c.op == 3 && !c.closed) then .error 0x2A6
  else
    match (s.viewCause g (r.word 1)).orElse (fun _ => if r.op = 3 then s.viewCause g (r.word 3) else none) with
    | some cz => .error cz
    | none =>
      match s.landingRef g (packageOf ck) (r.word 7) with
      | .error cz => .error cz
      | .ok land =>
        let hi := s.recHigh ck r
        .ok (s.modArr ck hd (fun a => a.setQueue hi (a.queue hi ++ [{ c with land := land }])))

/-! ### Ends of commands -/

/-- The command at a place of a queue leaves it, and its handle learns how it ended. -/
def State.endCmd (s : State) (ck hd : Nat) (hi : Bool) (i : Nat) (d : Done) : State :=
  match ((s.arr ck hd).queue hi)[i]? with
  | none => s
  | some c =>
    let s := s.modArr ck hd (fun a => a.setQueue hi ((a.queue hi).eraseIdx i))
    match c.handle, d with
    | some (k, n, q), d => s.finish c.group k n q d
    | none, d =>
      let s := s.stir c.group
      (match d with | .faulted cz _ => s.undeliverable c.group cz | _ => s)

/-- The command at a place is replaced. -/
def State.putCmd (s : State) (ck hd : Nat) (hi : Bool) (i : Nat) (c : MCmd) : State :=
  s.modArr ck hd (fun a => a.setQueue hi ((a.queue hi).set i c))

/-- The command that a queue runs: the first that has passes left, with its place. -/
def State.running (s : State) (ck hd : Nat) (hi : Bool) : Option (Nat × MCmd) :=
  let q := (s.arr ck hd).queue hi
  match q.findIdx? (fun c => !c.streamed) with
  | none => none
  | some i => (q[i]?).map (fun c => (i, c))

/-- The half that is paired with a half of the array, where it stands until it completes (R323). -/
def State.partnerOf (s : State) (ck hd : Nat) (c : MCmd) : Option (Nat × Nat × Bool × Nat × MCmd) :=
  match c.partner with
  | none => none
  | some (ck', hd') =>
    [true, false].findSome? (fun hi =>
      let q := (s.arr ck' hd').queue hi
      match q.findIdx? (fun d => d.partner == some (ck, hd) && d.pkey == c.pkey && d.pair != c.pair) with
      | none => none
      | some i => (q[i]?).map (fun d => (ck', hd', hi, i, d)))

/-- A command faults; its partner, where it has one, records 0x2A5. -/
def State.failCmd (s : State) (ck hd : Nat) (hi : Bool) (i : Nat) (c : MCmd) (cz : BitVec 10) (x : Option Word) : State :=
  let p := s.partnerOf ck hd c
  let s := s.endCmd ck hd hi i (.faulted cz x)
  match p with
  | some (ck', hd', hi', i', _) => s.endCmd ck' hd' hi' i' (.faulted 0x2A5 none)
  | none => s

/-! ### Swaps and streams (R309, R314) -/

/-- Half cycles that a row of a format takes (R310). -/
def digitCost (t : Ty) : Nat :=
  match t with
  | .f16 => 6
  | .bf16 => 4
  | .f4 => 1
  | .pb c => if c = 1 then 1 else 2 * ((c.toNat + 4) / 4)
  | _ => 2

/-- The array streams or swaps for n cycles more. -/
def MArray.occupy (a : MArray) (now n : Nat) : MArray := { a with busy := max a.busy now + n }

/-- A latch replaces what the cells hold. -/
def State.emptyCells (s : State) (ck hd : Nat) : State := s.modArr ck hd (fun a => { a with cells := none })

/-- A queue's context comes into the cells: a swap, where it does not stand there (R309). -/
def State.swapIn (s : State) (ck hd : Nat) (hi : Bool) : State :=
  if (s.arr ck hd).cells == some hi then s
  else s.modArr ck hd (fun a => { a with cells := some hi }.occupy s.now 256)

/-- One pass has streamed in the cycle `e`; a command without more passes has been streamed. -/
def MCmd.stream (c : MCmd) (e : Nat) : MCmd :=
  let c := { c with bands := c.bands.tail, last := e }
  { c with streamed := c.bands.isEmpty && (c.op != 3 || (c.runs.isEmpty && c.closed)) }

/-- The cycles of a pass: those of its rows (R314). -/
def MCmd.passTime (c : MCmd) : Nat := (c.width * digitCost c.fmt + 1) / 2

/-- The command at a place streams a pass from its queue's context, which ends with what the array has to swap and stream until
then. -/
def State.streamCmd (s : State) (ck hd : Nat) (hi : Bool) (i : Nat) (c : MCmd) : State :=
  let s := (s.swapIn ck hd hi).modArr ck hd (fun a => a.occupy s.now c.passTime)
  s.putCmd ck hd hi i (c.stream (s.arr ck hd).busy)

/-! ### Operand reads (R311, R317) -/

/-- What an engine does: it ends in a fault with a cause and an address, or it waits (`none`). -/
abbrev Eng (α : Type) := ExceptT (Option (BitVec 10 × Option Word)) (StateM State) α

def engFault {α : Type} (c : BitVec 10) (x : Option Word) : Eng α := throw (some (c, x))

/-- n bytes, read at their home. -/
def engBytes (g : Nat) (op : Option OpId) (views : Table W32) (x : Word) (n : Nat) : Eng (List Byte) := do
  let s ← get
  match s.engTaken g views x n ⟨true, false⟩ op with
  | (.at loc, s) =>
    match s.readError loc n with
    | some c => do
      set (s.noteBad loc c)
      engFault c (some x)
    | none => do
      let (bs, s) := s.homePerform loc 0 (.read n)
      set s
      pure bs
  | (.fault c, s) => do
    set s
    engFault c (some x)
  | (_, s) => do
    set s
    throw none

/-- m units of u bytes. One that has been read early has that value (R317). -/
def engUnits (g : Nat) (op : Option OpId) (views : Table W32) (early : List (Word × List Byte)) (x : Word) (u : Nat) : Nat → Eng (List Byte)
  | 0 => pure []
  | m + 1 => do
    let bs ← (match early.find? (fun e => e.1 == x && e.2.length == u) with
      | some e => pure e.2
      | none => engBytes g op views x u)
    let rest ← engUnits g op views early (x + BitVec.ofNat 64 u) u m
    pure (bs ++ rest)

/-- The unit of a format's rows: what SRC and PITCH are aligned to. -/
def matrixUnit (t : Ty) : Nat :=
  match t with
  | .pb _ => 4
  | .f16 | .bf16 => 2
  | _ => 1

/-- The bytes of a row of n elements. -/
def matrixRowBytes (t : Ty) (n : Nat) : Nat :=
  match t with
  | .pb c => n / 32 * (4 * (c.toNat + 2))
  | .f4 => (n + 1) / 2
  | t => n * matrixUnit t

/-- The elements of a row, as FP32. -/
def matrixElems (t : Ty) (n : Nat) (bs : List Byte) : List W32 :=
  match t with
  | .pb c =>
    (List.range (n / 32)).flatMap (fun b =>
      let r := leVal ((bs.drop (b * (4 * (c.toNat + 2)))).take (4 * (c.toNat + 2)))
      (List.range 32).map (fun i => BitVec.ofNat 32 (pbElem (c.toNat + 1) r i)))
  | t =>
    let v := leVal bs
    (List.range n).map (fun i => BitVec.ofNat 32 (widen32 t (rawElem t v i)))

/-- Row i of a tile at SRC with a pitch. -/
def engRow (g : Nat) (op : Option OpId) (views : Table W32) (early : List (Word × List Byte)) (src : Word) (pitch : Nat) (t : Ty) (n i : Nat) : Eng (List W32) := do
  let x := src + BitVec.ofNat 64 (i * pitch)
  let bs ← engUnits g op views early x (matrixUnit t) (matrixRowBytes t n / matrixUnit t)
  pure (matrixElems t n bs)

/-- SRC and PITCH are aligned to the format (R311). -/
def checkMatrixAlign (src : Word) (pitch : Nat) (t : Ty) : Eng Unit :=
  if src.toNat % matrixUnit t = 0 && pitch % matrixUnit t = 0 then pure () else engFault 0x0C0 (some src)

/-- Rows from i on. -/
def engRows (g : Nat) (op : Option OpId) (views : Table W32) (early : List (Word × List Byte)) (src : Word) (pitch : Nat) (t : Ty) (n : Nat) :
    Nat → Nat → Eng (List (List W32))
  | 0, _ => pure []
  | m + 1, i => do
    let r ← engRow g op views early src pitch t n i
    let rest ← engRows g op views early src pitch t n m (i + 1)
    pure (r :: rest)

/-- A weight tile (R309, R311). -/
def latch (g : Nat) (op : Option OpId) (views : Table W32) (early : List (Word × List Byte)) (src : Word) (pitch k n : Nat) (t : Ty) : Eng Ctx := do
  checkMatrixAlign src pitch t
  let w ← engRows g op views early src pitch t n k 0
  pure { k := k, n := n, fmt := t, w := w }

/-- Eight words of a record. -/
def engRecord (g : Nat) (op : Option OpId) (views : Table W32) (early : List (Word × List Byte)) (x : Word) : Nat → Eng MRec
  | 0 => pure []
  | m + 1 => do
    let bs ← engUnits g op views early x 8 1
    let rest ← engRecord g op views early (x + 8) m
    pure (leWord bs :: rest)

/-- The contexts of the records at AUX, with the arrays that they name (R325). -/
def auxRecords (ck : Nat) (c : MCmd) (ch : Chain) (x : Word) : Nat → Eng (List (Nat × Ctx))
  | 0 => pure []
  | m + 1 => do
    let r ← engRecord c.group c.opId c.run.views c.early x 8
    let s ← get
    let bad := r.malformed (some 1) || s.unserved ck (r.fmt.getD .f16) || !s.holdsArray c.group r.array || !ch.arrays.contains r.array ||
      (s.viewCause c.group (r.word 1)).isSome ||
      (match s.landingRef c.group (packageOf ck) (r.word 7) with | .error _ => true | .ok _ => false)
    if bad then engFault 0x2A4 none
    else do
      let w ← latch c.group c.opId c.run.views c.early (r.word 1) ((r.word 2).extractLsb' 0 32).toNat r.k r.n (r.fmt.getD .f16)
      let rest ← auxRecords ck c ch (x + 64) m
      pure ((r.array, w) :: rest)

/-- The contexts of a chain. -/
def State.contexts (s : State) (ck : Nat) (ch : Chain) (hi : Bool) : List (Option Ctx) := ch.arrays.map (fun a => (s.arr ck a).ctx hi)

/-- The weights of an `mx` at its start, latched from AUX where a context is empty (R316, R325). -/
def startWeights (ck : Nat) (ch : Chain) (hi : Bool) (c : MCmd) : Eng (List Ctx) := do
  let s ← get
  if (s.contexts ck ch hi).any (·.isNone) then
    if c.aux = 0 then engFault 0x2A4 none
    else if c.aux.toNat % 64 ≠ 0 then engFault 0x0C0 (some c.aux)
    else do
      let ws ← auxRecords ck c ch c.aux ch.cnt
      modify (fun s => (ws.foldl (fun s w => s.modArr ck w.1 (fun a => a.setCtx hi (some w.2))) s).emptyCells ck ch.first)
  else pure ()
  let s ← get
  let ws := s.contexts ck ch hi
  if ws.any (·.isNone) then engFault 0x2A4 none else pure (ws.filterMap id)

/-- The start checks of R316 and R342 on weights, columns and rows. -/
def startChecks (ck : Nat) (c : MCmd) (ws : List Ctx) (lo cnt : Nat) : Eng Unit := do
  let s ← get
  let k := (ws.map (·.k)).headD 0
  if ws.any (fun w => w.k ≠ k) || (c.fmt.isPb && k % 32 ≠ 0) then engFault 0x2A4 none
  else if ws.any (fun w => 256 < c.col0 + w.n) then engFault 0x2A3 none
  else
    let rows (t : Nat) : List Bool := (List.range cnt).map (fun i => (s.row ck t (c.row0 + lo + i)).ranked)
    if c.rank then (if (rows c.tile).all id then pure () else engFault 0x2A8 none)
    else if (s.ownedTiles ck c).any (fun t => (rows t).any id) then engFault 0x2AB none
    else pure ()

/-! ### Products (R312, R313) -/

/-- The exact product of two elements. -/
def product (x y : W32) : FVal := (fMul (fmtF32.decode x.toNat) (fmtF32.decode y.toNat)).1

/-- The band of a product at a scale; none for k = 0, NaN and infinity. -/
def bandOf (sc : Int) (x : FVal) : Option Nat :=
  match x with
  | .fin neg a b =>
    let k := (floorScaled neg a b sc).natAbs
    if k = 0 then none else some (min 2 (Nat.log2 k / 40))
  | _ => none

/-- The scale of the tile that array i of the chain writes. -/
def State.cmdScale (s : State) (ck : Nat) (c : MCmd) (i : Nat) : Int :=
  (s.tile ck (if c.rank then c.tile else c.tile + i)).scale.toInt

/-- The bands that hold a product of the rows. -/
def State.bandsOf (s : State) (ck : Nat) (c : MCmd) (rows : List MRow) : List Nat :=
  let has (b : Nat) : Bool :=
    rows.any (fun r =>
      ((List.range r.ws.length).zip r.ws).any (fun w =>
        (r.acts.zip w.2.w).any (fun p => p.2.any (fun y => bandOf (s.cmdScale ck c w.1) (product p.1 y) == some b))))
  (List.range 3).filter has

/-- The passes of an operation: at least one. -/
def passes (bs : List Nat) : List Nat := if bs.isEmpty then [0] else bs

/-- A row's contributions to the entries of one array. -/
def rowEntries (sc : Int) (acts : List W32) (w : List (List W32)) (es : List Entry) : List Entry :=
  (acts.zip w).foldl (fun es p => List.zipWith (fun e y => contribute sc e (product p.1 y)) es p.2) es

/-! ### Pass boundaries (R319) -/

/-- The east neighbour of a cluster (R9). -/
def eastOf (ck : Nat) : Option Nat := if ck % 4 = 3 then none else some (ck + 1)

/-- Rows of activations with their weights. -/
def makeRows (ws : List Ctx) (acts : List (List W32)) (lo : Nat) : List MRow :=
  ((List.range acts.length).zip acts).map (fun p => { row := lo + p.1, acts := p.2, ws := ws })

/-- An unpaired `mx` starts. -/
def startMx (ck hd : Nat) (hi : Bool) (c : MCmd) : Eng MCmd := do
  let s ← get
  let ws ← startWeights ck (s.chainOf ck hd) hi c
  startChecks ck c ws 0 c.run.mcnt
  checkMatrixAlign c.run.src c.run.pitch c.fmt
  let acts ← engRows c.group c.opId c.run.views c.run.early c.run.src c.run.pitch c.fmt ((ws.map (·.k)).headD 0) c.run.mcnt 0
  let rows := makeRows ws acts 0
  let s ← get
  pure { c with started := true, rows := rows, width := rows.length, bands := passes (s.bandsOf ck c rows) }

/-- The east half of a paired operation: its weights against the west half's rows. -/
def startEast (ck hd : Nat) (hi : Bool) (c : MCmd) (west : List MRow) : Eng MCmd := do
  let s ← get
  let ws ← startWeights ck (s.chainOf ck hd) hi c
  startChecks ck c ws 0 c.run.mcnt
  if (ws.map (·.k)).headD 0 ≠ ((west.headD { row := 0, acts := [], ws := [] }).acts).length then engFault 0x2A9 none
  else pure { c with started := true, rows := west.map (fun r => { r with ws := ws }), width := west.length }

/-- The header of an expert table (R327). -/
def readTable (ck : Nat) (c : MCmd) : Eng MCmd := do
  if c.aux.toNat % 16 ≠ 0 then engFault 0x0C0 (some c.aux)
  else do
    let lo ← engUnits c.group c.opId c.run.views c.early c.aux 8 1
    let hi ← engUnits c.group c.opId c.run.views c.early (c.aux + 8) 8 1
    let h := leWord lo
    let n := (h.extractLsb' 46 9).toNat
    let k := (h.extractLsb' 37 9).toNat
    let nexp := (h.extractLsb' 0 16).toNat
    match matrixTy (h.extractLsb' 33 4) (h.extractLsb' 30 3) with
    | none => engFault 0x2A6 (some c.aux)
    | some t =>
      if leWord hi ≠ 0 || h.extractLsb' 55 9 ≠ 0 || h.extractLsb' 16 14 ≠ 0 || n < 1 || 256 < n || k < 1 || 256 < k ||
          nexp = 0 || (t.isPb && n % 32 ≠ 0) then engFault 0x2A6 (some c.aux)
      else do
        let s ← get
        if s.unserved ck t then engFault 0x2A1 (some c.aux) else pure { c with k := k, n := n, wfmt := t, nexp := nexp }

/-- The weights of an expert: those read before, or its entry's (R313, R327). -/
def expertWeights (c : MCmd) (e : Nat) : Eng Ctx :=
  match c.experts.find? (fun x => x.1 == e) with
  | some x => pure x.2
  | none => do
    let x := c.aux + BitVec.ofNat 64 (16 + 16 * e)
    let lo ← engUnits c.group c.opId c.run.views c.early x 8 1
    let hi ← engUnits c.group c.opId c.run.views c.early (x + 8) 8 1
    if (leWord hi).extractLsb' 32 32 ≠ 0 then engFault 0x2A6 (some x)
    else latch c.group c.opId c.run.views c.early (leWord lo) ((leWord hi).extractLsb' 0 32).toNat c.k c.n c.wfmt

/-- A grouped product starts: its table, and the checks of its chain. -/
def startMxg (ck hd : Nat) (hi : Bool) (c : MCmd) : Eng MCmd := do
  let c ← readTable ck c
  let s ← get
  let rest := (s.contexts ck (s.chainOf ck hd) hi).drop 1
  if rest.any (·.isNone) then engFault 0x2A4 none
  else do
    startChecks ck c ({ k := c.k, n := c.n, fmt := c.wfmt, w := [] } :: rest.filterMap id) 0 c.run.mcnt
    pure { c with started := true }

/-- The tag of row m of a run. -/
def readTag (c : MCmd) (r : Run) (m : Nat) : Eng Nat := do
  let bs ← engUnits c.group c.opId r.views r.early (r.tags + BitVec.ofNat 64 (2 * m)) 2 1
  pure (leVal bs)

/-- The rows from m on that carry a tag, and the tag that ends them, which has been read (R367). -/
def sameTag (c : MCmd) (r : Run) (tag : Nat) : Nat → Nat → Eng (Nat × List (Word × List Byte))
  | 0, _ => pure (0, [])
  | n + 1, m => do
    let t ← readTag c r m
    if t = tag then do
      let (k, e) ← sameTag c r tag n (m + 1)
      pure (k + 1, e)
    else pure (0, [(r.tags + BitVec.ofNat 64 (2 * m), leBytes t 2)])

/-- The run at the head goes on by n rows, with a tag that has been read. -/
def MCmd.advance (c : MCmd) (r : Run) (n : Nat) (e : List (Word × List Byte)) : MCmd :=
  if c.pos + n < r.mcnt then { c with pos := c.pos + n, runs := { r with early := e ++ r.early } :: c.runs.tail }
  else { c with pos := 0, base := c.base + r.mcnt, runs := c.runs.tail }

/-- The next rows of one tag of a grouped product (R327): skipped rows pass, an expert is latched, the rows are read and
their bands found. -/
def nextRows (ck hd : Nat) (hi : Bool) : Nat → MCmd → Eng MCmd
  | 0, c => pure c
  | fuel + 1, c =>
    match c.runs with
    | [] => pure c
    | r :: _ => do
      if r.tags.toNat % 2 ≠ 0 then engFault 0x0C0 (some r.tags)
      else do
        let tag ← readTag c r c.pos
        if tag = 0xFFFF then do
          let (n, e) ← sameTag c r tag (r.mcnt - c.pos) c.pos
          nextRows ck hd hi fuel (c.advance r n e)
        else if c.nexp ≤ tag then engFault 0x2A6 none
        else do
          let (n, e) ← sameTag c r tag (r.mcnt - c.pos) c.pos
          let w ← expertWeights c tag
          let s ← get
          let ws := w :: ((s.contexts ck (s.chainOf ck hd) hi).drop 1).filterMap id
          startChecks ck c ws (c.base + c.pos) n
          checkMatrixAlign r.src r.pitch c.fmt
          let x := r.src + BitVec.ofNat 64 (c.pos * r.pitch)
          let acts ← engRows c.group c.opId r.views r.early x r.pitch c.fmt c.k n 0
          let rows := makeRows ws acts (c.base + c.pos)
          let s ← get
          let bs := passes (s.bandsOf ck c rows)
          let s := if c.expert == some tag then s else s.emptyCells ck hd
          set (s.modArr ck hd (fun a => a.setCtx hi (some w)))
          pure ({ c with rows := c.rows ++ rows, width := n, bands := bs, expert := some tag,
                         experts := tset c.experts tag w }.advance r n e)

/-- Whether the command that a queue runs can start or go on without a partner (R319, R328). -/
def MCmd.canRun (c : MCmd) : Bool :=
  if c.op = 2 && c.pair ≠ 0 then false
  else if c.op = 3 && c.started then !c.bands.isEmpty || !c.runs.isEmpty || c.closed
  else true

/-- Whether the partner of a half is what its own array would run now (R323): its queue runs it, and no high command goes before
it. An array has one pair (R307), so no other half of it is paired. -/
def State.pairReady (s : State) (ck hd : Nat) (c : MCmd) : Bool :=
  match s.partnerOf ck hd c with
  | none => false
  | some (ck', hd', hi', i', _) =>
    (match s.running ck' hd' hi' with | some (j, _) => j == i' | none => false) &&
      (hi' || (match s.running ck' hd' true with | some (_, d) => !d.canRun | none => true))

/-- Whether the command that a queue of the array runs can start or go on. -/
def State.canRun (s : State) (ck hd : Nat) (c : MCmd) : Bool := c.canRun || s.pairReady ck hd c

/-- A paired operation that has begun is not overtaken. -/
def MCmd.holdsArray (c : MCmd) : Bool := c.partner.isSome && c.started

/-- The command that the array runs from a pass boundary on: its queue, place and command. -/
def State.choose (s : State) (ck hd : Nat) : Option (Bool × Nat × MCmd) :=
  let at' (hi : Bool) : Option (Bool × Nat × MCmd) := (s.running ck hd hi).map (fun p => (hi, p.1, p.2))
  let can (hi : Bool) (p : MCmd → Bool) : Option (Bool × Nat × MCmd) := (at' hi).filter (fun e => p e.2.2)
  ((can true MCmd.holdsArray).orElse (fun _ => can false MCmd.holdsArray)).orElse (fun _ =>
    (can true (s.canRun ck hd)).orElse (fun _ => can false (s.canRun ck hd)))

/-- The array at the side where a half meets its partner, which keeps what the partner's timeouts say (R324). -/
def deadArray (pair : BitVec 2) : Nat := if pair = 1 then 3 else 0

/-- A half becomes ready; one whose partner's cluster has timed out with its key aborts (R324). -/
def State.makeReady (s : State) (ck hd : Nat) (hi : Bool) : State :=
  match s.running ck hd hi with
  | none => s
  | some (i, c) =>
    if c.op = 2 && c.pair ≠ 0 && c.partner.isNone && c.ready.isNone then
      if (s.arr ck (deadArray c.pair)).dead.any (fun d => d.1 == (s.grp c.group).grid && d.2.1 == c.pkey && decide (s.now ≤ d.2.2)) then
        s.endCmd ck hd hi i (.faulted 0x2A0 none)
      else s.putCmd ck hd hi i { c with ready := some s.now }
    else s

/-- Halves that the array would start become ready: at the high head, and at the normal one while no high command can
start. -/
def State.readyHalves (s : State) (ck hd : Nat) : State :=
  let s := s.makeReady ck hd true
  match s.running ck hd true with
  | some (_, c) => if s.canRun ck hd c then s else s.makeReady ck hd false
  | none => s.makeReady ck hd false

/-- Commands that a cancellation stops at this boundary (R336). -/
def State.stopCmds (s : State) (ck hd : Nat) : State :=
  [true, false].foldl (fun s hi =>
    match s.running ck hd hi with
    | some (i, c) => if c.stop then s.endCmd ck hd hi i (.cancelled 0x2A7) else s
    | none => s) s

/-- Where the landing word of a command stands (R320); none where CMPL names none. -/
def State.cmdWord (s : State) (c : MCmd) : Option EngAt :=
  c.land.map (fun l => if (s.grp l.1).st == .saved then .saved else s.engScratchFor l.1 l.2 c.opId)

/-- A command that its landing word does not hold up completes, and counts into the word. -/
def State.completeCmd (s : State) (ck hd : Nat) (hi : Bool) (i : Nat) (word : Option EngAt) : State :=
  let s := s.endCmd ck hd hi i .complete
  match word with
  | some (.at loc) => s.count loc 1
  | _ => s

/-- Whether a completion waits: for the group of its landing word to be restored, or for the word's bank. -/
def heldUp (word : Option EngAt) : Bool := word == some .saved || word == some .bank || word == some .walk

/-- `mw` at its turn: the context is written, or left empty by a fault (R330); it counts as R320 says of every operation. -/
def State.runMw (s : State) (ck hd : Nat) (hi : Bool) (i : Nat) (c : MCmd) : State :=
  let word := s.cmdWord c
  if heldUp word then s
  else
  match (latch c.group c.opId c.run.views c.run.early c.run.src c.run.pitch c.k c.n c.fmt).run s with
  | (.ok w, s) =>
    -- into the cells at once where its queue is the one that runs (R309)
    let s := if (s.arr ck hd).cells == some hi then (s.emptyCells ck hd).swapIn ck hd hi else s
    (s.modArr ck c.array (fun a => a.setCtx hi (some w))).completeCmd ck hd hi i word
  | (.error none, s) => s
  | (.error (some (cz, x)), s) => (s.modArr ck c.array (fun a => a.setCtx hi none)).endCmd ck hd hi i (.faulted cz x)

/-- A pass of a paired operation streams in both halves (R323); the first boundary, at which both arrays choose it (R319), starts
both. -/
def State.runPair (s : State) (ck hd : Nat) (hi : Bool) (i : Nat) (c : MCmd) : State :=
  match s.partnerOf ck hd c with
  | none => s
  | some (ck', hd', hi', i', c') =>
    let go (s : State) (c c' : MCmd) : State := (s.streamCmd ck hd hi i c).streamCmd ck' hd' hi' i' c'
    if c.started then go s c c'
    else if (match s.choose ck' hd' with | some (h, j, _) => h != hi' || j != i' | none => true) then s
    else
      let (wk, wh, wq, wi, w, ek, eh, eq, ei, e) :=
        if c.pair = 1 then (ck, hd, hi, i, c, ck', hd', hi', i', c') else (ck', hd', hi', i', c', ck, hd, hi, i, c)
      match (startMx wk wh wq w).run s with
      | (.error none, s) => s
      | (.error (some (cz, x)), s) => s.failCmd wk wh wq wi w cz x
      | (.ok w, s) =>
        match (startEast ek eh eq e w.rows).run s with
        | (.error none, s) => s
        | (.error (some (cz, x)), s) =>
          if cz = 0x2A9 then (s.endCmd wk wh wq wi (.faulted cz none)).endCmd ek eh eq ei (.faulted cz none)
          else s.failCmd ek eh eq ei e cz x
        | (.ok e, s) =>
          let bs := passes ((List.range 3).filter (fun b => (s.bandsOf wk w w.rows).contains b || (s.bandsOf ek e e.rows).contains b))
          (s.streamCmd wk wh wq wi { w with bands := bs }).streamCmd ek eh eq ei { e with bands := bs }

/-- A pass of the array's command. -/
def State.runCmd (s : State) (ck hd : Nat) (hi : Bool) (i : Nat) (c : MCmd) : State :=
  if c.op = 1 then s.runMw ck hd hi i c
  else if c.partner.isSome then s.runPair ck hd hi i c
  else
    let go : Eng MCmd := do
      let c ← (if c.started then pure c else if c.op = 2 then startMx ck hd hi c else startMxg ck hd hi c)
      if c.op = 3 && c.bands.isEmpty then nextRows ck hd hi (c.total + 1) c else pure c
    match go.run s with
    | (.ok d, s) =>
      -- a grouped product without rows left streams no pass
      if d.op = 3 && d.bands.isEmpty then s.putCmd ck hd hi i (d.stream (if c.runs.isEmpty then c.last else s.now))
      else s.streamCmd ck hd hi i d
    | (.error none, s) => s
    | (.error (some (cz, x)), s) => s.failCmd ck hd hi i c cz x

/-- The tile fetch unit reads an element, tag or table word of n bytes of a command that has been accepted, before the pass
that consumes it (R317): of its weights, records or table at AUX (run 0), or of a run and its tags. It is read once. -/
def State.fetchOperand (s : State) (ck hd : Nat) (hi : Bool) (i run : Nat) (x : Word) (n : Nat) : State :=
  match ((s.arr ck hd).queue hi)[i]? with
  | none => s
  | some c =>
    let rs := if c.op = 3 then c.runs else [c.run]
    let seen : Option (Table W32 × List (Word × List Byte)) :=
      if run = 0 then some (c.run.views, c.early) else (rs[run - 1]?).map (fun r => (r.views, r.early))
    match seen with
    | none => s
    | some (views, early) =>
      if !([1, 2, 4, 8].contains n) || x.toNat % n ≠ 0 || early.any (fun e => e.1 == x) then s
      else
        match (engBytes c.group c.opId views x n).run s with
        | (.error _, s) => s
        | (.ok bs, s) =>
          let more (r : Run) : Run := { r with early := (x, bs) :: r.early }
          s.putCmd ck hd hi i
            (if run = 0 then { c with early := (x, bs) :: c.early }
             else if c.op = 3 then { c with runs := c.runs.modify (run - 1) more }
             else { c with run := more c.run })

/-- A pass boundary (R319): the array chooses a queue, and its command streams its next pass; the boundary that starts a
command checks it and reads its operands. -/
def execMatrixPassBoundary (cluster head : Nat) (s : State) : Host.Outcome State Fault Refusal :=
  if (s.chainOf cluster head).first ≠ head then .next s
  else
    let s := (s.stopCmds cluster head).readyHalves cluster head
    match s.choose cluster head with
    | some (hi, i, c) => .next (s.runCmd cluster head hi i c)
    | none => .next s

/-! ### Completion (R320, R326) -/

/-- The contributions of a row of array i to its tile. -/
def State.addRow (s : State) (ck : Nat) (c : MCmd) (r : MRow) (i : Nat) (w : Ctx) : State :=
  let t := c.tile + i
  let v := s.tile ck t
  let key (n : Nat) : Nat := 256 * (c.row0 + r.row) + c.col0 + n
  let old := (List.range w.n).map (fun n => tget v.entries {} (key n))
  let new := rowEntries v.scale.toInt r.acts w.w old
  let es := ((List.range w.n).zip new).foldl (fun es p => if tget es {} (key p.1) = p.2 then es else tset es (key p.1) p.2) v.entries
  s.setTile ck t { v with entries := es, dirty := v.dirty || new != old }

/-- The pairs of a row of array i, read out and presented to the row's list, with the statuses of the readouts. -/
def State.rankRow (s : State) (ck : Nat) (c : MCmd) (r : MRow) (i : Nat) (w : Ctx) : State :=
  let v := s.tile ck c.tile
  let sc := v.scale.toInt
  let outs := (rowEntries sc r.acts w.w (List.replicate w.n {})).map (fun e => readEntry .f32 .rne sc e)
  let row := tget v.rows {} (c.row0 + r.row)
  let ps := ((List.range w.n).zip outs).map (fun p =>
    pairOf (BitVec.ofNat 32 p.2.1) (c.ibase + BitVec.ofNat 32 (256 * i + p.1)))
  let row' := ps.foldl Row.present row
  let s := s.stepRows c.group none c.tile { v with rows := tset v.rows (c.row0 + r.row) row', dirty := v.dirty || row' != row }
    (some (c.row0 + r.row, ps))
  s.modGrp c.group (fun g =>
    { g with fstat := outs.foldl (fun x o => x ||| o.2.1) g.fstat, rstat := g.rstat || outs.any (fun o => o.2.2) })

/-- What an operation adds to its tiles, or presents to its lists. -/
def State.applyCmd (s : State) (ck : Nat) (c : MCmd) : State :=
  c.rows.foldl (fun s r =>
    ((List.range r.ws.length).zip r.ws).foldl (fun s w =>
      if c.rank then s.rankRow ck c r w.1 w.2 else s.addRow ck c r w.1 w.2) s) s

/-- The command that completes next: of those that have been streamed, the one whose last pass was earliest; a pair takes
64 cycles more (R314). -/
def State.nextDone (s : State) (ck hd : Nat) : Option (Bool × Nat × MCmd) :=
  let at' (hi : Bool) : Option (Bool × Nat × MCmd) :=
    let q := (s.arr ck hd).queue hi
    match q.findIdx? (·.streamed) with
    | none => none
    | some i => (q[i]?).map (fun c => (hi, i, c))
  let due (c : MCmd) : Nat := c.last + (if c.partner.isSome then 64 else 0)
  match at' true, at' false with
  | some a, some b => if due b.2.2 < due a.2.2 then some b else some a
  | some a, none => some a
  | none, b => b

/-- Whether a tile that a command adds to has an uncorrectable error. -/
def State.cmdFlawed (s : State) (ck : Nat) (c : MCmd) : Bool := (s.ownedTiles ck c).any (fun t => s.tileFlawed ck t)

/-- An operation completes in one step (R320). It waits while the group of its landing word is saved or the word's bank
switches; an uncorrectable error in a tile that it adds to faults it (R226), and in a tile of its partner both halves (R323). The half
that completes second does not fault any more, since the first has changed its tile (log 90). -/
def execMatrixOpComplete (cluster head : Nat) (s : State) : Host.Outcome State Fault Refusal :=
  match s.nextDone cluster head with
  | none => .next s
  | some (hi, i, c) =>
    let word := s.cmdWord c
    let p := s.partnerOf cluster head c
    if heldUp word then .next s
    else if s.cmdFlawed cluster c && (c.partner.isNone || p.isSome) then .next (s.failCmd cluster head hi i c 0x380 none)
    else
      match p.filter (fun p => s.cmdFlawed p.1 p.2.2.2.2) with
      | some (ck', hd', hi', i', c') => .next (s.failCmd ck' hd' hi' i' c' 0x380 none)
      | none => .next ((s.applyCmd cluster c).completeCmd cluster head hi i word)

/-! ### Pairs (R323, R324) -/

/-- A half that is ready and has no partner, of an array that has no pair (R307): queue, place, command. -/
def State.readyHalf (s : State) (ck hd : Nat) (side : BitVec 2) (key : Option (BitVec 16)) : Option (Bool × Nat × MCmd) :=
  if (s.arr ck hd).all.any (·.partner.isSome) then none
  else [true, false].findSome? (fun hi =>
    match s.running ck hd hi with
    | some (i, c) =>
      if c.ready.isSome && c.partner.isNone && c.pair == side && (match key with | some k => c.pkey == k | none => true) then some (hi, i, c)
      else none
    | none => none)

/-- The heads of the chains that meet at a cluster's east side. -/
def State.meeting (s : State) (ck : Nat) : Option (Nat × Nat × Nat) :=
  match eastOf ck with
  | none => none
  | some ek =>
    let w := s.chainOf ck 3
    let e := s.chainOf ek 0
    if w.east && e.west then some (w.first, ek, e.first) else none

/-- Two ready halves with equal PKEY pair, or abort with 0x2A9 where they disagree. -/
def execPairMatch (cluster : Nat) (s : State) : Host.Outcome State Fault Refusal :=
  match s.meeting cluster with
  | none => .next s
  | some (wh, ek, eh) =>
    let pick (k : Option (BitVec 16)) : Option ((Bool × Nat × MCmd) × (Bool × Nat × MCmd)) :=
      match s.readyHalf cluster wh 1 k with
      | none => none
      | some a => (s.readyHalf ek eh 2 (some a.2.2.pkey)).map (fun b => (a, b))
    -- the high heads' keys first, then the others
    let keys := ([true, false].filterMap (fun hi => (s.running cluster wh hi).map (fun p => some p.2.pkey)))
    match keys.findSome? pick with
    | none => .next s
    | some ((wq, wi, w), (eq, ei, e)) =>
      let k (ck hd : Nat) (hi : Bool) : Option Nat := ((s.arr ck hd).ctx hi).map (·.k)
      let agree := w.run.mcnt == e.run.mcnt && w.fmt == e.fmt && (s.grp w.group).grid == (s.grp e.group).grid &&
        (match k cluster wh wq, k ek eh eq with | some a, some b => a == b | _, _ => true)
      if agree then
        .next ((s.putCmd cluster wh wq wi { w with partner := some (ek, eh) }).putCmd ek eh eq ei { e with partner := some (cluster, wh) })
      else .next ((s.endCmd cluster wh wq wi (.faulted 0x2A9 none)).endCmd ek eh eq ei (.faulted 0x2A9 none))

/-- The pairing timeout of a group's grid (R324). -/
def State.pairTimeout (s : State) (g : Nat) : Nat :=
  let e := ((s.man g 7).extractLsb' 26 5).toNat
  2 ^ (if e = 0 then 16 else e)

/-- Halves of a grid and key that wait in the queues of an array abort. -/
def State.abortHalves (s : State) (ck hd grid : Nat) (key : BitVec 16) : State :=
  [true, false].foldl (fun s hi =>
    let q := (s.arr ck hd).queue hi
    let bad (c : MCmd) : Bool := c.op == 2 && c.pair != 0 && c.partner.isNone && c.pkey == key && (s.grp c.group).grid == grid
    (q.filter bad).foldl (fun s c =>
      match ((s.arr ck hd).queue hi).findIdx? (· == c) with
      | some i => s.endCmd ck hd hi i (.faulted 0x2A0 none)
      | none => s) s) s

/-- A ready half without a partner times out (R324). -/
def execPairingTimeout (cluster head : Nat) (s : State) : Host.Outcome State Fault Refusal :=
  let due (hi : Bool) : Option (Bool × Nat × MCmd) :=
    match s.running cluster head hi with
    | some (i, c) =>
      (match c.ready with
        | some t => if c.partner.isNone && decide (t + s.pairTimeout c.group ≤ s.now) then some (hi, i, c) else none
        | none => none)
    | none => none
  match (due true).orElse (fun _ => due false) with
  | none => .next s
  | some (hi, i, c) =>
    let grid := (s.grp c.group).grid
    let side : Option Nat := if c.pair = 1 then eastOf cluster else if cluster % 4 = 0 then none else some (cluster - 1)
    let other : Option Nat :=
      if c.pair = 1 then (s.meeting cluster).map (fun m => m.2.2)
      else if cluster % 4 = 0 then none
      else (s.meeting (cluster - 1)).map (fun m => m.1)
    let til := s.now + s.pairTimeout c.group
    let s := s.endCmd cluster head hi i (.faulted 0x2A0 none)
    match side with
    | none => .next s
    | some ck =>
      let s := match other with | some hd => s.abortHalves ck hd grid c.pkey | none => s
      .next (s.modArr ck (deadArray (if c.pair = 1 then 2 else 1)) (fun a =>
        { a with dead := (grid, c.pkey, til) :: a.dead.filter (fun d => decide (s.now ≤ d.2.2)) }))

/-- A grouped product whose rows are consumed and which is not closed for 2^20 cycles (R328). -/
def execMxgCloseTimeout (cluster head : Nat) (s : State) : Host.Outcome State Fault Refusal :=
  let due (hi : Bool) : Option (Bool × Nat × MCmd) :=
    match s.running cluster head hi with
    | some (i, c) =>
      if c.op == 3 && c.started && !c.closed && c.runs.isEmpty && c.bands.isEmpty && decide (c.last + 2 ^ 20 ≤ s.now) then some (hi, i, c)
      else none
    | none => none
  match (due true).orElse (fun _ => due false) with
  | some (hi, i, c) => .next (s.failCmd cluster head hi i c 0x2AA none)
  | none => .next s

/-! ### Instructions (R329 to R335) -/

/-- The address and the words of a record operand. -/
def readRecord (o : RecAt) : Exec MRec := do
  let x ← (match o with
    | .mem n m => specAddr n m 64 64
    | .abs a => pure (a.setWidth 56))
  checkAlign x 64 0x0C0 opB
  (List.range 8).mapM (fun i => do
    let bs ← loadBytes (x + BitVec.ofNat 56 (8 * i)) 8 opB
    pure (leWord bs))

/-- `mw`, `mx` and `mxg` from the record on (R330). -/
def issueCmd (op : Nat) (hn : BitVec 3) (o : RecAt) (table : Word) : Exec Unit := do
  let r ← readRecord o
  releaseSteps .pk
  let s ← get
  if s.mustStall s.myGrp r then waitFor .array
  else do
    newHandle hn (fun x => { x with engine := engMatrix })
    let s ← get
    let seq := (s.me.handle hn).seq
    match s.acceptCmd s.myGrp r (some op) table (some (s.cur, hn.toNat, seq)) none with
    | .ok s => set s
    | .error c => set (s.finish s.myGrp s.cur hn.toNat seq (.faulted c none))

/-- `mw` (R330). -/
def execMw (h : Hdr) (hn : BitVec 3) (rec : RecAt) (s : State) : Host.Outcome State Fault Refusal :=
  straight h (issueCmd 1 hn rec 0) s

/-- `mx` (R330). -/
def execMx (h : Hdr) (hn : BitVec 3) (rec : RecAt) (s : State) : Host.Outcome State Fault Refusal :=
  straight h (issueCmd 2 hn rec 0) s

/-- `mxg` (R330). -/
def execMxg (p : Pred) (hn : BitVec 3) (rec : Opnd) (table : Word) (s : State) : Host.Outcome State Fault Refusal :=
  straight ⟨.L, p⟩ (issueCmd 3 hn (match rec with | .mem n m => .mem n m | _ => .abs 0) table) s

/-- The array is held and heads its chain, or 0x2A2. -/
def headArray (a : Nat) : Exec Unit := do
  let s ← get
  if s.holdsArray s.myGrp a && (s.chainOf s.myClus a).first = a then pure () else faultOp 0x2A2

/-- The open grouped product of an array: queue, place, command. -/
def State.openProduct (s : State) (ck hd : Nat) : Option (Bool × Nat × MCmd) :=
  [true, false].findSome? (fun hi =>
    let q := (s.arr ck hd).queue hi
    match q.findIdx? (fun c => c.op == 3 && !c.closed) with
    | none => none
    | some i => (q[i]?).map (fun c => (hi, i, c)))

/-- `mxg.add` (R331). -/
def execMxgAdd (p : Pred) (arr : BitVec 2) (run : Opnd) (s : State) : Host.Outcome State Fault Refusal :=
  straight ⟨.M, p⟩ (do
    let x ← (match run with
      | .mem n m => specAddr n m 32 32
      | _ => pure 0)
    checkAlign x 32 0x0C0 opB
    let ws ← (List.range 4).mapM (fun i => do
      let bs ← loadBytes (x + BitVec.ofNat 56 (8 * i)) 8 opB
      pure (leWord bs))
    releaseSteps .pk
    headArray arr.toNat
    let s ← get
    let w2 := ws.getD 2 0
    let mcnt := (w2.extractLsb' 32 8).toNat
    match s.openProduct s.myClus arr.toNat with
    | none => faultOp 0x2A6
    | some (hi, i, c) =>
      if w2.extractLsb' 40 24 ≠ 0 || ws.getD 3 0 ≠ 0 || mcnt = 0 || 128 < c.total + mcnt + c.row0 then faultOp 0x2A6
      else
        match (s.viewCause s.myGrp (ws.getD 0 0)).orElse (fun _ => s.viewCause s.myGrp (ws.getD 1 0)) with
        | some cz => faultOp cz
        | none =>
          let r : Run := { src := ws.getD 0 0, tags := ws.getD 1 0, pitch := (w2.extractLsb' 0 32).toNat, mcnt := mcnt,
                           views := s.stagesOf s.myGrp }
          set (s.putCmd s.myClus arr.toNat hi i { c with runs := c.runs ++ [r], total := c.total + mcnt })) s

/-- `mxg.close` (R332). -/
def execMxgClose (p : Pred) (arr : BitVec 2) (s : State) : Host.Outcome State Fault Refusal :=
  straightS p (do
    headArray arr.toNat
    let s ← get
    match s.openProduct s.myClus arr.toNat with
    | none => faultOp 0x2A6
    | some (hi, i, c) => set (s.putCmd s.myClus arr.toNat hi i { c with closed := true })) s

/-- `mchain` (R333, R465). -/
def execMchain (p : Pred) (hn : BitVec 3) (cfg : ChainCfg) (s : State) : Host.Outcome State Fault Refusal :=
  straightS p (do
    let s ← get
    let c : Chain := { first := cfg.first.toNat, cnt := cfg.cntM1.toNat + 1, west := cfg.west, east := cfg.east }
    let col := s.myClus % 4
    let on (ck : Nat) : Bool := (s.pkg s.myPkg).enabled.contains (ck % 64)
    if 4 < c.first + c.cnt || !c.arrays.all (fun a => s.holdsArray s.myGrp a) || (c.east && c.west) ||
        (c.east && (c.first + c.cnt ≠ 4 || col = 3 || !on (s.myClus + 1))) ||
        (c.west && (c.first ≠ 0 || col = 0 || !on (s.myClus - 1))) then faultOp 0x2A2
    else do
      newHandle hn (fun x => { x with engine := engMatrix })
      let s ← get
      let l : Link := { cfg := c, handle := (s.cur, hn.toNat, (s.me.handle hn).seq) }
      set (s.modClus s.myClus (fun k => { k with links := k.links ++ [l] }))) s

/-- Once the affected arrays are idle the chain is linked, and the handle completes (R333). An `mchain` waits for an
earlier one that affects one of its arrays. -/
def execMchainLink (cluster first : Nat) (s : State) : Host.Outcome State Fault Refusal :=
  let ls := (s.clus cluster).links
  match ls.findIdx? (fun l => l.cfg.first = first) with
  | none => .next s
  | some i =>
    match ls[i]? with
    | none => .next s
    | some l =>
      let arrs := s.linkArrays cluster l.cfg
      let earlier := (ls.take i).any (fun e => (s.linkArrays cluster e.cfg).any (fun a => arrs.contains a))
      let idle := arrs.all (fun a => (s.arr cluster a).all.isEmpty)
      if earlier || !idle then .next s
      else
        let s := s.modClus cluster (fun k => { k with links := k.links.eraseIdx i })
        let s := arrs.foldl (fun s a => s.modArr cluster a (fun v => { v with chain := none })) s
        let s := l.cfg.arrays.foldl (fun s a => s.modArr cluster a (fun v => { v with chain := some l.cfg })) s
        let (k, n, q) := l.handle
        .next (s.finish ((s.thr k).group.getD 0) k n q .complete)

/-- `mq` (R334). -/
def execMq (p : Pred) (arr : BitVec 2) (hi : Bool) (s : State) : Host.Outcome State Fault Refusal :=
  straightS p (do
    headArray arr.toNat
    modify (fun s => s.modArr s.myClus arr.toNat (fun a => { a with high := hi }))) s

/-- Whether an operation of a command is between its first pass and its last. -/
def MCmd.streaming (c : MCmd) : Bool := c.started && !c.streamed && (!c.bands.isEmpty || !c.runs.isEmpty)

/-- The value of `mstat` (R335). The queues, the selection and an open product are the array's own; those of an array
that is no head hold nothing. An array streams and swaps with the head of its chain. -/
def State.mstat (s : State) (ck a : Nat) : Word :=
  let v := s.arr ck a
  let c := s.chainOf ck a
  let head := s.arr ck c.first
  let busy := decide (s.now < head.busy) || head.all.any MCmd.streaming
  let opened := v.all.any (fun c => c.op == 3 && !c.closed)
  ((0 : BitVec 32) ++ BitVec.ofNat 5 v.qh.length ++ BitVec.ofNat 5 v.qn.length ++ boolBit opened ++ boolBit busy ++
    boolBit v.high ++ boolBit v.ch.isSome ++ boolBit v.cn.isSome ++ boolBit true ++ (0 : BitVec 10) ++ boolBit c.west ++
    boolBit c.east ++ BitVec.ofNat 2 (c.cnt - 1) ++ BitVec.ofNat 2 c.first)

/-- `mstat` (R335). -/
def execMstat (p : Pred) (arr : BitVec 2) (s : State) : Host.Outcome State Fault Refusal :=
  straightS p (do
    let s ← get
    let held := s.holdsArray s.myGrp arr.toNat
    setA (if held then s.mstat s.myClus arr.toNat else 0)
    modFlags (fun f => { f with z := !held, n := false, c := false, v := false })) s

/-! ### Follow-on commands (R273) -/

/-- After the copy's last beat its engine reads the follow-on record and issues it; the copy waits while the command
would stall. -/
def execFollowOnIssue (cluster chan tid : Nat) (s : State) : Host.Outcome State Fault Refusal :=
  match (s.channel cluster chan).xfers.find? (fun x => x.id = tid) with
  | none => .next s
  | some x =>
    if x.req.fo = 0 || x.followed || x.finished || x.cause.isSome || x.cancelled || !x.settledBeats then .next s
    else
      let g := x.req.group
      match (engRecord g (some x.req.op) (s.stagesOf g) [] x.req.fo 8).run s with
      | (.error none, s) => .next s
      | (.error (some (cz, a)), s) => .next (s.failXfer cluster chan x cz a)
      | (.ok r, s) =>
        if s.mustStall g r then .next s
        else
          match s.acceptCmd g r none 0 none (some x.req.op) with
          | .error _ => .next (s.failXfer cluster chan x 0x2C7 none)
          | .ok s => .next (s.noteXfer cluster chan { x with followed := true })

end Sys2Proof.Machine
end

