-- ==== Sys2Proof/Machine/Cancel.lean ====
section
/-! DEFINITION. Waiting on, testing and cancelling handles (R274 to R276, R336). -/
namespace Sys2Proof.Machine

/-- Whether an operation (thread, handle, SEQ) is one of a handle register up to a SEQ. -/
def upTo (k n : Nat) (seq : W32) (k' n' : Nat) (seq' : W32) : Bool := k' == k && n' == n && decide (seq' ≤ seq)

/-- Whether an operation of a handle register with a SEQ up to the given one has not ended, detached ones included. -/
def State.opLive (s : State) (k n : Nat) (seq : W32) : Bool :=
  let c := s.clus (clusterOf (coreOf k))
  let req (r : Req) : Bool := upTo k n seq r.thread r.h r.seq
  let hd (h : Option (Nat × Nat × W32)) : Bool := match h with | some x => upTo k n seq x.1 x.2.1 x.2.2 | none => false
  (s.core (coreOf k)).fifo.any req || c.armed.any (fun a => req a.req) || c.fired.any req ||
    c.channels.any (fun e => e.2.xfers.any (fun x => !x.finished && req x.req)) ||
    c.banks.any (fun e => e.2.queue.any (fun w => hd w.handle)) || c.arrays.any (fun e => e.2.all.any (fun m => hd m.handle)) ||
    c.links.any (fun l => hd (some l.handle))

/-- `hwait` on a token (R274). -/
def waitToken (v : Word) : Exec Unit := do
  let s ← get
  let k := s.myClus * 256 + (v.extractLsb' 44 4).toNat * 16 + (v.extractLsb' 40 4).toNat
  let n := v.extractLsb' 37 3
  let seq : W32 := v.extractLsb' 0 32
  let x := (s.thr k).handle n
  if v.extractLsb' 48 16 ≠ 0 || v.extractLsb' 32 5 ≠ 0 || (s.thr k).group.isNone || (s.thr k).group != s.me.group || x.seq < seq then
    faultOp 0x0E0
  else if s.opLive k n.toNat seq then do
    modMe (fun t => { t with watch := some (8 * k + n.toNat) })
    moor 0 n.toNat 0
  else do
    acquireSteps .pk
    let cur := decide (x.seq = seq)
    modFlags (fun f => { f with z := false, p := cur && x.st == .complete, v := cur && x.st == .faulted, c := cur && x.st == .cancelled })

/-- `hwait` (R274). -/
def execHwait (p : Pred) (on : WaitOn) (s : State) : Host.Outcome State Fault Refusal :=
  straightS p (do
    sampleAbort
    match on with
    | .handle h => do
      let t ← getMe
      if (t.handle h).st = .pending then readHandle h
      else do
        acquireSteps .pk
        readHandle h
    | .token src => do
      let v ← readSrc src 8 opB
      waitToken v) s

/-- STATE of a handle (R251). -/
def HState.code : HState → BitVec 2
  | .complete => 0
  | .pending => 1
  | .faulted => 2
  | .cancelled => 3

/-- The status word of `htest` (R275). -/
def Handle.status (x : Handle) : Word :=
  x.st.code ++ (if x.st = .faulted || x.st = .cancelled then x.cause else 0) ++ x.chan ++ x.tid

/-- The token of a handle's operation (R251). -/
def handleToken (k : Nat) (n : BitVec 3) (x : Handle) : Word :=
  (0 : BitVec 16) ++ BitVec.ofNat 4 (coreOf k % 16) ++ BitVec.ofNat 4 (slotOf k) ++ n ++ (0 : BitVec 5) ++ x.seq

/-- `htest` (R275); a handle that it finds completed is observed (R202). -/
def execHtest (p : Pred) (hn : BitVec 3) (tok : Bool) (s : State) : Host.Outcome State Fault Refusal :=
  straightS p (do
    let s ← get
    let x := s.me.handle hn
    if x.st = .pending then pure () else acquireSteps .pk
    setA (if tok then handleToken s.cur hn x else x.status)
    modFlags (fun f => { f with z := x.st == .pending, p := x.st == .complete, v := x.st == .faulted, c := x.st == .cancelled, n := false })) s

/-- What `hcancel` finds. -/
inductive Cancelled where
  /-- cancelled at once, or from its next boundary on -/
  | yes (s : State)
  /-- its end is awaited -/
  | no
  deriving DecidableEq, Repr

/-- A command of a matrix array is cancelled (R336). -/
def State.cancelMatrix (s : State) (ck hd : Nat) (hi : Bool) (i : Nat) (c : MCmd) : Cancelled :=
  if c.partner.isSome || c.streamed then .no
  else if c.started then .yes (s.putCmd ck hd hi i { c with stop := true })
  else
    let s := if c.op = 1 then s.modArr ck c.array (fun a => a.setCtx hi none) else s
    .yes (s.endCmd ck hd hi i (.cancelled 0x2A7))

/-- The operation SEQ of a handle register is cancelled (R276); one that has stopped on a fault is not. -/
def State.cancelOp (s : State) (k n : Nat) (seq : W32) : Cancelled :=
  let ck := clusterOf (coreOf k)
  let c := s.clus ck
  let is (r : Req) : Bool := r.thread == k && r.h == n && r.seq == seq
  let g := (s.thr k).group.getD 0
  let over' (s : State) : Cancelled := .yes (s.finish g k n seq (.cancelled 0x2C5))
  match (s.core (coreOf k)).fifo.findIdx? is with
  | some i => over' (s.fifoErase (coreOf k) i)
  | none =>
    match c.armed.find? (fun a => is a.req) with
    | some a => over' ((s.modClus ck (fun c => { c with armed := c.armed.filter (· != a) })).armLess a.loc)
    | none =>
      if c.fired.any is then over' (s.modClus ck (fun c => { c with fired := c.fired.filter (fun r => !is r) }))
      else
        match c.channels.findSome? (fun e => (e.2.xfers.find? (fun x => !x.finished && is x.req)).map (fun x => (e.1, x))) with
        | some (ch, x) => if x.cause.isSome then .no else .yes (s.noteXfer ck ch { x with cancelled := true })
        | none =>
          let hit : Option (Nat × Bool × Nat × MCmd) :=
            (List.range 4).findSome? (fun a => [true, false].findSome? (fun hi =>
              let q := (s.arr ck a).queue hi
              match q.findIdx? (fun m => m.handle == some (k, n, seq)) with
              | none => none
              | some i => (q[i]?).map (fun m => (a, hi, i, m))))
          match hit with
          | some (a, hi, i, m) => s.cancelMatrix ck a hi i m
          | none => .no

/-- `hcancel` (R276): it stalls until the handle is no longer pending; `sent` says whether it has cancelled the operation. -/
def execHcancel (p : Pred) (hn : BitVec 3) (s : State) : Host.Outcome State Fault Refusal :=
  straightS p (do
    let s ← get
    let x := s.me.handle hn
    if x.st ≠ .pending then modFlags (fun f => { f with p := s.me.sent == some none })
    else if s.me.sent.isSome then waitFor .reply
    else
      match s.cancelOp s.cur hn.toNat x.seq with
      | .no => do
        modMe (fun t => { t with sent := some (some 0) })
        waitFor .reply
      | .yes s' => do
        set s'
        if (s'.me.handle hn).st ≠ .pending then modFlags (fun f => { f with p := true })
        else do
          modMe (fun t => { t with sent := some none })
          waitFor .reply) s

end Sys2Proof.Machine
end

