-- ==== Sys2Proof/Machine/Banks.lean ====
section
/-! DEFINITION. `bank` and the completion of a bank's switches (R169, R170, R182). -/
namespace Sys2Proof.Machine

/-! ### Operations that name a bank (R169) -/

/-- Whether n bytes at an address meet a scratchpad slot of a group, through window kind 000 or 011 (R156, R159). -/
def State.rangeInSlot (s : State) (g : Nat) (x : Word) (n slot : Nat) : Bool :=
  let gr := s.grp g
  let w0 : Word := 0x0080000000000000 ||| BitVec.ofNat 64 (slot * 2 ^ 19)
  let w3 : Word := 0x00B0000000000000 ||| BitVec.ofNat 64 (gr.cluster % 64 * 2 ^ 42 + gr.gtag % 256 * 2 ^ 24 + slot * 2 ^ 19)
  let v := x.toNat % 2 ^ 56
  [w0, w3].any (fun w => decide (v < w.toNat + 2 ^ 19) && decide (w.toNat < v + n))

/-- Whether the n elements of a side meet a slot. -/
def State.sideInSlot (s : State) (g : Nat) (d : Side) (n slot : Nat) : Bool :=
  !d.remote &&
    (match d.dims with
      | [(_, st)] =>
        if st = BitVec.ofNat 64 d.esize then s.rangeInSlot g d.base (n * d.esize) slot
        else (List.range n).any (fun i => s.rangeInSlot g (d.elemAt i) d.esize slot)
      | _ => (List.range n).any (fun i => s.rangeInSlot g (d.elemAt i) d.esize slot))

/-- Whether a landing word of a group stands in a slot. -/
def landInSlot (land : Option (Nat × Nat)) (g slot : Nat) : Bool :=
  match land with
  | some l => l.1 == g && l.2 / 2 ^ 19 == slot
  | none => false

/-- Whether a transfer names a slot of its group: with an element or its landing word. -/
def State.xferNames (s : State) (x : Xfer) (slot : Nat) : Bool :=
  let g := x.req.group
  let n := (x.beats.map (·.n)).foldl (· + ·) 0
  !x.finished && (s.sideInSlot g x.src n slot || s.sideInSlot g x.dst n slot || landInSlot x.land g slot)

/-- A shape record as it stands: the engine's copy, or the bytes of its memory. -/
def State.peekShape (s : State) (g : Nat) (x : Word) : Option Shape :=
  let va := x.toNat % 2 ^ 56
  match (s.clus (s.grp g).cluster).shapes.find? (fun e => e.1 == (s.grid (s.grp g).grid).part && e.2.1 == va) with
  | some e => parseShape e.2.2
  | none =>
    let loc := if x.getLsbD 55 then (s.engAddr g (x.setWidth 56) 256 ⟨true, false⟩ none none).1
      else s.walkAddr (s.rootOf g) va (packageOf (s.grp g).cluster) ⟨true, false⟩
    match loc with
    | .at loc => parseShape (memBytes s.mem loc 256)
    | _ => none

/-- Whether a request that no channel has taken names a slot: by what its words and its records say now. -/
def State.reqNames (s : State) (r : Req) (slot : Nat) : Bool :=
  let a := if r.ssh then s.peekShape r.group r.w1 else none
  let b := if r.dsh then s.peekShape r.group r.w2 else none
  if (r.ssh && a.isNone) || (r.dsh && b.isNone) then false
  else
    match pairing r a b with
    | none => false
    | some (n, sz, dz) =>
      s.sideInSlot r.group (s.sideOf r.group r.srem a r.w1 n sz) n slot || s.sideInSlot r.group (s.sideOf r.group r.drem b r.w2 n dz) n slot ||
        (match s.landingRef r.group (packageOf (s.grp r.group).cluster) r.w3 with
          | .ok l => landInSlot l r.group slot
          | .error _ => false)

/-- Whether a matrix command names a slot: with a run of its rows or its tags, its table or records, its completion. What those records
and tables name in turn does not count (log 76). -/
def State.cmdNames (s : State) (c : MCmd) (slot : Nat) : Bool :=
  let g := c.group
  let k := (((s.arr (s.grp g).cluster c.array).ctx false).map (·.k)).getD 256
  let run (r : Run) : Bool :=
    let rows := if c.op = 1 then c.k else r.mcnt
    let n := matrixRowBytes c.fmt (if c.op = 1 then c.n else k)
    (List.range rows).any (fun i => s.rangeInSlot g (r.src + BitVec.ofNat 64 (i * r.pitch)) n slot) ||
      (c.op == 3 && s.rangeInSlot g r.tags (2 * r.mcnt) slot)
  (if c.op = 3 then c.runs.any run else run c.run) || (c.aux != 0 && s.rangeInSlot g c.aux (if c.op = 3 then 16 + 16 * c.nexp else 64) slot) ||
    landInSlot c.land g slot

/-- The engine operations of a bank's group that name the bank, of those that are under way: in a request FIFO, fired, on a channel, or
in a queue of an array. An armed request is none yet (R235). -/
def State.opsNaming (s : State) (ck b : Nat) : List OpId :=
  match (s.bank ck b).group with
  | none => []
  | some g =>
    match (s.grp g).slotOfBank b with
    | none => []
    | some slot =>
      let reqs := ((List.range 16).flatMap (fun i => (s.core (ck * 16 + i)).fifo) ++ (s.clus ck).fired).filter (fun r => r.group == g && s.reqNames r slot)
      let xs := (s.clus ck).channels.flatMap (fun c => c.2.xfers.filter (fun x => x.req.group == g && s.xferNames x slot))
      let cs := (s.clus ck).arrays.flatMap (fun a => a.2.all.filter (fun c => c.group == g && s.cmdNames c slot))
      reqs.map Req.op ++ xs.map (·.req.op) ++ cs.filterMap MCmd.opId

/-- Whether an access to a bank is on its way: a message, or a thread that goes on with what its addresses named (R170). -/
def State.bankInFlight (s : State) (ck b : Nat) : Bool :=
  let here (loc : Nat) : Bool := decide (bankLoc ck b 0 ≤ loc) && decide (loc < bankLoc ck b 0 + 2 ^ 19)
  let msg (m : Msg) : Bool := here m.loc
  s.cores.any (fun c => c.2.path.any msg) || s.clusters.any (fun c => c.2.outbox.any msg) || s.chans.any (fun e => e.2.2.any msg) ||
    s.threads.any (fun e => e.2.located.any (fun t => match t.2 with | some (.at loc _) => here loc | _ => false))

/-! ### The instruction and its completion -/

/-- `bank` (R182). -/
def execBank (h : Hdr) (hn : BitVec 3) (arg : BankArg) (z : Bool) (s : State) : Host.Outcome State Fault Refusal :=
  straight h (do
    let t ← getMe
    let (m, b) := match arg with
      | .imm m b => (m, b.toNat)
      | .acc => (t.a.extractLsb' 5 2, (t.a.extractLsb' 0 5).toNat)
    let s ← get
    let bk := s.bank s.myClus b
    match bankModeOf m with
    | none => faultOp 0x110
    | some mode =>
      if b < 4 || bk.group.isNone || bk.group != s.me.group then faultOp 0x110
      else if bk.port.isSome then faultOp 0x111
      else if bk.ring.isSome || s.bankArmed s.myClus b then faultOp 0x112
      else do
        let ops := s.opsNaming s.myClus b
        newHandle hn (fun x => { x with engine := engBank })
        let s ← get
        let seq := (s.me.handle hn).seq
        set (s.setBank s.myClus b
          { s.bank s.myClus b with
            queue := (s.bank s.myClus b).queue ++ [{ mode := mode, z := z, handle := some (s.cur, hn.toNat, seq), ops := ops }] })) s

/-- Whether a bank's oldest switch waits: for accesses that came before it, and, where the bank leaves scratchpad mode, for the
operations that were under way when its `bank` issued and that name the bank still (R169, R170). -/
def State.switchWaits (s : State) (ck b : Nat) (q : Switch) : Bool :=
  s.bankInFlight ck b ||
    ((s.bank ck b).mode == .sp && q.mode != .sp && q.ops.any (fun o => (s.opsNaming ck b).contains o))

/-- The oldest switch of a bank takes effect (R169, R170). A linked bank changes no mode (R63). -/
def execBankSwitchComplete (cluster bank : Nat) (s : State) : Host.Outcome State Fault Refusal :=
  let bk := s.bank cluster bank
  match bk.queue with
  | [] => .next s
  | q :: qs =>
    if bk.port.isSome || s.switchWaits cluster bank q then .next s
    else
      let s := s.enterMode cluster bank q.mode q.z
      let s := s.setBank cluster bank { s.bank cluster bank with queue := qs }
      match q.handle with
      | none => .next s
      | some (k, n, seq) => .next (s.finish (bk.group.getD 0) k n seq .complete)

end Sys2Proof.Machine
end

