-- ==== Sys2Proof/Machine/Digest.lean ====
section
/-! DEFINITION. SHAKE256, which R416, R451 and R464 name: the sponge of FIPS 202 with a rate of 136 bytes (log 29). -/
namespace Sys2Proof.Machine

/-- The rotation of lane x + 5 y, for x and y from 0 to 4. -/
def keccakRot : List Nat :=
  [0, 1, 62, 28, 27, 36, 44, 6, 55, 20, 3, 10, 43, 25, 39, 41, 45, 15, 21, 8, 18, 2, 61, 56, 14]

/-- The constants of the 24 rounds. -/
def keccakRounds : List Word :=
  [0x0000000000000001, 0x0000000000008082, 0x800000000000808A, 0x8000000080008000, 0x000000000000808B, 0x0000000080000001,
   0x8000000080008081, 0x8000000000008009, 0x000000000000008A, 0x0000000000000088, 0x0000000080008009, 0x000000008000000A] ++
  [0x000000008000808B, 0x800000000000008B, 0x8000000000008089, 0x8000000000008003, 0x8000000000008002, 0x8000000000000080,
   0x000000000000800A, 0x800000008000000A, 0x8000000080008081, 0x8000000000008080, 0x0000000080000001, 0x8000000080008008]

/-- One round on the 25 lanes. -/
def keccakRound (a : List Word) (rc : Word) : List Word :=
  let at' (l : List Word) (i : Nat) : Word := l.getD i 0
  let col := (List.range 5).map (fun x => at' a x ^^^ at' a (x + 5) ^^^ at' a (x + 10) ^^^ at' a (x + 15) ^^^ at' a (x + 20))
  let d := (List.range 5).map (fun x => at' col ((x + 4) % 5) ^^^ (at' col ((x + 1) % 5)).rotateLeft 1)
  let t := (List.range 25).map (fun i => (at' a i ^^^ at' d (i % 5)).rotateLeft (keccakRot.getD i 0))
  -- lane (x, y) comes from lane (x + 3 y, x)
  let b := (List.range 25).map (fun i => at' t ((i % 5 + 3 * (i / 5)) % 5 + 5 * (i % 5)))
  let c := (List.range 25).map (fun i =>
    at' b i ^^^ (~~~(at' b (i / 5 * 5 + (i + 1) % 5)) &&& at' b (i / 5 * 5 + (i + 2) % 5)))
  (c.headD 0 ^^^ rc) :: c.tail

/-- The permutation. -/
def keccak (a : List Word) : List Word := keccakRounds.foldl keccakRound a

/-- A 64-bit word of bytes, the least significant first. -/
def laneOf (bs : List Byte) : Word := BitVec.ofNat 64 (bs.foldr (fun b n => b.toNat + 256 * n) 0)

/-- The bytes of a lane. -/
def laneBytes (w : Word) : List Byte := (List.range 8).map (fun i => (w >>> (8 * i)).setWidth 8)

/-- Takes in one block of 136 bytes. -/
def absorb (a : List Word) (block : List Byte) : List Word :=
  keccak ((List.range 25).map (fun i => a.getD i 0 ^^^ laneOf ((block.drop (8 * i)).take 8)))

/-- SHAKE256 of a list of bytes, cut to `n` bytes, at most one block. -/
def shake256 (bytes : List Byte) (n : Nat) : List Byte :=
  let full := bytes.length / 136
  let rest := bytes.drop (136 * full)
  let last := rest ++ [if rest.length = 135 then 0x9F else 0x1F] ++ List.replicate (134 - rest.length) 0 ++
    (if rest.length = 135 then [] else [0x80])
  let a := (List.range full).foldl (fun a i => absorb a ((bytes.drop (136 * i)).take 136)) (List.replicate 25 0)
  (((absorb a last).take 17).flatMap laneBytes).take n

end Sys2Proof.Machine
end

