-- ==== Sys2Proof/Machine/Budgets.lean ====
section
/-! DEFINITION. Region budgets (R438, R439), the event rings of berths (R446 to R448), and manifests (R371, R372). -/
namespace Sys2Proof.Machine

/-! ### Budgets -/

def State.part (s : State) (p : Nat) : Part := tget s.parts {} p
def State.setPart (s : State) (p : Nat) (v : Part) : State := { s with parts := tset s.parts p v }
def State.berth (s : State) (bk : Nat) : Berth := tget s.berths {} bk
def State.setBerth (s : State) (bk : Nat) (v : Berth) : State := { s with berths := tset s.berths bk v }
def State.modBerth (s : State) (bk : Nat) (f : Berth → Berth) : State := s.setBerth bk (f (s.berth bk))

/-- The region control block of a region (R438). One that nobody has written inherits everything (log 23). -/
def State.rcb (s : State) (part r : Nat) : Rcb := tget (s.part part).regions {} r

/-- The slices of a partition, with their packages, all of one pod (R13). -/
def State.slicesOf (s : State) (part : Nat) : List (Nat × Slice) :=
  s.packages.flatMap (fun e => (e.2.slices.filter (fun x => s.partKey e.1 x.part == part)).map (fun x => (e.1, x)))

/-- The drain limit of a partition's slice on a package (R235, R436). -/
def State.drainLimit (s : State) (part p : Nat) : Nat :=
  match (s.pkg p).slices.find? (fun x => s.partKey p x.part == part) with
  | some x => x.drain
  | none => 2 ^ 18

/-- The capacity of a partition for budget i, where the spec gives one. -/
def State.capacity (s : State) (part i : Nat) : Option Nat :=
  let sl := s.slicesOf part
  let cs := (sl.map (fun x => x.2.clusters.length)).foldl (· + ·) 0
  match i with
  | 0 => some (256 * cs)
  | 1 => some (16 * cs)
  | 2 => some (28 * cs)
  | 3 => some (8 * cs)
  | 4 => some (65536 * (sl.map (fun x => x.2.units.length)).foldl (· + ·) 0)
  | 6 => some (64 * cs)
  | _ => none

/-- The value of a budget field that inherits. -/
def inherits : W32 := 0xFFFFFFFF

/-- A region and its ancestors. -/
def State.lineage (s : State) (part : Nat) : Nat → Nat → List Nat
  | 0, _ => []
  | n + 1, r => r :: (if (s.rcb part r).parent = 0 then [] else s.lineage part n (s.rcb part r).parent)

def State.ancestors (s : State) (part r : Nat) : List Nat := s.lineage part ((s.part part).regions.length + 1) r

/-- The effective budget of a region (R439): the first that does not inherit, else the partition's capacity. -/
def State.budget (s : State) (part i r : Nat) : Option Nat :=
  match ((s.ancestors part r).map (fun x => (s.rcb part x).bud.getD i inherits)).find? (· ≠ inherits) with
  | some b => some b.toNat
  | none => s.capacity part i

def State.used (s : State) (part i r : Nat) : Nat := (s.rcb part r).used.getD i 0

/-- USE i of a region becomes n. -/
def State.setUsed (s : State) (part i r n : Nat) : State :=
  let v := s.part part
  let b := s.rcb part r
  let u := (List.range 9).map (fun j => if j = i then n else b.used.getD j 0)
  s.setPart part { v with regions := tset v.regions r { b with used := u } }

/-- A charge of n against budget i of a region; none where it fails. -/
def State.charge (s : State) (part i r n : Nat) : Option State :=
  if n = 0 then some s
  else
    let rs := s.ancestors part r
    if rs.all (fun x => match s.budget part i x with | some b => decide (s.used part i x + n ≤ b) | none => true) then
      some (rs.foldl (fun s x => s.setUsed part i x (s.used part i x + n)) s)
    else none

/-- A charge is released. -/
def State.release (s : State) (part i r n : Nat) : State :=
  if n = 0 then s else (s.ancestors part r).foldl (fun s x => s.setUsed part i x (s.used part i x - n)) s

/-- Several charges, all or none. -/
def State.chargeAll (s : State) (part r : Nat) : List (Nat × Nat) → Option State
  | [] => some s
  | (i, n) :: cs =>
    match s.charge part i r n with
    | none => none
    | some s => s.chargeAll part r cs

def State.releaseAll (s : State) (part r : Nat) (cs : List (Nat × Nat)) : State :=
  cs.foldl (fun s c => s.release part c.1 r c.2) s

/-! ### Event rings -/

/-- The entries of a ring whose size register holds v: none below the least size that R446 gives. -/
def ringLen (v : Word) (least most : Nat) : Nat :=
  let n := (v.extractLsb' 0 4).toNat
  if n < least || most < n then 0 else 2 ^ n

/-- Whether the event ring takes no entry. -/
def Berth.eventsFull (b : Berth) : Bool :=
  let n := ringLen b.ersize 4 14
  decide (n = 0) || decide ((b.ertail + 1) % n = b.erhead % n)

/-- The MSI-X vector of an entry of the event ring, by its KIND (R444): a completion, a grid that is done, an error, another event
(log 82). -/
def vectorOf (e : BitVec 128) : Fin 4 :=
  match (e.extractLsb' 16 8).toNat with
  | 0 => 0
  | 1 => 1
  | 2 | 3 => 2
  | _ => 3

/-- A message on a vector. -/
def Berth.signal (b : Berth) (v : Fin 4) : Berth := { b with msix := b.msix.set v (b.msix[v] + 1) }

/-- Pending events enter the ring as long as it has room; each is signalled. -/
def State.flush (s : State) (bk : Nat) : Nat → State
  | 0 => s
  | fuel + 1 =>
    let b := s.berth bk
    match b.events with
    | [] => s
    | e :: es =>
      if b.eventsFull then s
      else
        let s := { s with hostMem := memWrite s.hostMem (b.erbase.toNat + 16 * b.ertail) (leBytes e.toNat 16) }
        let n := ringLen b.ersize 4 14
        (s.setBerth bk ({ b with events := es, ertail := (b.ertail + 1) % n }.signal (vectorOf e))).flush bk fuel

/-- A completion or event of R447 and R448. -/
def eventWord (result : Word) (status kind : BitVec 8) (tag : BitVec 16) : BitVec 128 :=
  result ++ (0 : BitVec 32) ++ status ++ kind ++ tag

/-- An event is written to a berth's ring, or kept pending while the ring is full. -/
def State.post (s : State) (bk : Nat) (e : BitVec 128) : State :=
  (s.modBerth bk (fun b => { b with events := b.events ++ [e] })).flush bk ((s.berth bk).events.length + 1)

/-! ### Commands (R447, R448) -/

/-- The berth of a command. -/
def cmdKey (c : Cmd) : Nat := berthKey c.package (c.berth.getD 256)

/-- STATUS of a completion. -/
def stOk : BitVec 8 := 0
def stBad : BitVec 8 := 1
def stPerm : BitVec 8 := 2
def stBudget : BitVec 8 := 3
def stBusy : BitVec 8 := 4
def stRes : BitVec 8 := 5
def stSig : BitVec 8 := 6
def stFault : BitVec 8 := 7

/-- The 64-byte command at CRHEAD, where there is one. -/
def State.command (s : State) (bk : Nat) : Option (List Byte) :=
  let b := s.berth bk
  let n := ringLen b.crsize 4 12
  if n = 0 || b.crhead = b.crtail then none else some (memBytes s.hostMem (b.crbase.toNat + 64 * b.crhead) 64)

/-- Whether a command is the next that Keel performs: the ring holds it at CRHEAD, the event ring takes its completion, no
reset of the berth is under way, and no launch of the ring is on its way to the pod head. -/
def State.cmdReady (s : State) (c : Cmd) (opc : BitVec 8 → Bool) : Bool :=
  let b := s.berth (cmdKey c)
  b.events.isEmpty && !b.eventsFull && b.resetting.isNone && !s.launches.any (fun l => match l.host with | some h => cmdKey h == cmdKey c | none => false) &&
    (match s.command (cmdKey c) with
      | some bs => opc (bs.getD 0 0) && leVal ((bs.drop 2).take 2) == c.tag.toNat
      | none => false)

/-- A command is complete: CRHEAD passes it, and its completion follows. -/
def State.cmdDone (s : State) (c : Cmd) (status : BitVec 8) (result : Word) : State :=
  let s := s.modBerth (cmdKey c) (fun b => { b with crhead := (b.crhead + 1) % ringLen b.crsize 4 12 })
  s.post (cmdKey c) (eventWord result status 0 c.tag)

/-- As `cmdDone`, where the spec gives RESULT only the bits of a mask: the others are free. -/
def State.cmdOpen (s : State) (c : Cmd) (status : BitVec 8) (mask v : Word) : State :=
  { s with tick := s.tick + 1 }.cmdDone c status ((Config.freeWord s.tick &&& ~~~mask) ||| v)

/-- As `cmdDone`, where the spec gives no RESULT: it is free. -/
def State.cmdFree (s : State) (c : Cmd) (status : BitVec 8) : State := s.cmdOpen c status 0 0

/-! ### Manifests (R371, R388) -/

/-- The words of a manifest; none for an empty one. -/
def State.mfWords (s : State) (bk mf : Nat) : List Word := tget (s.berth bk).mfs [] mf

/-- STATE of a manifest: 0 empty, 1 built, 2 armed. -/
def mfState (w : List Word) : Nat := ((w.getD 20 0).extractLsb' 0 2).toNat

/-- Word i of a manifest. -/
def mfWord (w : List Word) (i : Nat) : Word := w.getD i 0

/-- Word i of a manifest becomes v. -/
def mfSet (w : List Word) (i : Nat) (v : Word) : List Word := (List.range 32).map (fun j => if j = i then v else w.getD j 0)

def State.putMf (s : State) (bk mf : Nat) (w : List Word) : State := s.modBerth bk (fun b => { b with mfs := tset b.mfs mf w })

/-- Fields of word 6. -/
def mfT (w : List Word) : Nat := ((mfWord w 6).extractLsb' 0 8).toNat + 1
def mfE (w : List Word) : Nat := ((mfWord w 6).extractLsb' 8 8).toNat
def mfTowk (w : List Word) : Nat := ((mfWord w 6).extractLsb' 16 5).toNat
def mfPorts (w : List Word) : Nat := ((mfWord w 6).extractLsb' 21 3).toNat
def mfSpb (w : List Word) : Nat := ((mfWord w 6).extractLsb' 24 5).toNat
def mfFifob (w : List Word) : Nat := ((mfWord w 6).extractLsb' 29 5).toNat
def mfRings (w : List Word) : Nat := ((mfWord w 6).extractLsb' 34 4).toNat
def mfBars (w : List Word) : Nat := ((mfWord w 6).extractLsb' 38 6).toNat
def mfTiles (w : List Word) : List Nat := (List.range 16).filter (fun i => (mfWord w 6).getLsbD (44 + i))
def mfArrays (w : List Word) : List Nat := (List.range 4).filter (fun i => (mfWord w 6).getLsbD (60 + i))
def mfRegion (w : List Word) : Nat := ((mfWord w 19).extractLsb' 32 16).toNat

/-- The executable page of a root at an address in a generation. -/
def State.codePage (s : State) (root gen : Nat) (x : Addr) : Option CodeMap :=
  s.codeMaps.find? (fun m => m.root == root && decide (m.va ≤ x.toNat) && decide (x.toNat < m.va + 2 ^ m.size) && m.serves gen)

/-- Whether an instruction starts at an address of an executable page. -/
def State.entryOk (s : State) (root gen : Nat) (v : Word) : Bool :=
  match s.codePage root gen (v.setWidth 56) with
  | some m => v.extractLsb' 56 8 == 0 && v.toNat % 4 == 0 && m.starts.contains ((v.toNat - m.va) / 4)
  | none => false

/-- A nonzero address of the translated global space. -/
def globalWord (v : Word) : Bool := v.extractLsb' 55 9 == 0

/-- Arm check 2. -/
def armShape (w : List Word) : Bool :=
  decide (mfT w + mfE w ≤ 256) && decide (mfTowk w ≠ 1) && decide (mfTowk w ≤ 16) && decide (mfTowk w ≤ mfT w)

/-- Arm check 4. -/
def armFields (w : List Word) : Bool :=
  let w7 := mfWord w 7
  let drift := (w7.extractLsb' 20 6).toNat
  let pairt := (w7.extractLsb' 26 5).toNat
  let cl := mfWord w 11
  let rpar := (List.range 8).map (fun i => mfWord w (21 + i))
  let live := ((List.range 8).zip rpar).filter (fun p => p.2 ≠ 0)
  let reserved :=
    (mfWord w 5).extractLsb' 32 32 ≠ 0 || w7.extractLsb' 31 33 ≠ 0 || (mfWord w 8).extractLsb' 7 57 ≠ 0 ||
      (mfWord w 13).extractLsb' 16 48 ≠ 0 || (mfWord w 15).extractLsb' 32 32 ≠ 0 || (mfWord w 17).extractLsb' 32 32 ≠ 0 ||
      (mfWord w 18).extractLsb' 18 46 ≠ 0 || mfWord w 29 ≠ 0 || mfWord w 30 ≠ 0 || mfWord w 31 ≠ 0 ||
      cl.extractLsb' 52 12 ≠ 0 || cl.extractLsb' 29 9 ≠ 0 || cl.extractLsb' 1 3 ≠ 0 || (!cl.getLsbD 0 && cl ≠ 0)
  !reserved && (decide (drift = 0) || (decide (16 ≤ drift) && decide (drift ≤ 32))) &&
    (decide (pairt = 0) || (decide (12 ≤ pairt) && decide (pairt ≤ 24))) &&
    (!w7.getLsbD 9 || (decide ((w7.extractLsb' 10 8).toNat < mfT w) && decide ((w7.extractLsb' 18 2).toNat < mfPorts w))) &&
    decide (mfPorts w ≤ 4) && decide ((w7.extractLsb' 0 9).toNat ≤ 256) && decide (mfRings w ≤ 8) && decide (mfBars w ≤ 32) &&
    live.all (fun p => decide (p.1 < mfRings w) && parmOk p.2 && (ringSlots p.2).all (fun i => decide (i < mfSpb w))) &&
    decide (List.Pairwise (fun p q : Nat × Word => (ringSlots p.2).all (fun i => !(ringSlots q.2).contains i) = true) live)

/-- Arm check 5. -/
def armAddresses (w : List Word) : Bool :=
  let trap := mfWord w 4
  let area := 256 * (mfT w + mfE w)
  let trapOk :=
    globalWord trap ||
      (trap.extractLsb' 52 12 == 8 && trap.extractLsb' 24 28 == 0 && decide ((trap.extractLsb' 19 5).toNat < mfSpb w) &&
        decide ((trap.extractLsb' 0 19).toNat + area ≤ 2 ^ 19))
  decide (trap.toNat % 256 = 0) && decide ((mfWord w 12).toNat % 256 = 0) &&
    ([10, 14, 16].all (fun i => decide ((mfWord w i).toNat % 8 = 0))) && ([12, 10, 14, 16].all (fun i => globalWord (mfWord w i))) &&
    trapOk && (mfWord w 1 == 0 || trap != 0)

/-- The status of the arm checks of R388, for a berth of a package and a code generation; 0 where all pass. -/
def State.armStatus (s : State) (package bk part gen : Nat) (w : List Word) : Nat :=
  let root := rootKey bk package
  let entry (i : Nat) : Bool := s.entryOk root gen (mfWord w i)
  let only := match s.codePage root gen ((mfWord w 0).setWidth 56) with | some m => m.only | none => none
  let holds := (s.slicesOf part).any (fun e => e.2.clusters.any (fun c =>
    (s.pkg e.1).enabled.contains c && (match only with | some cs => cs.contains c | none => true)))
  if !(entry 0 && (mfWord w 1 == 0 || entry 1) && (mfWord w 2 == 0 || entry 2)) then 1
  else if !armShape w then 2
  else if 28 < mfSpb w + mfFifob w || !holds then 3
  else if !armFields w then 4
  else if !armAddresses w then 5
  else 0

end Sys2Proof.Machine
end

