-- ==== Sys2Proof/Machine/Grids.lean ====
section
/-! DEFINITION. Patching, arming and launching manifests, launches on their way, aborts of grids, and the start of
dealing (R374 to R379, R385 to R393). -/
namespace Sys2Proof.Machine

/-! ### Manifests of a thread (R386 to R388) -/

/-- The grid of the executing thread, and its berth. -/
def getGrid : Exec Grid := do
  let s ← get
  pure (s.grid (s.grp s.myGrp).grid)

def Grid.bk (gr : Grid) : Nat := berthKey gr.pkg gr.berth

/-- MF, or a[11:0]. -/
def mfIndex (mf : NumArg 12) : Exec Nat := do
  let t ← getMe
  match mf with
  | .imm v => pure v.toNat
  | .acc => pure (t.a.extractLsb' 0 12).toNat

/-- The words of a manifest of the thread's berth (0x0E8). -/
def takeMf (i : Nat) : Exec (List Word) := do
  let s ← get
  let gr ← getGrid
  let w := s.mfWords gr.bk i
  if mfState w = 0 then faultOp 0x0E8 else pure w

/-- `mf.patch` (R387). -/
def execMfPatch (h : Hdr) (mf : NumArg 12) (word : BitVec 5) (src : Opnd) (s : State) : Host.Outcome State Fault Refusal :=
  straight h (do
    let v ← readSrc src 8 opB
    let i ← mfIndex mf
    let w ← takeMf i
    let gr ← getGrid
    if 17 < word.toNat || !(mfWord w 18).getLsbD word.toNat then faultOp 0x0E9
    else if mfState w = 2 then faultOp 0x0EA
    else modify (fun s => s.putMf gr.bk i (mfSet w word.toNat v))) s

/-- `mf.arm` (R388). -/
def execMfArm (p : Pred) (mf : NumArg 12) (off : Bool) (s : State) : Host.Outcome State Fault Refusal :=
  straightS p (do
    let i ← mfIndex mf
    let w ← takeMf i
    let gr ← getGrid
    let s ← get
    let r := if off then 0 else s.armStatus s.myPkg gr.bk gr.part (s.part gr.part).published w
    if off then set (s.putMf gr.bk i (mfSet w 20 1)) else if r = 0 then set (s.putMf gr.bk i (mfSet w 20 2)) else pure ()
    setA (BitVec.ofNat 64 r)
    modFlags (fun f => { f with p := decide (r = 0), z := decide (r = 0), n := false, c := false, v := false })) s

/-! ### Launches (R374, R375, R377, R389) -/

/-- The pod head of a package. -/
def State.headOf (s : State) (p : Nat) : Nat := (s.pkg p).head.getD p

/-- The key of the grid with an identifier. -/
def gridKey (head : Nat) (ident : Word) : Nat := head * 2 ^ 64 + ident.toNat

/-- The entries of a launch queue of a berth. -/
def State.queued (s : State) (gr : Grid) : Nat :=
  let same (x : Grid) : Bool := x.pkg == gr.pkg && x.berth == gr.berth && x.queue == gr.queue
  (s.grids.filter (fun e => e.2.st != .ended && same e.2)).length + (s.launches.filter (fun l => same l.grid)).length

/-- The dependences of a manifest: the locations of their words, or the cause and address of one that does not
translate (R375). -/
def State.findDeps (s : State) (root package : Nat) (w : List Word) : List Nat → Except (BitVec 10 × Word) (List Dep)
  | [] => .ok []
  | i :: is =>
    let x := mfWord w i
    if x = 0 then s.findDeps root package w is
    else
      match s.walkAddr root (x.toNat % 2 ^ 56) package ⟨true, false⟩ with
      | .at loc =>
        (match s.findDeps root package w is with
          | .ok ds => .ok ({ loc := loc, val := (mfWord w (i + 1)).extractLsb' 0 32 } :: ds)
          | .error e => .error e)
      | .fault c => .error (c, x)
      | _ => .error (0x100, x)

/-- The load that made a manifest of a berth. -/
def State.imageOf (s : State) (bk mf : Nat) : Option Nat :=
  (s.images.find? (fun e => e.2.berth == bk && e.2.mfs.contains mf)).map (·.1)

/-- The grid of a manifest's snapshot. -/
def gridOf (w : List Word) (package berth part queue : Nat) (deps : List Dep) (ind : Option Nat) : Grid :=
  { seed := mfWord w 9, pkg := package, berth := berth, lpkg := package, part := part, region := mfRegion w, man := w,
    count := ((mfWord w 5).extractLsb' 0 32).toNat, queue := queue, prio := ((mfWord w 8).extractLsb' 4 2).toNat,
    ovl := (mfWord w 8).getLsbD 6, deps := deps, ind := ind }

/-- What the enqueueing of a launch answers. -/
inductive Enqueued where
  /-- the queue is full, or its budget is spent -/
  | noEntry
  | noDep
  | done (s : State)

/-- A launch takes its queue entry and its dependence counters. -/
def State.enqueue (s : State) (gr : Grid) : Enqueued :=
  if 64 ≤ s.queued gr then .noEntry
  else
    match s.charge gr.part 7 gr.region 1 with
    | none => .noEntry
    | some s =>
      match s.charge gr.part 8 gr.region gr.deps.length with
      | none => .noDep
      | some s => .done s

/-- The answer of `launch`. -/
def launchFlags (p v : Bool) : Exec Unit := modFlags (fun f => { f with p := p, v := v, z := !p, n := false, c := false })

/-- `launch` and `launch.ind`: a launch that has been sent awaits its identifier. -/
def launchBody (mf : NumArg 12) (qov : Option Nat) (ind : Option Nat) : Exec Unit := do
  let s ← get
  match s.me.sent with
  | some (some g) => do
    setA g
    launchFlags true false
  | some none =>
    -- its time is over (R389)
    match s.me.err with
    | some (_, c) => faultOp c
    | none => waitFor .launch
  | none => do
    let i ← mfIndex mf
    let w ← takeMf i
    if mfState w ≠ 2 then faultOp 0x0EA
    else do
      -- while it waits, it holds the manifest unread (R448)
      modMe (fun t => { t with watch := some i })
      releaseSteps .pd
      let me ← getGrid
      let s ← get
      match s.findDeps (s.rootOf s.myGrp) s.myPkg w [14, 16] with
      | .error (c, x) => fault c (some x) 0
      | .ok deps =>
        let queue := qov.getD ((mfWord w 8).extractLsb' 0 4).toNat
        let gr : Grid := { gridOf w me.pkg me.berth me.part queue deps ind with
          launcher := some s.myGrp, lpkg := s.myPkg, image := s.imageOf me.bk i }
        match s.enqueue gr with
        | .noEntry => do
          setA 0
          launchFlags false false
        | .noDep => do
          setA 0
          launchFlags false true
        | .done s =>
          let head := s.headOf s.myPkg
          if s.unrouted s.myPkg head then faultOp 0x390
          else do
            let l : Launch := { head := head, thread := some s.cur, host := none, grid := gr, since := s.now }
            set { s with launches := s.launches ++ [l] }
            modMe (fun t => { t with sent := some none })
            waitFor .launch

/-- `launch` (R389). -/
def execLaunch (h : Hdr) (mf : NumArg 12) (qov : Bool) (q : BitVec 4) (s : State) : Host.Outcome State Fault Refusal :=
  straight h (launchBody mf (if qov then some q.toNat else none) none) s

/-- `launch.ind` (R377, R389). -/
def execLaunchInd (h : Hdr) (mf : NumArg 12) (cnt : CountAt) (s : State) : Host.Outcome State Fault Refusal :=
  straight h (do
    let (x, op) ← (match cnt with
      | .mem n m => do
        let x ← specAddr n m 4 4
        pure (x, opB)
      | .abs v => pure (v.setWidth 56, 0))
    let t ← getMe
    if t.sent.isSome then launchBody mf none none
    else do
      checkAlign x 4 0x0C0 op
      if x.getLsbD 55 then fault 0x0EB (some (x.setWidth 64)) op
      else do
        let (loc, _) ← locate x 4 ⟨true, false⟩ op
        launchBody mf none (some loc)) s

/-- Dependences that hold already (R375). -/
def State.evalDeps (s : State) (ds : List Dep) : List Dep :=
  ds.map (fun d =>
    { d with hit := decide ((BitVec.ofNat 32 (leVal (memBytes s.mem d.loc 4)) - d.val).toNat < 2 ^ 31) })

/-- A launch is ordered: the next identifier of its head is the grid's (R378), and its launcher learns it. -/
def State.order (s : State) (l : Launch) : State :=
  let p := s.pkg l.head
  let ident : Word := BitVec.ofNat 64 (p.config * 2 ^ 40 + (p.seq + 1) % 2 ^ 40)
  let s := (l.grid.deps.foldl (fun s d => s.recallN d.loc 8) s).modPkg l.head (fun p => { p with seq := p.seq + 1 })
  let seed := if l.grid.seed = 0 then ident else l.grid.seed
  let gr : Grid := { l.grid with ident := ident, seed := seed, deps := s.evalDeps l.grid.deps, quietSince := s.now }
  let s := { s.setGrid (gridKey l.head ident) gr with launches := s.launches.filter (fun x => x != l) }
  let s :=
    match l.thread with
    | some k => s.modThr k (fun t => { t with sent := some (some ident) })
    | none => s
  match l.host with
  | some c => s.cmdDone c stOk ident
  | none => s

/-- Whether a thread's launch has been without its identifier for 2^20 cycles (R389, R471). -/
def State.launchLate (s : State) (l : Launch) : Bool := l.thread.isSome && decide (l.since + 2 ^ 20 ≤ s.now)

/-- The pod dispatcher orders the launch that has reached it first (R378). One whose time is over gets no identifier (R471). -/
def execLaunchOrder (head : Nat) (s : State) : Host.Outcome State Fault Refusal :=
  match s.launches.find? (fun l => l.head == head && !s.launchLate l) with
  | none => .next s
  | some l => .next (s.order l)

/-- A launch leaves the way to the pod head unordered; what it has charged is released. -/
def State.dropLaunch (s : State) (l : Launch) : State :=
  let s := { s with launches := s.launches.filter (fun x => x != l) }
  (s.release l.grid.part 7 l.grid.region 1).release l.grid.part 8 l.grid.region l.grid.deps.length

/-- The head of a launch whose pod head was reset before it was ordered: no package has this number. -/
def lostHead : Nat := 4096

/-- The trap of a launch whose time is over, which has been ordered or not: both outcomes occur (R389). Where it has to wait for other
members of the tow (R74), the thread's instruction takes it when it issues again. -/
def State.expire (s : State) (thread : Nat) (l : Launch) (ordered : Bool) : State :=
  let s := if ordered && l.head != lostHead then s.order l else s.dropLaunch l
  if s.frozenFollower thread then s.modThr thread (fun t => { t with sent := some none, err := some (0, 0x391) })
  else if s.trapsNow thread then s.takeTrap thread 0x391 (originOf 0x391) none none 0
  else s.modThr thread (fun t => { t with sent := some none, err := some (0, 0x391), wait := .trapping })

/-- A launch without its identifier after 2^20 cycles (R389). -/
def execLaunchTimeout (thread : Nat) (ordered : Performed) (s : State) : Host.Outcome State Fault Refusal :=
  match s.launches.find? (fun l => l.thread == some thread) with
  | none => .next s
  | some l => if s.launchLate l then .next (s.expire thread l (ordered == .yes)) else .next s

/-- The time-outs that are due when a turn begins (R471): whether the launch has been ordered is a free value. -/
def State.expireLate (s : State) : State :=
  s.launches.foldl (fun s l =>
    match l.thread with
    | some k => if s.launchLate l then { s with tick := s.tick + 1 }.expire k l ((Config.freeWord s.tick).getLsbD 0) else s
    | none => s) s

/-! ### The start of dealing (R374, R375, R377) -/

/-- Dependences of a waiting launch are satisfied; the counter of each is free (R438). With the last, the count of an indirect launch
is read (R377). -/
def execDependenceSatisfied (grid : Nat) (s : State) : Host.Outcome State Fault Refusal :=
  let gr := s.grid grid
  let rest := gr.deps.filter (fun d => !d.hit)
  if gr.st ≠ .waiting || rest.length = gr.deps.length then .next s
  else
    let s := s.release gr.part 8 gr.region (gr.deps.length - rest.length)
    match rest, gr.ind with
    | [], some loc =>
      let (bs, s) := s.homePerform loc 0 (.read 4)
      .next (s.setGrid grid { gr with deps := [], ind := none, count := leVal bs })
    | rest, _ => .next (s.setGrid grid { gr with deps := rest })

/-- The count of an indirect launch without dependence is read. -/
def execIndirectCountRead (grid : Nat) (s : State) : Host.Outcome State Fault Refusal :=
  let gr := s.grid grid
  match gr.ind with
  | none => .next s
  | some loc =>
    if gr.st ≠ .waiting || !gr.deps.isEmpty then .next s
    else
      let (bs, s) := s.homePerform loc 0 (.read 4)
      .next (s.modGrid grid (fun gr => { gr with ind := none, count := leVal bs }))

/-- The launches before a grid in its queue. -/
def State.earlier (s : State) (grid : Nat) : List (Nat × Grid) :=
  let gr := s.grid grid
  s.grids.filter (fun e => decide (e.1 < grid) && decide (e.1 / 2 ^ 64 = grid / 2 ^ 64) &&
    e.2.pkg == gr.pkg && e.2.berth == gr.berth && e.2.queue == gr.queue)

/-- The launch before a grid in its queue. -/
def State.previous (s : State) (grid : Nat) : Option Grid :=
  ((s.earlier grid).foldl (fun (m : Option (Nat × Grid)) e =>
    match m with
    | none => some e
    | some x => if x.1 < e.1 then some e else m) none).map (·.2)

/-- Whether the queue of a grid lets it begin dealing: the launch before it has completed, or with OVL has been fully dealt; none that
is earlier still waits (R374). -/
def State.queueLets (s : State) (grid : Nat) : Bool :=
  (match s.previous grid with
    | none => true
    | some p => p.st == .ended || ((s.grid grid).ovl && p.st == .dealt)) &&
  (s.earlier grid).all (fun e => e.2.st != .waiting)

/-- A launch begins dealing in the code generation that is published (R204, R374). -/
def execDealingStart (grid : Nat) (s : State) : Host.Outcome State Fault Refusal :=
  let gr := s.grid grid
  if !thas s.grids grid || gr.st ≠ .waiting || !gr.deps.isEmpty || gr.ind.isSome || gr.abort ≠ 0 || s.draining gr.pkg ||
      !s.queueLets grid then .next s
  else
    .next (s.setGrid grid
      { gr with st := if gr.count = 0 then .dealt else .dealing, gen := (s.part gr.part).published, quietSince := s.now })

/-! ### Cancel, abort and state of grids (R385, R390, R391) -/

/-- The abort of a grid is set with an END: dealing stops at once, and what is undealt is cancelled. -/
def State.setAbort (s : State) (grid : Nat) (e : BitVec 8) : State :=
  let gr := s.grid grid
  if gr.abort ≠ 0 then s
  else
    let s := if gr.st = .waiting then s.release gr.part 8 gr.region gr.deps.length else s
    let n := gr.count - gr.next
    s.setGrid grid { gr with abort := e, canc := gr.canc + n, gone := gr.gone + n, next := gr.count, deps := [], ind := none,
                             st := .dealt }

/-- Whether a grid has not ended and belongs to a berth. -/
def State.liveGrid (s : State) (grid bk : Nat) : Bool := thas s.grids grid && (s.grid grid).st != .ended && (s.grid grid).bk == bk

/-- `gcancel` (R390). -/
def execGcancel (p : Pred) (s : State) : Host.Outcome State Fault Refusal :=
  straightS p (do
    let gr ← getGrid
    let s ← get
    let k := gridKey (s.headOf s.myPkg) s.me.a
    let hit := s.liveGrid k gr.bk && (s.grid k).abort == 0
    if hit then set (s.setAbort k 2) else pure ()
    modFlags (fun f => { f with p := hit })) s

/-- `gabort` (R390): the thread samples the abort from its next sampling point on. -/
def execGabort (p : Pred) (s : State) : Host.Outcome State Fault Refusal :=
  straightS p (modify (fun s =>
    let k := (s.grp s.myGrp).grid
    if thas s.grids k then (s.setAbort k 3).modThr s.cur (fun t => { t with told := true }) else s)) s

/-- STATE of `gstat`. -/
def GridSt.code : GridSt → BitVec 2
  | .waiting => 1
  | .dealing => 2
  | .dealt => 3
  | .ended => 0

/-- The value of `gstat` for a grid (R391). -/
def Grid.stat (gr : Grid) (sel : Bool) : Word :=
  let abrt : BitVec 2 := if gr.abort = 2 then 2 else if gr.abort = 3 then 3 else 0
  if sel then (BitVec.ofNat 32 gr.compl) ++ (BitVec.ofNat 32 gr.disp)
  else gr.st.code ++ abrt ++ (0 : BitVec 17) ++ boolBit gr.first.isSome ++ gr.first.getD 0 ++ BitVec.ofNat 32 (gr.compl + gr.canc)

/-- `gstat` (R391). -/
def execGstat (p : Pred) (own : Bool) (sel : Bool) (s : State) : Host.Outcome State Fault Refusal :=
  straightS p (do
    let gr ← getGrid
    let s ← get
    let k := if own then (s.grp s.myGrp).grid else gridKey (s.headOf s.myPkg) s.me.a
    let live := s.liveGrid k gr.bk
    setA (if live then (s.grid k).stat sel else 0)
    modFlags (fun f => { f with z := !live, n := false, c := false, v := false })) s

end Sys2Proof.Machine
end

