-- ==== Sys2Proof/Machine/Placement.lean ====
section
/-! DEFINITION. Dealing, placement, stealing and retirement (R46, R47, R59, R67, R168, R288, R308, R341, R376 to R382). -/
namespace Sys2Proof.Machine

/-! ### Fit (R46, R60, R168, R287, R308, R341, R457) -/

/-- Slots for n indices: each goes to the core with the most free slots, the lower core on a tie, in its lowest free
slot (R46). `free` lists the free slots of each core. -/
def assignSlots : Nat → List (List Nat) → Option (List (Nat × Nat))
  | 0, _ => some []
  | n + 1, free =>
    let most := (free.map List.length).foldl max 0
    let c := free.findIdx (fun l => l.length == most)
    match free.getD c [] with
    | [] => none
    | x :: xs => (assignSlots n (free.set c xs)).map (fun r => (c, x) :: r)

/-- Slots of a group: a tow shape of k cores first takes slot 0 of the first k consecutive cores that have it free. -/
def assignTowed (k n : Nat) (free : List (List Nat)) : Option (List (Nat × Nat)) :=
  if k = 0 then assignSlots n free
  else
    match (List.range 16).find? (fun c => decide (c + k ≤ 16) && (List.range k).all (fun i => (free.getD (c + i) []).contains 0)) with
    | none => none
    | some c =>
      let tow := (List.range k).map (fun i => (c + i, 0))
      let free := (List.range 16).map (fun i =>
        if c ≤ i ∧ i < c + k then (free.getD i []).filter (· != 0) else free.getD i [])
      (assignSlots (n - k) free).map (fun r => tow ++ r)

/-- What a placement takes on a cluster. -/
structure Plan where
  cluster : Nat
  /-- core and slot by slot index -/
  slots : List (Nat × Nat)
  banks : List Nat
  rings : List Nat
  bars : List Nat
  deriving DecidableEq, Repr

/-- The cores that a plan uses, in ascending order. -/
def Plan.cores (p : Plan) : List Nat := (List.range 16).filter (fun c => p.slots.any (fun e => e.1 == c))

/-- The first n of a list, if it has so many. -/
def firstN (n : Nat) (l : List Nat) : Option (List Nat) := if l.length < n then none else some (l.take n)

/-- The free slots of the cores of a cluster. -/
def State.freeSlots (s : State) (ck : Nat) : List (List Nat) :=
  (List.range 16).map (fun c => (List.range 16).filter (fun i => (s.thr ((ck * 16 + c) * 16 + i)).group.isNone))

/-- The slots, banks, rings and barrier records of a group of a manifest on a cluster, with given cores for its slots. -/
def State.planWith (s : State) (ck : Nat) (w : List Word) (slots : Option (List (Nat × Nat))) : Option Plan :=
  let banks := firstN (mfSpb w + mfFifob w) (((List.range 28).map (· + 4)).filter (fun b => (s.bank ck b).group.isNone))
  let rings := firstN (mfRings w) ((List.range 8).filter (fun r => (s.ring ck r).1.isNone))
  let bars := firstN (mfBars w) ((List.range 32).filter (fun r => (s.bar ck r).group.isNone))
  match slots, banks, rings, bars with
  | some sl, some b, some r, some x =>
    let p : Plan := { cluster := ck, slots := sl, banks := b, rings := r, bars := x }
    let portsFree := p.cores.all (fun c => (List.range (mfPorts w)).all (fun q => (s.port (ck * 16 + c) q).group.isNone))
    if portsFree && (mfArrays w).all (fun a => (s.arr ck a).group.isNone) then some p else none
  | _, _, _, _ => none

/-- Whether the tiles of a mask are free on a cluster. -/
def State.tilesFree (s : State) (ck : Nat) (ts : List Nat) : Bool := ts.all (fun t => (s.tile ck t).group.isNone)

/-- Whether a cluster of a package is one of the partition's, enabled, and allowed to the grid's code (R457); in
slack water only clusters of CD0 serve (R468). -/
def State.clusterOk (s : State) (gr : Grid) (ck : Nat) : Bool :=
  let only := match s.codePage (gr.root (packageOf ck)) gr.gen ((mfWord gr.man 0).setWidth 56) with | some m => m.only | none => none
  s.ownsCluster gr.part ck && (!s.slack (packageOf ck) || decide (ck % 64 < 16)) && (match only with | some cs => cs.contains (ck % 64) | none => true)

/-- Where a group of a grid fits on a cluster. -/
def State.fits (s : State) (gr : Grid) (ck : Nat) : Option Plan :=
  if s.clusterOk gr ck && s.tilesFree ck (mfTiles gr.man) then
    s.planWith ck gr.man (assignTowed (mfTowk gr.man) (mfT gr.man + mfE gr.man) (s.freeSlots ck))
  else none

/-- The charges of a placement (R438). -/
def placeCharges (w : List Word) (cores : Nat) : List (Nat × Nat) :=
  [(0, mfT w + mfE w), (1, (mfTiles w).length), (2, mfSpb w + mfFifob w), (3, mfRings w), (6, mfPorts w * cores)]

/-- A fit whose charges succeed, with the state that they leave. -/
def State.fitsCharged (s : State) (gr : Grid) (ck : Nat) : Option (Plan × State) :=
  match s.fits gr ck with
  | none => none
  | some p => (s.chargeAll gr.part gr.region (placeCharges gr.man p.cores.length)).map (fun s => (p, s))

/-! ### Dealing (R379) -/

/-- The packages of a partition, in ascending order. In slack water a package is a pod of its own (R468, R378). -/
def State.packagesOf (s : State) (part : Nat) : List Nat := sortBy (fun x y => decide (x ≤ y)) ((s.slicesOf part).map (·.1))

/-- The indices dealt to a package and not placed. -/
def Grid.held (gr : Grid) (p : Nat) : List Nat := tget gr.dealt [] p

/-- The free clusters of a package on which one group of a grid fits. -/
def State.freeFor (s : State) (gr : Grid) (p : Nat) : Nat := ((List.range 64).filter (fun c => (s.fits gr (p * 64 + c)).isSome)).length

/-- The eligible packages, with their free clusters. -/
def State.eligible (s : State) (gr : Grid) : List (Nat × Nat) :=
  ((s.packagesOf gr.part).map (fun p => (p, s.freeFor gr p))).filter (fun e => decide (0 < e.2) && (gr.held e.1).isEmpty)

/-- Indices go to a package. -/
def Grid.give (gr : Grid) (now p : Nat) (is : List Nat) : Grid :=
  { gr with dealt := tset gr.dealt p (gr.held p ++ is), dealtAt := tset gr.dealtAt p now }

/-- The shares of a round among eligible packages (R379). -/
def shares (m : Nat) (es : List (Nat × Nat)) : List (Nat × Nat) :=
  let f := (es.map (·.2)).foldl (· + ·) 0
  let base := es.map (fun e => (e.1, m * e.2 / f))
  let left := m - (base.map (·.2)).foldl (· + ·) 0
  let order := (sortBy (fun x y => decide (y.2 < x.2) || (decide (x.2 = y.2) && decide (x.1 ≤ y.1))) es).map (·.1)
  base.map (fun e => (e.1, e.2 + (if (order.take left).contains e.1 then 1 else 0)))

/-- Contiguous blocks, in ascending package order, from the lowest undealt index. -/
def Grid.dealBlocks (gr : Grid) (now : Nat) : List (Nat × Nat) → Grid
  | [] => gr
  | (p, n) :: r =>
    let gr := if n = 0 then gr else gr.give now p ((List.range n).map (fun i => gr.next + i))
    ({ gr with next := gr.next + n }).dealBlocks now r

/-- A round (R379). -/
def execDealRound (grid : Nat) (s : State) : Host.Outcome State Fault Refusal :=
  let gr := s.grid grid
  let es := s.eligible gr
  if gr.st ≠ .dealing || gr.abort ≠ 0 || s.draining gr.pkg || es.isEmpty || gr.count ≤ gr.next then .next s
  else
    let m := min (gr.count - gr.next) (2 * (es.map (·.2)).foldl (· + ·) 0)
    let gr := gr.dealBlocks s.now (shares m es)
    .next (s.setGrid grid { gr with st := if gr.count ≤ gr.next then .dealt else .dealing })

/-- Half of the busiest package's indices are reclaimed for an eligible one (R379). -/
def execDealReclaim (grid : Nat) (s : State) : Host.Outcome State Fault Refusal :=
  let gr := s.grid grid
  let best (l : List (Nat × Nat)) : Option (Nat × Nat) :=
    l.foldl (fun m e => match m with | none => some e | some x => if x.2 < e.2 then some e else m) none
  match best (s.eligible gr), best ((s.packagesOf gr.part).map (fun p => (p, (gr.held p).length))) with
  | some (p, _), some (b, n) =>
    if gr.st ≠ .dealt || gr.abort ≠ 0 || s.draining gr.pkg || gr.next < gr.count || n < 2 then .next s
    else
      let keep := n - n / 2
      let is := (gr.held b).drop keep
      .next (s.setGrid grid ({ gr with dealt := tset gr.dealt b ((gr.held b).take keep) }.give s.now p is))
  | _, _ => .next s

/-! ### Placement (R47, R159, R168, R376, R380, R381) -/

/-- The lowest tag that no group present on a cluster holds. -/
def State.freeTag (s : State) (ck : Nat) : Nat :=
  let held := (s.groups.filter (fun e => e.2.cluster == ck && (e.2.st == .placed || e.2.st == .saving))).map (·.2.gtag)
  ((List.range (held.length + 1)).find? (fun t => !held.contains t)).getD 0

/-- Banks of a group enter their modes: scratchpad banks first, the rest FIFO (R168). -/
def State.allotBanks (s : State) (ck g : Nat) (bs : List Nat) (spb : Nat) : State :=
  (bs.zipIdx).foldl (fun s e =>
    let s := s.setBank ck e.1 { s.bank ck e.1 with group := some g }
    s.enterMode ck e.1 (if e.2 < spb then .sp else .fifo) false) s

/-- A slot of a group; R47 gives a thread's state where it runs. Trap registers are zero (log 24). -/
def freshThread (g i now : Nat) (live : Bool) (pc : Addr) (a : Word) (ptrs : Vector Word 8) : Thread :=
  { group := some g, live := live, tid := i, a := a, ptrs := ptrs, pc := pc, idleSince := now }

/-- The cores of a plan acquire (R193, R381). -/
def State.acquireOn (s : State) (ck : Nat) (cores : List Nat) : State :=
  (cores.foldl (fun s c => s.modCore (ck * 16 + c) (fun k => { k with l1 := [] })) s).dropClean ck

/-- Rings, barrier records, tiles, arrays and ports of a group on its cluster. -/
def State.allotUnits (s : State) (g : Nat) (p : Plan) (w : List Word) (tiles : List Nat) : State :=
  let ck := p.cluster
  let s := p.rings.foldl (fun s r => s.setRing ck r (some g, none)) s
  let s := p.bars.foldl (fun s r => s.setBar ck r { group := some g }) s
  let s := tiles.foldl (fun s t => { s.setTile ck t { group := some g } with flaws := s.flaws.filter (· != tileLoc ck t) }) s
  let s := (mfArrays w).foldl (fun s a => s.setArr ck a { group := some g, dead := (s.arr ck a).dead }) s
  p.cores.foldl (fun s c => (List.range (mfPorts w)).foldl (fun s q => s.setPort (ck * 16 + c) q { group := some g }) s) s

/-- Group number g of a grid, with an index, is placed as planned. -/
def State.placeGroup (s : State) (grid gid : Nat) (p : Plan) : State :=
  let gr := s.grid grid
  let g := s.nextGroup
  let ck := p.cluster
  let w := gr.man
  let keys := p.slots.map (fun e => (ck * 16 + e.1) * 16 + e.2)
  let grp : Group := { grid := grid, gid := gid, cluster := ck, gtag := s.freeTag ck, slots := keys, banks := p.banks, rings := p.rings,
                       bars := p.bars, tiles := mfTiles w, arrays := mfArrays w, gen := gr.gen, placedAt := s.now }
  let s := { s.setGrp g grp with nextGroup := g + 1 }
  let s := s.allotBanks ck g p.banks (mfSpb w)
  let s := s.allotUnits g p w (mfTiles w)
  let s := (List.range 8).foldl (fun s i =>
    match p.rings[i]? with
    | some r => if mfWord w (21 + i) = 0 then s else s.startRing g r (mfWord w (21 + i))
    | none => s) s
  let s := s.acquireOn ck p.cores
  (keys.zipIdx).foldl (fun s e =>
    let live := decide (e.2 < mfT w)
    s.setThr e.1 (freshThread g e.2 s.now live ((mfWord w 0).setWidth 56) (BitVec.ofNat 64 e.2)
      ((Vector.replicate 8 0).set 0 (mfWord w 3)))) s

/-- The clusters of a package in the order of a grid's next scan there (R380). -/
def Grid.scan (gr : Grid) (p : Nat) : List Nat :=
  let c0 := ((Machine.gen gr.seed (BitVec.ofNat 64 p) 0).extractLsb' 0 6).toNat
  let k := tget gr.placed 0 p
  (List.range 64).map (fun i => p * 64 + (c0 + k + i) % 64)

/-- Grids with undispatched groups on a package, in the order of R376. -/
def State.contenders (s : State) (p part : Nat) : List (Nat × Grid) :=
  sortBy (fun x y => decide (y.2.prio < x.2.prio) || (decide (x.2.prio = y.2.prio) && decide (x.2.ident.toNat ≤ y.2.ident.toNat)))
    (s.grids.filter (fun e => e.2.part == part && e.2.st != .ended && !(e.2.held p).isEmpty && !e.2.reached.contains p))

/-! ### Stealing (R67) -/

/-- The fork records of a group on its cluster, oldest first. -/
def State.forksOf (s : State) (g : Nat) : List ForkRec :=
  let ck := (s.grp g).cluster
  sortBy (fun x y => decide (x.seq ≤ y.seq))
    ((List.range 16).flatMap (fun i => (s.core (ck * 16 + i)).deque.filter (fun r => r.group == g)))

/-- The idle slot of a group that has been idle longest; of several that are idle since the same cycle, the one of the lowest slot
index (log 79, DESIGN CHOICE). -/
def State.idlest (s : State) (g : Nat) : Option Nat :=
  ((s.grp g).slots.filter (fun k => !(s.thr k).live)).foldl (fun (m : Option Nat) k =>
    match m with
    | none => some k
    | some j => if (s.thr k).idleSince < (s.thr j).idleSince then some k else m) none

/-- An idle slot takes its group's oldest fork record and starts a thread from it (R67). A record that is pushed after the group's
abort is stolen like any other: an abort discards those that stand when it arrives (R385). -/
def execForkSteal (thread : Nat) (s : State) : Host.Outcome State Fault Refusal :=
  let t := s.thr thread
  match t.group with
  | none => .next s
  | some g =>
    match s.forksOf g with
    | [] => .next s
    | r :: _ =>
      if (s.grp g).st ≠ .placed || s.idlest g ≠ some thread then .next s
      else
        let s := (List.range 8).foldl (fun s i => s.dropFault thread (BitVec.ofNat 3 i)) s
        let h := (s.thr thread).h.map (fun x => { seq := x.seq : Handle })
        let s := s.setThr thread { freshThread g t.tid s.now true r.pc r.a r.ptrs with h := h }
        let s := (List.range 16).foldl (fun s i =>
          s.modCore ((s.grp g).cluster * 16 + i) (fun c => { c with deque := c.deque.filter (fun x => x != r) })) s
        let s := s.modCore (coreOf thread) (fun c => { c with l1 := [] })
        if s.startOk g r.pc then .next s else .next (s.takeTrap thread 0x0A1 0 (some r.pc) (some (r.pc.setWidth 64)) 0)

/-! ### Retirement (R59, R64, R168, R224, R341, R382) -/

/-- Whether a copy is blocked on a ring view beyond d: every beat that has not been counted is (R242). -/
def Xfer.blocked (x : Xfer) : Bool :=
  x.cause.isNone && !x.cancelled && x.beats.any (fun b => b.st == .ahead) &&
    x.beats.all (fun b => b.st == .counted || b.st == .ahead)

/-- Whether an engine operation of a group is outstanding, unfired armed requests apart; `blocked`: copies blocked on a
ring view beyond d count too. -/
def State.opsOut (s : State) (g : Nat) (blocked : Bool) : Bool :=
  let ck := (s.grp g).cluster
  let c := s.clus ck
  (List.range 16).any (fun i => (s.core (ck * 16 + i)).fifo.any (fun r => r.group == g)) || c.fired.any (fun r => r.group == g) ||
    c.channels.any (fun e => e.2.xfers.any (fun x => !x.finished && x.req.group == g && (blocked || !x.blocked))) ||
    c.arrays.any (fun e => e.2.all.any (fun m => m.group == g)) ||
    c.banks.any (fun e => e.2.group == some g && !e.2.queue.isEmpty) ||
    c.links.any (fun l => (s.thr l.handle.1).group == some g)

/-- The group's slots, ports, banks, rings, barrier records, tiles, arrays and landing words are free again. -/
def State.freeGroup (s : State) (g : Nat) : State :=
  let gr := s.grp g
  let ck := gr.cluster
  let s := { s with threads := s.threads.filter (fun e => e.2.group != some g), tows := s.tows.filter (fun w => !gr.slots.contains w.tug) }
  let s := s.modClus ck (fun c =>
    { c with misses := c.misses.map (fun m => { m with threads := m.threads.filter (fun k => !gr.slots.contains k) }) })
  let s := (List.range 16).foldl (fun s i =>
    s.modCore (ck * 16 + i) (fun c =>
      { c with
        ports := c.ports.map (fun p => if p.group == some g then {} else p)
        deque := c.deque.filter (fun r => r.group != g) })) s
  let s := gr.rings.foldl (fun s r => s.setRing ck r (none, none)) s
  let s := gr.bars.foldl (fun s r => s.setBar ck r {}) s
  let s := gr.tiles.foldl (fun s t => s.setTile ck t {}) s
  let s := gr.arrays.foldl (fun s a => s.setArr ck a { dead := (s.arr ck a).dead }) s
  gr.banks.foldl (fun s b =>
    let lo := bankLoc ck b 0
    { s.setBank ck b {} with
      mem := memClear s.mem lo (2 ^ 19)
      landings := s.landings.filter (fun e => !(decide (lo ≤ e.1) && decide (e.1 < lo + 2 ^ 19))) }) s

/-- The armed requests of a group are discarded (R250): each counts no more at its landing word, and its handle is cancelled (log 83). -/
def State.dropArmed (s : State) (g : Nat) : State :=
  let ck := (s.grp g).cluster
  ((s.clus ck).armed.filter (fun a => a.req.group == g)).foldl (fun s a =>
    ((s.modClus ck (fun c => { c with armed := c.armed.filter (· != a) })).armLess a.loc).finish g a.req.thread a.req.h a.req.seq
      (.cancelled 0x2C5)) s

/-- The cores of a group. -/
def Group.cores (gr : Group) : List Nat := (List.range 16).filter (fun c => gr.slots.any (fun k => coreOf k % 16 == c))

/-- A group retires: it releases at pod scope, counts the faults that nobody has read, and gives everything back. -/
def execGroupRetire (group : Nat) (s : State) : Host.Outcome State Fault Refusal :=
  let gr := s.grp group
  let ck := gr.cluster
  if !thas s.groups group || gr.st ≠ .placed || !gr.slots.all (fun k => !(s.thr k).live) || !(s.forksOf group).isEmpty ||
      s.opsOut group true || gr.slots.any (fun k => s.inFlight k) || s.writebacksOut ck then .next s
  else
    let g := s.grid gr.grid
    let s := s.writebackAll ck
    let s := gr.slots.foldl (fun s k => (List.range 8).foldl (fun s i => s.dropFault k (BitVec.ofNat 3 i)) s) s
    let s := s.dropArmed group
    let s := s.releaseAll g.part g.region (placeCharges g.man gr.cores.length)
    let s := s.freeGroup group
    let s := s.modGrp group (fun x => { x with st := .gone, slots := [], banks := [], rings := [], bars := [], tiles := [], arrays := [] })
    .next (if thas s.grids gr.grid then
        s.modGrid gr.grid (fun x => { x with compl := x.compl + 1, gone := x.gone + 1, quietSince := s.now })
      else s)

end Sys2Proof.Machine
end

