-- ==== Sys2Proof/Machine/Completion.lean ====
section
/-! DEFINITION. Fault summaries, grid records, completion, the delivery of aborts, and drift (R240 to R243, R382 to R385). -/
namespace Sys2Proof.Machine

/-! ### The summary (R384) -/

/-- A report is summed. -/
def Grid.sum (gr : Grid) (r : Report) : Grid :=
  let first := gr.first.orElse (fun _ => some r.cause)
  if gr.causes.any (fun c => c.cause == r.cause) then
    { gr with
      first := first
      causes := gr.causes.map (fun c =>
        if c.cause == r.cause then
          { c with
            count := min (c.count + 1) (2 ^ 32 - 1)
            lowest := min c.lowest r.gid
            package := if r.gid < c.lowest then r.package else c.package }
        else c) }
  else if gr.causes.length < 8 then
    { gr with first := first, causes := gr.causes ++ [{ cause := r.cause, count := 1, lowest := r.gid, package := r.package }] }
  else { gr with first := first, other := gr.other + 1 }

/-- A report reaches the root; reports travel on different channels and arrive in any order (R384). -/
def execFaultReportArrival (index : Nat) (s : State) : Host.Outcome State Fault Refusal :=
  match s.reports[index]? with
  | none => .next s
  | some r =>
    let s := { s with reports := s.reports.eraseIdx index }
    .next (if thas s.grids r.grid then s.modGrid r.grid (fun g => g.sum r) else s)

/-! ### Completion (R382, R383) -/

/-- A cause slot of the grid record. -/
def CauseSlot.word (c : CauseSlot) : Nat :=
  c.cause.toNat + c.count % 2 ^ 32 * 2 ^ 32 + c.lowest % 2 ^ 32 * 2 ^ 64 + c.package % 2 ^ 12 * 2 ^ 96

/-- The grid record (R383). -/
def Grid.record (gr : Grid) : List Byte :=
  let first := match gr.first with | some c => c.toNat + 2 ^ 15 | none => 0
  let e := if gr.abort = 0 then 1 else gr.abort.toNat
  leBytes gr.ident.toNat 8 ++ leBytes gr.seed.toNat 8 ++ leBytes gr.count 4 ++ leBytes gr.disp 4 ++ leBytes gr.compl 4 ++
    leBytes gr.canc 4 ++ leBytes first 2 ++ leBytes e 1 ++ leBytes gr.causes.length 1 ++ leBytes gr.other 4 ++
    leBytes gr.nmoor 4 ++ leBytes gr.mdrop 4 ++ leBytes 0 16 ++
    (List.range 8).flatMap (fun i => match gr.causes[i]? with | some c => leBytes c.word 16 | none => leBytes 0 16) ++ leBytes 0 64

/-- A word of a grid's manifest. -/
def Grid.word (gr : Grid) (i : Nat) : Word := gr.man.getD i 0

/-- Where a global address of the launching berth lies; none where it does not translate or lacks a permission. -/
def State.berthAt (s : State) (gr : Grid) (x : Nat) (nd : Need) : Option Nat :=
  match s.walkAddr (gr.root gr.pkg) x gr.pkg nd with
  | .at loc => some loc
  | _ => none

/-- Step 1: the grid record. -/
def State.writeRecord (s : State) (gr : Grid) : State :=
  let x := (gr.word 12).toNat
  if x = 0 then s
  else
    match s.berthAt gr x ⟨false, true⟩ with
    | none => s
    | some loc => (s.homePerform loc 0 (.write gr.record)).2

/-- Step 2: the completion word. -/
def State.addCword (s : State) (gr : Grid) : State :=
  let x := (gr.word 10).toNat
  if x = 0 then s
  else
    match s.berthAt gr x ⟨true, true⟩ with
    | none => s
    | some loc => (s.homePerform loc 0 (.rmw .add (leBytes 1 8))).2

/-- The landing word that CLAND names (R257): of the launching group, or of a placed group of a grid of the berth. -/
def State.clandAt (s : State) (gr : Grid) : EngAt :=
  let w := gr.word 11
  let who :=
    if w.getLsbD 28 then gr.launcher
    else
      (s.groups.find? (fun e => e.2.cluster == gr.lpkg * 64 + (w.extractLsb' 46 6).toNat && e.2.gtag == (w.extractLsb' 38 8).toNat &&
        e.2.present && (s.grid e.2.grid).bk == gr.bk)).map (·.1)
  match who with
  | none => .fault 0x2C3
  | some t =>
    if !(s.grp t).present then .fault 0x2C3
    else if w.getLsbD 27 then
      match s.ringOf t (w.extractLsb' 24 3).toNat with
      | none => .fault 0x2C3
      | some (_, r) => s.engScratch t (ringWordOff r.parm)
    else s.engScratch t ((w.extractLsb' 19 5).toNat * 2 ^ 19 + (w.extractLsb' 4 15).toNat * 16)

/-- Step 3: the landing count of one byte. -/
def State.countCland (s : State) (gr : Grid) : State :=
  match s.clandAt gr with
  | .at loc => if (gr.word 11).getLsbD 0 then s.count loc 1 else s
  | _ => s

/-- Whether the count has to wait for a bank's switch. -/
def State.clandWaits (s : State) (gr : Grid) : Bool := (gr.word 11).getLsbD 0 && s.clandAt gr == .bank

/-- Whether every group of a grid has been dealt and placed (R242). -/
def Grid.whole (gr : Grid) : Bool := decide (gr.count ≤ gr.next) && gr.dealt.all (fun e => e.2.isEmpty)

/-- A grid of a partition runs no more: the windows of the others begin anew that it has held back, those of grids with an undealt or
unplaced group (R242). -/
def State.stirOthers (s : State) (part grid : Nat) : State :=
  { s with
    grids := s.grids.map (fun e =>
      if e.2.part == part && e.1 != grid && e.2.st != .ended && !e.2.whole then (e.1, { e.2 with quietSince := s.now }) else e) }

/-- A grid completes (R382). -/
def execGridComplete (grid : Nat) (s : State) : Host.Outcome State Fault Refusal :=
  let gr := s.grid grid
  if !thas s.grids grid || gr.st ≠ .dealt || gr.compl + gr.canc ≠ gr.count || s.reports.any (fun r => r.grid == grid) ||
      s.clandWaits gr then .next s
  else
    let s := ((s.writeRecord gr).addCword gr).countCland gr
    let s := if gr.host then s.post gr.bk (eventWord gr.ident 0 1 (gr.ident.setWidth 16)) else s
    let s := s.release gr.part 7 gr.region 1
    .next ((s.setGrid grid { gr with st := .ended }).stirOthers gr.part grid)

/-! ### Aborts (R303, R385) -/


/-- Where the word stands in a save image's header that says whether an abort has reached the saved group (R239, log 26). -/
def headerAbort : Nat := 64

/-- An abort reaches a package: what it holds is cancelled, fork records and armed requests are discarded, moored threads sample (R250,
R385). -/
def execGridAbortDelivery (grid package : Nat) (s : State) : Host.Outcome State Fault Refusal :=
  let gr := s.grid grid
  if !thas s.grids grid || gr.abort = 0 || gr.st = .ended || gr.reached.contains package || !(s.packagesOf gr.part).contains package then
    .next s
  else
    let n := (gr.held package).length
    let s := s.setGrid grid
      { gr with dealt := tdel gr.dealt package, canc := gr.canc + n, gone := gr.gone + n, reached := package :: gr.reached,
                quietSince := s.now }
    let mine : List Nat := (s.groups.filter (fun e => e.2.grid == grid && e.2.present && packageOf e.2.cluster == package)).map (·.1)
    let drop (c : Core) : Core := { c with deque := c.deque.filter (fun r => !mine.contains r.group) }
    let s := { s with cores := s.cores.map (fun (e : Nat × Core) => (e.1, drop e.2)) }
    let s := mine.foldl (fun s g => s.dropArmed g) s
    -- the header of a group that is saved there records it (R239)
    let note (g : Group) : Group :=
      if g.grid == grid && g.st == .saved && packageOf g.cluster == package then { g with aborted := true } else g
    let held := (s.groups.filter (fun e => e.2.grid == grid && e.2.st == .saved && packageOf e.2.cluster == package)).filterMap (fun e =>
      e.2.save.bind (·.frame))
    let s := { s with
      groups := s.groups.map (fun (e : Nat × Group) => (e.1, note e.2))
      mem := held.foldl (fun m loc => memWrite m (loc + headerAbort) (leBytes 1 8)) s.mem }
    .next (s.sampleMoored (fun k =>
      let g := s.grp ((s.thr k).group.getD 0)
      g.grid == grid && packageOf g.cluster == package))

/-! ### Drift (R240 to R243) -/

/-- The window of a grid in cycles: log2 in SYNC, 20 by default. -/
def Grid.window (gr : Grid) : Nat :=
  let d := ((gr.word 7).extractLsb' 20 6).toNat
  2 ^ (if d = 0 then 20 else d)

/-- Whether a slot of a placed group has been idle or moored since a cycle. -/
def State.stillSince (s : State) (k since : Nat) : Bool :=
  let t := s.thr k
  if !t.live then decide (t.idleSince ≤ since)
  else
    match t.wait with
    | .moored _ _ _ m _ => decide (m ≤ since)
    | _ => false

/-- Whether another grid of the partition runs. -/
def State.otherRuns (s : State) (grid : Nat) : Bool :=
  let gr := s.grid grid
  s.grids.any (fun e => e.1 != grid && e.2.part == gr.part && (e.2.st == .dealing || e.2.st == .dealt))

/-- Whether the conditions of R242 have held for the whole window, with at least one thread moored (log 25). -/
def State.adrift (s : State) (grid : Nat) : Bool :=
  let gr := s.grid grid
  let w := gr.window
  let gs := s.groups.filter (fun e => e.2.grid == grid && e.2.st != .gone)
  thas s.grids grid && (gr.st == .dealing || gr.st == .dealt) && decide (w ≤ s.now - gr.quietSince) &&
    gs.all (fun e => e.2.st == .placed && decide (w ≤ s.now - e.2.placedAt) && (s.forksOf e.1).isEmpty && !s.opsOut e.1 false &&
      e.2.slots.all (fun k => s.stillSince k (s.now - w) && !s.inFlight k)) &&
    gs.any (fun e => e.2.slots.any (fun k => (s.thr k).live)) && (gr.whole || !s.otherRuns grid)

/-- A mooring entry (R240). -/
def State.mooring (s : State) (k : Nat) (kind : BitVec 4) (obj : Nat) (val : W32) (since : Nat) : BitVec 128 :=
  let age := min ((s.now - since) / 1024) (2 ^ 20 - 1)
  BitVec.ofNat 56 obj ++ val ++ BitVec.ofNat 20 age ++ kind ++ BitVec.ofNat 8 (s.grp ((s.thr k).group.getD 0)).gtag ++
    BitVec.ofNat 4 (coreOf k % 16) ++ BitVec.ofNat 4 (slotOf k)

/-- A mooring entry goes to its place in the fault area, by the order of arrival; one beyond FCAP, or whose place does not translate,
is counted as dropped (R383). -/
def State.writeMooring (s : State) (grid : Nat) (e : BitVec 128) : State :=
  let old := s.grid grid
  let gr := { old with arrived := old.arrived + 1 }
  let area := (gr.word 12).toNat
  if area = 0 then s
  else if ((gr.word 13).extractLsb' 0 16).toNat ≤ old.arrived then s.setGrid grid { gr with mdrop := gr.mdrop + 1 }
  else
    match s.berthAt gr (area + 256 + 16 * old.arrived) ⟨false, true⟩ with
    | none => s.setGrid grid { gr with mdrop := gr.mdrop + 1 }
    | some loc =>
      let s := s.setGrid grid { gr with nmoor := gr.nmoor + 1 }
      (s.homePerform loc 0 (.write (leBytes e.toNat 16))).2

/-- A moored thread is released with 0x301, unless its tow has already been frozen by another member's. The grid's one
report of 0x301 is not the thread's (R243). -/
def State.releaseAdrift (s : State) (k : Nat) (w : Wait) : State :=
  match w with
  | .moored kind obj _ _ _ =>
    if (s.thr k).wait != w then s
    else
      let n := s.reports.length
      let s := s.takeTrap k 0x301 0 none (some (BitVec.ofNat 64 obj)) (kind.setWidth 64 <<< 20)
      { s with reports := s.reports.take n ++ (s.reports.drop n).filter (fun r => r.cause != 0x301) }
  | _ => s

/-- The turns of the present cycle that are still to come, and the rest of the agenda. -/
def sameCycle : List (Nat × Turn) → List (Nat × Turn) × List (Nat × Turn)
  | (0, t) :: r => ((0, t) :: (sameCycle r).1, (sameCycle r).2)
  | r => ([], r)

/-- Whether a turn declares a grid adrift. -/
def Turn.declares : Turn → Bool
  | .event (.gridAdrift _) | .lazy (.gridAdrift _) => true
  | _ => false

/-- A declaration comes after every other turn of its cycle: a thread that its own event releases then takes the event (R243). -/
def State.yieldsCycle (s : State) : Bool := (sameCycle s.agenda).1.any (fun t => !t.2.declares)

/-- A grid is declared adrift (R242, R243). -/
def execGridAdrift (grid : Nat) (s : State) : Host.Outcome State Fault Refusal :=
  if !s.adrift grid then .next s
  else if s.yieldsCycle then
    .next { s with agenda := (sameCycle s.agenda).1 ++ (0, .event (.gridAdrift grid)) :: (sameCycle s.agenda).2 }
  else
    let gr := s.grid grid
    let ks := s.mooredOn (fun k _ _ _ => (s.thr k).group.isSome && (s.grp ((s.thr k).group.getD 0)).grid == grid)
    let s1 := ks.foldl (fun s k =>
      match (s.thr k).wait with
      | .moored kind obj val since _ => s.writeMooring grid (s.mooring k kind obj val since)
      | _ => s) s
    let s2 := ks.foldl (fun t k => t.releaseAdrift k (s.thr k).wait) s1
    let low := (ks.map (fun k => s.grp ((s.thr k).group.getD 0))).foldl (fun (m : Option Group) g =>
      match m with
      | none => some g
      | some x => if g.gid < x.gid then some g else m) none
    let s3 :=
      match low with
      | some g =>
        let r : Report := { grid := grid, cause := 0x301, gid := g.gid, package := packageOf g.cluster }
        { s2 with reports := s2.reports ++ [r] }
      | none => s2
    .next (s3.post gr.bk (eventWord gr.ident 0 4 (gr.ident.setWidth 16)))

end Sys2Proof.Machine
end

