-- ==== Sys2Proof/Machine/SaveImage.lean ====
section
/-! DEFINITION. Frames (R161, R438, R466), and the bytes of a save image, which lie in frames (R65, R236, R237, R345). -/
namespace Sys2Proof.Machine

/-! ### Frames (R161, R438, R466) -/

def alignUp (x size : Nat) : Nat := (x + 2 ^ size - 1) / 2 ^ size * 2 ^ size

/-- The units of a partition on a package. -/
def State.unitsOf (s : State) (part p : Nat) : List Nat :=
  ((s.pkg p).slices.filter (fun x => s.partKey p x.part == part)).flatMap (·.units)

/-- Whether 2^size bytes at a location are free: no frame overlaps them, and no page of them is retired. -/
def State.frameFree (s : State) (loc size : Nat) : Bool :=
  !s.frames.any (fun f => decide (loc < f.loc + 2 ^ f.size) && decide (f.loc < loc + 2 ^ size)) &&
    !(s.pkg (paPkg loc)).retired.any (fun r => decide (loc < r + 2 ^ 16) && decide (r < loc + 2 ^ size))

/-- The lowest free frame of a partition on a package (log 15). -/
def State.lowestFrame (s : State) (part p size : Nat) : Option Nat :=
  let us := s.unitsOf part p
  let cands := us.map (fun u => p * 2 ^ 40 + u * 2 ^ 32) ++ s.frames.map (fun f => alignUp (f.loc + 2 ^ f.size) size) ++
    (s.pkg p).retired.map (fun r => alignUp (r + 2 ^ 16) size)
  let ok (x : Nat) : Bool :=
    paPkg x == p && us.contains (paUnit x) && x / 2 ^ 32 == (x + 2 ^ size - 1) / 2 ^ 32 && s.frameFree x size
  (cands.filter ok).foldl (fun (m : Option Nat) x => match m with | none => some x | some y => some (min x y)) none

/-- A frame is taken. -/
def State.takeFrame (s : State) (part region p size : Nat) (charged : Bool) (image : Option Nat) : Option (Nat × State) :=
  (s.lowestFrame part p size).map (fun loc =>
    (loc, { s with frames := s.frames ++ [{ loc := loc, size := size, part := part, region := region, charged := charged, image := image }] }))

/-- Units of 64 KiB of a frame. -/
def frameUnits (size : Nat) : Nat := 2 ^ (size - 16)

/-- A frame is free again; its charge is released. -/
def State.dropFrame (s : State) (loc : Nat) : State :=
  match s.frames.find? (fun f => f.loc == loc) with
  | none => s
  | some f =>
    let s := { s with frames := s.frames.filter (fun x => x.loc != loc) }
    if f.charged then s.release f.part 4 f.region (frameUnits f.size) else s

/-- Bytes that Keel writes into frames, performed at their homes. -/
def State.keelWrite (s : State) (loc : Nat) (bs : List Byte) : State := if bs.isEmpty then s else (s.homePerform loc 0 (.write bs)).2

/-! ### The bytes of a save image (R65, R236, R237, R345) -/

/-- n bytes that no rule lays out: free values. -/
def freeBytes (tick n : Nat) : List Byte := ((List.range ((n + 7) / 8)).flatMap (fun i => leBytes (Config.freeWord (tick + i)).toNat 8)).take n

/-- The 12 bits of a handle in HST. -/
def Handle.hst (x : Handle) : Nat := x.st.code.toNat * 1024 + (if x.st = .faulted || x.st = .cancelled then x.cause.toNat else 0)

/-- The 320-byte record of a thread with a tow role (R236). -/
def Thread.record (t : Thread) (role : Nat) : List Byte :=
  let status := t.f.toBits.toNat + (if t.trap.h then 256 else 0) + role * 512 + (if t.trap.ab then 2048 else 0)
  leBytes t.a.toNat 8 ++ leBytes t.pc.toNat 8 ++ t.ptrs.toList.flatMap (fun p => leBytes p.toNat 8) ++ leBytes t.va.toNat 128 ++
    leBytes t.vm.toNat 4 ++ leBytes t.lc.toNat 4 ++ leBytes status 4 ++ leBytes 0 4 ++
    t.h.toList.flatMap (fun x => leBytes x.seq.toNat 4) ++ leBytes t.trap.epc.toNat 8 ++ leBytes t.trap.eaddr.toNat 8 ++
    leBytes (t.trap.cause.toNat % 2 ^ 32) 4 ++ leBytes (t.trap.einfo.toNat % 2 ^ 32) 4 ++ leBytes t.trap.ea.toNat 8 ++
    leBytes t.trap.ep6.toNat 8 ++ leBytes t.trap.ep7.toNat 8 ++ leBytes t.trap.ef.toBits.toNat 4 ++
    leBytes ((t.h.toList.zipIdx).foldl (fun n x => n + x.1.hst * 2 ^ (12 * x.2)) 0) 12

/-- The tow role of slot index i of a save image: none, tug, follower. -/
def Save.role (v : Save) (i : Nat) : Nat :=
  if v.tows.any (fun w => w.tug == i) then 1 else if v.tows.any (fun w => w.followers.contains i) then 2 else 0

/-- A fork record (R65); ORIGIN and GROUP, which no rule lays out, are free. -/
def ForkRec.bytes (r : ForkRec) (tick : Nat) : List Byte :=
  leBytes r.pc.toNat 8 ++ leBytes r.a.toNat 8 ++ r.ptrs.toList.flatMap (fun p => leBytes p.toNat 8) ++ freeBytes tick 16 ++ leBytes 0 32

/-- A ring descriptor with its stage and arrivals, a barrier record, an armed request in 64 bytes (log 26). -/
def ringBytes (r : Option Ring) : List Byte :=
  match r with
  | some r => leBytes r.parm.toNat 8 ++ leBytes r.s.toNat 4 ++ leBytes r.c 4
  | none => leBytes 0 16
def Bar.bytes (b : Bar) : List Byte := leBytes b.count 4 ++ leBytes b.c 4 ++ leBytes b.phase.toNat 4 ++ leBytes 0 4
def Armed.bytes (a : Armed) (tick : Nat) : List Byte :=
  [a.req.w0, a.req.w1, a.req.w2, a.req.w3, a.req.fo].flatMap (fun w => leBytes w.toNat 8) ++ leBytes a.gen.toNat 4 ++ freeBytes tick 20

/-- The status of a row in 2 bytes (R342), for the tail of a tile: RANKED, LOGK, REF and CNT (log 26). -/
def Row.bits (r : Row) : Nat := (if r.ranked then 1 else 0) + r.logk.toNat * 2 + (if r.ref then 16 else 0) + r.pairs.length * 256

/-- The pieces of a tile: its entries at their places, then the tail of 4,360 bytes (R345). -/
def Tile.pieces (t : Tile) (at0 : Nat) : List (Nat × List Byte) :=
  let tail := at0 + 2 ^ 19
  t.entries.map (fun e => (at0 + 16 * e.1, leBytes e.2.i.toNat 16)) ++
    [(tail, leBytes (t.scale.toNat + (if t.dirty then 2 ^ 16 else 0) + (if t.inuse then 2 ^ 17 else 0)) 8)] ++
    t.rows.map (fun r => (tail + 8 + 2 * r.1, leBytes r.2.bits 2)) ++
    (List.range 4096).filterMap (fun i =>
      let n := (List.range 8).foldl (fun n j => n + (if (tget t.entries {} (8 * i + j)).f then 2 ^ j else 0)) 0
      if n = 0 then none else some (tail + 264 + i, leBytes n 1))

/-- Lists of bytes one after the other, from an offset on. -/
def layOut : Nat → List (List Byte) → List (Nat × List Byte)
  | _, [] => []
  | o, b :: bs => (o, b) :: layOut (o + b.length) bs

/-- A list of bytes at a length. -/
def fitTo (n : Nat) (l : List Byte) : List Byte := (l ++ List.replicate (n - l.length) 0).take n

/-- A tow in 24 bytes of the header (log 26): its tug, the number of its followers, whether it runs and has begun the current instruction,
who has completed it, tug first, where it is frozen, and where the tug leads. -/
def Tow.bytes (w : Tow) : List Byte :=
  let at0 (x : Option Addr) : List Byte := match x with | some x => leBytes (2 ^ 56 + x.toNat) 8 | none => leBytes 0 8
  leBytes w.tug 1 ++ leBytes w.followers.length 1 ++ leBytes ((if w.running then 1 else 0) + (if w.begun then 2 else 0)) 2 ++
    leBytes ((w.members.zipIdx.filter (fun m => w.done.contains m.1)).foldl (fun n m => n + 2 ^ m.2) 0) 4 ++ at0 w.frozen ++ at0 w.next

/-- What a thread that was moored in a ring, or in a pod barrier, waits for: the kept stages and phases of R305, by slot index. -/
def Save.kept (v : Save) : List (Nat × W32) := v.threads.zipIdx.filterMap (fun e => e.1.2.kept.map (fun x => (e.2, x)))


/-- The header of 512 bytes (R237, log 26): the group registers, whether an abort has reached the group, the counts of the parts that
follow, the modes of its banks and the numbers of its saved tiles, its tows, the entries of each port. -/
def Save.header (v : Save) (aborted : Bool) : List Byte :=
  fitTo 64 (v.regs.flatMap (fun r => leBytes r.toNat 8)) ++ leBytes (if aborted then 1 else 0) 8 ++
    [v.threads.length, v.forks.length, (v.banks.filter (fun b => b.1 != .nc)).length, v.rings.length, v.bars.length, v.kept.length,
      v.armed.length, v.tiles.length].flatMap (fun n => leBytes n 4) ++
    leBytes (v.banks.zipIdx.foldl (fun n b => n + (modeBits b.1.1).toNat * 4 ^ b.2) 0) 8 ++
    leBytes (v.tiles.foldl (fun n t => n + 2 ^ t.1) 0) 8 ++ fitTo 192 (v.tows.flatMap Tow.bytes) ++
    fitTo 192 ((List.range 64).flatMap (fun i =>
      leBytes (match v.ports.find? (fun p => p.1 == i / 4 && p.2.1 == i % 4) with | some p => p.2.2.1.length | none => 0) 3))

/-- The parts of R237 in order, by offset: the header, the thread records, the fork records, the ports, the banks, rings, barrier records,
kept stages and phases, armed requests, tiles. What is not listed is zero. -/
def Save.pieces (v : Save) (aborted : Bool) (tick : Nat) : List (Nat × List Byte) :=
  let head := [fitTo 512 (v.header aborted)] ++ v.threads.zipIdx.map (fun e => e.1.2.record (v.role e.2)) ++
    v.forks.zipIdx.map (fun e => e.1.2.bytes (tick + 64 + 2 * e.2)) ++ v.ports.flatMap (fun p => p.2.2.1.map (fun x => leBytes x.toNat 8))
  let n0 := (head.map List.length).foldl (· + ·) 0
  let kept := v.banks.filter (fun b => b.1 != .nc)
  let n1 := n0 + 2 ^ 19 * kept.length
  let mid := v.rings.map ringBytes ++ v.bars.map Bar.bytes ++ v.kept.map (fun k => leBytes k.1 4 ++ leBytes k.2.toNat 4) ++ v.armed.zipIdx.map (fun e => e.1.1.bytes (tick + 256 + 3 * e.2))
  let n2 := n1 + (mid.map List.length).foldl (· + ·) 0
  layOut 0 head ++ kept.zipIdx.flatMap (fun b => b.1.2.map (fun c => (n0 + 2 ^ 19 * b.2 + c.1, [c.2]))) ++ layOut n1 mid ++
    v.tiles.zipIdx.flatMap (fun t => t.1.2.pieces (n2 + (2 ^ 19 + 4360) * t.2))

/-- log2 of the bytes of the frame that a save area takes. -/
def saveFrameSize (units : Nat) : Nat := 16 + Nat.clog 2 units

/-- A save image is written into its region's save area: the frame that its pre-emption has taken on the package (R237). -/
def State.writeImage (s : State) (v : Save) (aborted : Bool) : State :=
  match v.frame with
  | none => s
  | some loc =>
    let m := memClear s.mem loc (2 ^ saveFrameSize v.units)
    { s with mem := (v.pieces aborted s.tick).foldl (fun m c => memWrite m (loc + c.1) c.2) m, tick := s.tick + 512 }


end Sys2Proof.Machine
end

