-- ==== Sys2Proof/Machine/Preempt.lean ====
section
/-! DEFINITION. Pre-emption, the save image and restore (R76, R160, R168, R234 to R239, R305, R325, R345, R440), and the
placement that a saved group comes before (R376, R380). -/
namespace Sys2Proof.Machine

/-! ### Where a saved group fits (R76, R238, R345) -/

/-- The threads of a saved group on each of its cores, by the core's place. -/
def Save.need (v : Save) (pos : Nat) : Nat := (v.threads.filter (fun e => e.1 == pos)).length

/-- The places of a group's cores. -/
def Save.places (v : Save) : List Nat := (List.range 16).filter (fun p => decide (0 < v.need p))

/-- The places of a tow's cores, in core order. -/
def Save.towPlaces (v : Save) (w : Tow) : List Nat := w.members.map (fun i => (v.threads.getD i (0, {})).1)

/-- Cores for the places of tows: consecutive ones whose slot 0 is free (R76). -/
def towCores (v : Save) (cap : List (List Nat)) : List Tow → List (Nat × Nat) → Option (List (Nat × Nat))
  | [], acc => some acc
  | w :: ws, acc =>
    let ps := v.towPlaces w
    let ok (c : Nat) : Bool := decide (c + ps.length ≤ 16) && (ps.zipIdx).all (fun e =>
      !acc.any (fun x => x.2 == c + e.2) && (cap.getD (c + e.2) []).contains 0 && decide (v.need e.1 ≤ (cap.getD (c + e.2) []).length))
    match (List.range 16).find? ok with
    | none => none
    | some c => towCores v cap ws (acc ++ (ps.zipIdx).map (fun e => (e.1, c + e.2)))

/-- Cores for the other places: the greatest need takes the core with the most free slots. -/
def restCores (cap : List (List Nat)) : List (Nat × Nat) → List (Nat × Nat) → Option (List (Nat × Nat))
  | [], acc => some acc
  | (p, n) :: r, acc =>
    let free := (List.range 16).filter (fun c => !acc.any (fun x => x.2 == c))
    let most := (free.map (fun c => (cap.getD c []).length)).foldl max 0
    match free.find? (fun c => (cap.getD c []).length == most) with
    | none => none
    | some c => if most < n then none else restCores cap r (acc ++ [(p, c)])

/-- The slot of each slot index: a member of a tow in slot 0, the others in the lowest free slots of their core. -/
def indexSlots (v : Save) (cap : List (List Nat)) (cores : List (Nat × Nat)) : List (Nat × Nat) :=
  let towed := v.tows.flatMap Tow.members
  let coreAt (p : Nat) : Nat := match cores.find? (fun e => e.1 == p) with | some e => e.2 | none => 0
  ((v.threads.zipIdx).foldl (fun (acc : List (Nat × Nat) × List (List Nat)) e =>
    let c := coreAt e.1.1
    let l := acc.2.getD c []
    let x := if towed.contains e.2 then 0 else (l.find? (fun y => !(y == 0 && v.tows.any (fun w => (v.towPlaces w).contains e.1.1)))).getD 0
    (acc.1 ++ [(c, x)], acc.2.set c (l.filter (· != x)))) ([], cap)).1

/-- The free slots of the cores of a cluster whose ports a group of a manifest can take. -/
def State.openSlots (s : State) (ck : Nat) (w : List Word) : List (List Nat) :=
  (s.freeSlots ck).zipIdx.map (fun e =>
    if (List.range (mfPorts w)).all (fun q => (s.port (ck * 16 + e.2) q).group.isNone) then e.1 else [])

/-- The tiles of a restored group: each keeps its number if that is free, else it takes the lowest free one (R345). -/
def State.newTiles (s : State) (ck : Nat) (ts : List Nat) : Option (List Nat) :=
  let free := (List.range 16).filter (fun t => (s.tile ck t).group.isNone)
  let spare := free.filter (fun t => !ts.contains t)
  (ts.foldl (fun (acc : Option (List Nat × List Nat)) t =>
    match acc with
    | none => none
    | some (l, sp) =>
      if free.contains t then some (l ++ [t], sp)
      else
        match sp with
        | [] => none
        | x :: r => some (l ++ [x], r)) (some ([], spare))).map (·.1)

/-- Where a saved group fits on a cluster: its plan and its tiles. It takes the cores and slots of its old placement where
those are free, so that its tokens (R274) name the same registers (log 27). -/
def State.fitsSaved (s : State) (g ck : Nat) : Option (Plan × List Nat) :=
  let gr := s.grp g
  let grid := s.grid gr.grid
  match gr.save with
  | none => none
  | some v =>
    let cap := s.openSlots ck grid.man
    let towed := v.tows.flatMap v.towPlaces
    let rest := sortBy (fun x y => decide (y.2 ≤ x.2)) ((v.places.filter (fun p => !towed.contains p)).map (fun p => (p, v.need p)))
    let slots :=
      if v.homes.all (fun e => (cap.getD e.1 []).contains e.2) then some v.homes
      else ((towCores v cap v.tows []).bind (restCores cap rest)).map (indexSlots v cap)
    match slots, s.newTiles ck gr.tiles with
    | some sl, some ts =>
      let coreFor (pos : Nat) : Nat := match (v.threads.zip sl).find? (fun e => e.1.1 == pos) with | some e => e.2.1 | none => 0
      let room := v.places.all (fun pos =>
          decide ((s.core (ck * 16 + coreFor pos)).deque.length + (v.forks.filter (fun f => f.1 == pos)).length ≤ 64)) &&
        decide ((s.clus ck).armed.length + (s.clus ck).fired.length + v.armed.length ≤ 64)
      if s.clusterOk grid ck && room then (s.planWith ck grid.man (some sl)).map (fun p => (p, ts)) else none
    | _, _ => none

/-- As `fitsSaved`, with the charges of the restore. -/
def State.fitsSavedCharged (s : State) (g ck : Nat) : Option (Plan × List Nat × State) :=
  let grid := s.grid (s.grp g).grid
  match s.fitsSaved g ck with
  | none => none
  | some (p, ts) => (s.chargeAll grid.part grid.region (placeCharges grid.man p.cores.length)).map (fun s => (p, ts, s))

/-- The priority of a group's region (R438). -/
def State.prioOf (s : State) (g : Nat) : Nat :=
  let gr := s.grid (s.grp g).grid
  (s.rcb gr.part gr.region).prio

/-- Whether a saved group of a region of at least a priority fits a cluster of a package: it is restored first (R440). -/
def State.savedFirst (s : State) (p part prio : Nat) : Bool :=
  s.groups.any (fun e =>
    e.2.st == .saved && (s.grid e.2.grid).part == part && decide (prio ≤ s.prioOf e.1) &&
      (List.range 64).any (fun c => (s.fitsSavedCharged e.1 (p * 64 + c)).isSome))

/-- The first grid of a package's order of which a group fits (R376), with the placement of its next group (R380). -/
def State.pickGroup (s : State) (package part : Nat) : Option ((Nat × Grid) × Plan × State) :=
  (s.contenders package part).findSome? (fun e =>
    ((e.2.scan package).findSome? (fun ck => s.fitsCharged e.2 ck)).map (fun r => (e, r)))

/-- The next dealt group of a package is placed on the first cluster that fits (R376, R380), unless a saved group of at least its
region's priority is restored first (R440): no later grid is then placed in its stead. -/
def execGroupPlace (package part : Nat) (s : State) : Host.Outcome State Fault Refusal :=
  match s.pickGroup package part with
  | none => .next s
  | some ((grid, gr), p, s') =>
    match gr.held package with
    | [] => .next s
    | gid :: rest =>
      if s.savedFirst package part (s.rcb part gr.region).prio then .next s else
      let s := s'
      let s := s.placeGroup grid gid p
      .next (s.modGrid grid (fun gr =>
        { gr with
          dealt := tset gr.dealt package rest
          placed := tset gr.placed package (tget gr.placed 0 package + 1)
          disp := gr.disp + 1
          quietSince := s.now }))

/-! ### Saving (R234, R235, R237, R440) -/

/-- Whether a thread's instruction is in flight: it has begun and does not moor, or its mooring is over, or it has a launch on its way. In
a running tow every member that has not completed the current instruction is in flight, moored or not (R76). -/
def State.flying (s : State) (k : Nat) : Bool :=
  let t := s.thr k
  t.live &&
    (((match t.wait with | .moored _ _ _ _ _ => false | _ => true) && (!t.got.isEmpty || t.sent.isSome || t.drawn.isSome || t.freed)) ||
      s.launches.any (fun l => l.thread == some k) ||
      (match s.towOf k with
        | some w => w.frozen.isNone && (w.begun || !w.done.isEmpty) && !w.done.contains k
        | none => false))

/-- Whether a bank of a saved group needs room in its image: it is no way, or a switch is pending that makes it another mode. -/
def Bank.saves (b : Bank) : Bool := b.mode != .nc || b.queue.any (fun q => q.mode != .nc)

/-- The bytes of a group's save image at most, in units of 64 KiB; ring descriptors and barrier records count 16 bytes, a kept stage 8.
What its instructions and operations in flight can still add is counted: a fork record, a port entry and an armed request for each thread,
and every tile (log 26). -/
def State.saveSize (s : State) (g : Nat) : Nat :=
  let gr := s.grp g
  let ck := gr.cluster
  let ports := (gr.cores.flatMap (fun c => (List.range 4).map (fun q => s.port (ck * 16 + c) q))).filter (fun p => p.group == some g)
  let fly := (gr.slots.filter s.flying).length
  let busy := s.opsOut g true || decide (0 < fly)
  let n := 512 + 328 * gr.slots.length + 128 * ((s.forksOf g).length + fly) +
    8 * ((ports.map (fun p => p.entries.length)).foldl (· + ·) 0 + fly) +
    2 ^ 19 * (gr.banks.filter (fun b => (s.bank ck b).saves)).length + 16 * (gr.rings.length + gr.bars.length) +
    64 * (((s.clus ck).armed.filter (fun a => a.req.group == g)).length + fly) +
    (2 ^ 19 + 4360) * (gr.tiles.filter (fun t => busy || (s.tile ck t).dirty || (s.tile ck t).inuse)).length
  (n + 65535) / 65536

/-- The state without a group and its charges: what Keel weighs a pre-emption against. -/
def State.without (s : State) (g : Nat) : State :=
  let gr := s.grp g
  let grid := s.grid gr.grid
  ((s.freeGroup g).releaseAll grid.part grid.region (placeCharges grid.man gr.cores.length)).modGrp g (fun x => { x with st := .saved, cluster := 2 ^ 20 })

/-- Whether a waiting group of higher priority, which has waited long enough, fits a group's cluster without it, and not
with it (R440). -/
def State.waiterFor (s : State) (v : Nat) : Bool :=
  let gr := s.grp v
  let ck := gr.cluster
  let part := (s.grid gr.grid).part
  let delay := (s.part part).delay
  let t := s.without v
  s.grids.any (fun e =>
    e.2.part == part && e.2.st != .ended && !(e.2.held (packageOf ck)).isEmpty && decide (s.prioOf v < (s.rcb part e.2.region).prio) &&
      decide (delay ≤ s.now - tget e.2.dealtAt 0 (packageOf ck)) && (s.fitsCharged e.2 ck).isNone && (t.fitsCharged e.2 ck).isSome) ||
  s.groups.any (fun e =>
    e.2.st == .saved && (s.grid e.2.grid).part == part && decide (s.prioOf v < s.prioOf e.1) &&
      (match e.2.save with | some x => decide (delay ≤ s.now - x.since) | none => false) && (s.fitsSavedCharged e.1 ck).isNone &&
      (t.fitsSavedCharged e.1 ck).isSome)

/-- The frame that a group's save area would take. -/
def State.saveArea (s : State) (v : Nat) : Option Nat :=
  s.lowestFrame (s.grid (s.grp v).grid).part (packageOf (s.grp v).cluster) (saveFrameSize (s.saveSize v))

/-- Whether a group may be pre-empted: its save area has a frame and can be charged, and it then is (R237). -/
def State.victim (s : State) (v : Nat) : Option State :=
  let gr := s.grp v
  let grid := s.grid gr.grid
  if thas s.groups v && gr.st == .placed && s.waiterFor v && (s.saveArea v).isSome then s.charge grid.part 4 grid.region (s.saveSize v)
  else none

/-- The frame of a group's save area is taken; its charge is the image's. -/
def State.takeArea (s : State) (v : Nat) : State :=
  let grid := s.grid (s.grp v).grid
  match s.saveArea v with
  | some loc =>
    { s with frames := s.frames ++ [{ loc := loc, size := saveFrameSize (s.saveSize v), part := grid.part, region := grid.region, charged := false }] }
  | none => s

/-- Whether Keel takes group x before group y: lower priority, then a region that Deck prefers, then the later placement. -/
def State.before (s : State) (x y : Nat) : Bool :=
  let liked (g : Nat) : Bool :=
    (s.pkg (packageOf (s.grp g).cluster)).hints.contains ((s.grid (s.grp g).grid).part, (s.grid (s.grp g).grid).region)
  decide (s.prioOf x < s.prioOf y) ||
    (decide (s.prioOf x = s.prioOf y) &&
      ((liked x && !liked y) || (liked x == liked y && decide ((s.grp y).placedAt < (s.grp x).placedAt))))

/-- A transfer ends with 0x2F0, and what it has still on its way is not performed; one that has stopped on a fault keeps that. -/
def State.dropXfer (s : State) (ck ch : Nat) (x : Xfer) : State :=
  let s := (List.range x.beats.length).foldl (fun s b => s.dropBeat ck ch x.id b) s
  s.endXfer ck ch (if x.cause.isSome then x else { x with cause := some 0x2F0, eaddr := none })

/-- Whether a beat of a transfer waits for a rotation (R292, R305). -/
def State.heldAhead (s : State) (x : Xfer) : Bool :=
  x.cause.isNone && !x.cancelled && x.beats.any (fun b => b.st == .ahead || (b.st == .waiting && (s.beatAhead x b).isSome))

/-- The unfinished transfers of a group, with their channels, that a test accepts. -/
def State.xfersOf (s : State) (g : Nat) (p : Xfer → Bool) : List (Nat × Xfer) :=
  (s.clus (s.grp g).cluster).channels.flatMap (fun e =>
    (e.2.xfers.filter (fun x => !x.finished && x.req.group == g && p x)).map (fun x => (e.1, x)))

/-- Keel or the dispatcher begins to save a group: its slots issue no more, copies held beyond d are cancelled at once
(R234, R305, R440). -/
def execPreemption (group : Nat) (s : State) : Host.Outcome State Fault Refusal :=
  match s.victim group with
  | none => .next s
  | some s' =>
    let part := (s.grid (s.grp group).grid).part
    if s.groups.any (fun e => e.1 != group && (s.grid e.2.grid).part == part && (s.victim e.1).isSome && s.before e.1 group) then .next s
    else
      let s := (s'.takeArea group).modGrp group (fun x =>
        { x with st := .saving, savingSince := s.now, saveUnits := s.saveSize group, saveFrame := s.saveArea group })
      .next ((s.xfersOf group s.heldAhead).foldl (fun s e => s.failXfer (s.grp group).cluster e.1 e.2 0x2F0 none) s)

/-- The requests of a group that its cores or the engine hold end with 0x2F0. -/
def State.dropRequests (s : State) (g : Nat) : State :=
  let ck := (s.grp g).cluster
  let rs := (List.range 16).flatMap (fun i => (s.core (ck * 16 + i)).fifo.filter (fun r => r.group == g)) ++
    (s.clus ck).fired.filter (fun r => r.group == g)
  let s := (List.range 16).foldl (fun s i => s.fifoDrop (ck * 16 + i) (fun r => r.group == g)) s
  let s := s.modClus ck (fun c => { c with fired := c.fired.filter (fun r => r.group != g) })
  rs.foldl (fun s r => s.finish g r.thread r.h r.seq (.faulted 0x2F0 none)) s

/-- The matrix commands and chain changes of a group end with 0x2F0. -/
def State.dropCommands (s : State) (g : Nat) : State :=
  let ck := (s.grp g).cluster
  let cs := (s.grp g).arrays.flatMap (fun a => (s.arr ck a).all.filter (fun c => c.group == g))
  let ls := (s.clus ck).links.filter (fun l => (s.thr l.handle.1).group == some g)
  let s := (s.grp g).arrays.foldl (fun s a =>
    s.modArr ck a (fun x => { x with qn := x.qn.filter (fun c => c.group != g), qh := x.qh.filter (fun c => c.group != g) })) s
  let s := s.modClus ck (fun c => { c with links := c.links.filter (fun l => !ls.contains l) })
  let s := cs.foldl (fun s c =>
    match c.handle with
    | some (k, n, q) => s.finish g k n q (.faulted 0x2F0 none)
    | none => s.undeliverable g 0x2F0) s
  ls.foldl (fun s l => s.finish g l.handle.1 l.handle.2.1 l.handle.2.2 (.faulted 0x2F0 none)) s

/-- The pending switches of a bank complete, in order (R185). -/
def State.settleBank (s : State) (ck b : Nat) : State :=
  let bk := s.bank ck b
  let s := bk.queue.foldl (fun s q =>
    let s := s.enterMode ck b q.mode q.z
    match q.handle with
    | none => s
    | some (k, n, seq) => s.finish (bk.group.getD 0) k n seq .complete) s
  s.setBank ck b { s.bank ck b with queue := [] }

/-- The place of a core among a group's, of a thread among its slots. -/
def Group.placeOf (gr : Group) (core : Nat) : Nat := gr.cores.findIdx (· == core % 16)
def Group.indexOf (gr : Group) (k : Nat) : Nat := gr.slots.findIdx (· == k)

/-- What a thread's record holds (R236, R305): a moored thread waits afresh, with the stage or phase that is kept. One that is moored
in `podbar` has moored (R302); one that waits with a write beyond d keeps the stage that its ring had when the write resolved. -/
def Thread.saved (t : Thread) : Thread :=
  let pod := match t.wait with | .moored kd _ _ _ _ => kd == 5 | _ => false
  let views : Table W32 := match t.wait with | .moored kd j _ _ _ => if kd == 7 then t.views.filter (fun e => e.1 == j) else [] | _ => []
  { t.settled with kept := t.kept, views := views, block := none, yielding := none, sent := if pod then some none else none }

/-- The handles of unfired armed requests of a thread, with their SEQ, in a state: complete in a save record, pending once the requests
are armed again (R235, R236). -/
def Thread.markArmed (t : Thread) (x : HState) (as : List Req) : Thread :=
  as.foldl (fun t r =>
    let i : BitVec 3 := BitVec.ofNat 3 r.h
    if (t.handle i).seq = r.seq then t.setHandle i { t.handle i with st := x } else t) t

/-- The requests of a thread among armed ones. -/
def armedOf (as : List Armed) (k : Nat) : List Req := (as.map (·.req)).filter (fun r => r.thread == k)

/-- A tow with its members named by another name. -/
def Tow.rename (w : Tow) (f : Nat → Nat) : Tow :=
  { w with
    tug := f w.tug, followers := w.followers.map f, done := w.done.map f, begun := w.done.contains w.tug,
    held := w.held.map Thread.saved }

/-- The save image of a group (R237). -/
def State.image (s : State) (g : Nat) : Save :=
  let gr := s.grp g
  let ck := gr.cluster
  let idx := gr.indexOf
  let inBank (b loc : Nat) : Bool := decide (bankLoc ck b 0 ≤ loc) && decide (loc < bankLoc ck b 0 + 2 ^ 19)
  let so (loc : Nat) : Nat := gr.banks.findIdx (fun b => inBank b loc) * 2 ^ 19 + (loc - bankBase) % 2 ^ 19
  let arms := (s.clus ck).armed.filter (fun a => a.req.group == g)
  { cluster := ck, gtag := gr.gtag, since := s.now, homes := gr.slots.map (fun k => (coreOf k % 16, slotOf k)),
    regs := [BitVec.ofNat 64 gr.gid, BitVec.ofNat 64 gr.gtag, gr.fstat.setWidth 64, (boolBit gr.rstat).setWidth 64, gr.smiss.setWidth 64,
      s.threshold g, gr.thsel.setWidth 64, (gr.ufault ++ gr.ufaults).setWidth 64],
    threads := gr.slots.map (fun k => (gr.placeOf (coreOf k), (s.thr k).saved.markArmed .complete (armedOf arms k))),
    ports := gr.cores.zipIdx.flatMap (fun c => ((List.range 4).filter (fun q => (s.port (ck * 16 + c.1) q).group == some g)).map (fun q =>
      let p := s.port (ck * 16 + c.1) q
      (c.2, q, p.entries.map (·.val), p.link.bind gr.slotOfBank))),
    forks := (s.forksOf g).map (fun r => (gr.placeOf (coreOf r.creator), { r with creator := idx r.creator })),
    banks := gr.banks.map (fun b => ((s.bank ck b).mode,
      if (s.bank ck b).mode = .nc then [] else (s.mem.filter (fun e => inBank b e.1)).map (fun e => (e.1 - bankLoc ck b 0, e.2)))),
    lands := (s.landings.filter (fun e => gr.banks.any (fun b => inBank b e.1))).map (fun e => (so e.1, e.2)),
    rings := gr.rings.map (fun r => (s.ring ck r).2), bars := gr.bars.map (fun r => s.bar ck r),
    armed := arms.map (fun a => ({ a with req := { a.req with thread := idx a.req.thread } }, so a.loc)),
    tiles := (gr.tiles.filter (fun t => (s.tile ck t).dirty || (s.tile ck t).inuse)).map (fun t => (t, s.tile ck t)),
    tows := (s.tows.filter (fun w => gr.slots.contains w.tug)).map (fun w => w.rename idx), units := gr.saveUnits,
    frame := gr.saveFrame }

/-- The drain of a group is over, or its limit has passed: operations still running end with 0x2F0, the save image is
written, and the group leaves its cluster (R234 to R237, R325). -/
def execDrainLimitExpiry (group : Nat) (s : State) : Host.Outcome State Fault Refusal :=
  let gr := s.grp group
  let ck := gr.cluster
  let grid := s.grid gr.grid
  let paired := gr.arrays.any (fun a => (s.arr ck a).all.any (fun c => c.group == group && c.pair != 0))
  if gr.st ≠ .saving || gr.slots.any (fun k => s.flying k || s.inFlight k) || paired || s.writebacksOut ck ||
      (s.opsOut group true && decide (s.now < gr.savingSince + s.drainLimit grid.part (packageOf ck))) then .next s
  else
    let s := gr.slots.foldl (fun s k => s.dropReservations k) s
    let s := (s.xfersOf group (fun _ => true)).foldl (fun s e => s.dropXfer ck e.1 e.2) (s.dropRequests group)
    let s := gr.banks.foldl (fun s b => s.settleBank ck b) (s.dropCommands group)
    let s := gr.cores.foldl (fun s c => s.mergeWhere (ck * 16 + c) (fun _ => true)) s
    let s := s.writebackAll ck
    let img := s.image group
    let aborted := gr.aborted || grid.reached.contains (packageOf ck)
    let s := s.writeImage img aborted
    let s := s.modClus ck (fun c => { c with armed := c.armed.filter (fun a => a.req.group != group) })
    let s := (s.freeGroup group).releaseAll grid.part grid.region (placeCharges grid.man gr.cores.length)
    let s := s.modGrp group (fun x =>
      { x with st := .saved, save := some img, slots := [], banks := [], rings := [], bars := [], aborted := aborted, saveFrame := none })
    .next (s.stir group)

/-! ### Restore (R160, R238, R239, R305, R345) -/

/-- A kind 011 address that names the old placement names the new one (R160). -/
def rewrite (old oldTag ck tag : Nat) (v : Word) : Word :=
  if v.extractLsb' 52 4 = 0xB && (v.extractLsb' 42 6).toNat = old % 64 && (v.extractLsb' 24 8).toNat = oldTag % 256 then
    v.extractLsb' 48 16 ++ BitVec.ofNat 6 (ck % 64) ++ v.extractLsb' 32 10 ++ BitVec.ofNat 8 tag ++ v.extractLsb' 0 24
  else v

/-- The banks of a restored group: allotted anew, with their contents; one that was a way is an empty way (R168). -/
def State.replayBanks (s : State) (ck g : Nat) (bs : List (Nat × BankMode × List (Nat × Byte))) : State :=
  bs.foldl (fun s e =>
    let s := s.setBank ck e.1 { s.bank ck e.1 with group := some g }
    let s := s.enterMode ck e.1 e.2.1 false
    { s with mem := memMasked s.mem (bankLoc ck e.1 0) e.2.2 }) s

/-- A ring descriptor with its record; its banks hold the ring (R305). -/
def State.replayRing (s : State) (g r : Nat) (v : Option Ring) : State :=
  let ck := (s.grp g).cluster
  let s := s.setRing ck r (some g, v)
  match v with
  | none => s
  | some x =>
    (ringSlots x.parm).foldl (fun s i =>
      match (s.grp g).banks[i]? with
      | some b => s.setBank ck b { s.bank ck b with ring := some r }
      | none => s) s

/-- A saved group is placed, replayed, rewritten and made ready (R238). -/
def execGroupRestore (group cluster : Nat) (s : State) : Host.Outcome State Fault Refusal :=
  let old := s.grp group
  let grid := s.grid old.grid
  match old.st, old.save, s.fitsSavedCharged group cluster with
  | .saved, some v, some (p, ts, s) =>
    let ck := cluster
    let tag := s.freeTag ck
    let fix := rewrite v.cluster v.gtag ck tag
    let key (i : Nat) : Nat := match p.slots[i]? with | some e => (ck * 16 + e.1) * 16 + e.2 | none => 0
    let keys := (List.range p.slots.length).map key
    let renum (t : BitVec 4) : BitVec 4 := BitVec.ofNat 4 (ts.getD (old.tiles.findIdx (· == t.toNat)) t.toNat)
    let sel := old.thsel
    let thsel : BitVec 12 := if sel.getLsbD 11 then sel.extractLsb' 11 1 ++ renum (sel.extractLsb' 7 4) ++ sel.extractLsb' 0 7 else sel
    let s := s.release grid.part 4 grid.region v.units
    let s := match v.frame with | some loc => s.dropFrame loc | none => s
    let s := s.setGrp group
      { old with cluster := ck, gtag := tag, st := .placed, slots := keys, banks := p.banks, rings := p.rings, bars := p.bars,
                 tiles := ts, thsel := thsel, placedAt := s.now, save := none }
    let s := s.replayBanks ck group (p.banks.zip v.banks)
    let s := s.allotUnits group p grid.man ts
    let s := v.lands.foldl (fun s e =>
      match s.landLoc group e.1 with
      | some loc => s.setLandInfo loc e.2
      | none => s) s
    let coreFor (pos : Nat) : Nat := ck * 16 + (match (v.threads.zip p.slots).find? (fun e => e.1.1 == pos) with | some e => e.2.1 | none => 0)
    let s := v.ports.foldl (fun s e =>
      let (pos, q, vals, link) := e
      let b := link.bind (fun sl => p.banks[sl]?)
      let s := s.setPort (coreFor pos) q { group := some group, entries := vals.map (fun x => { val := x }), link := b }
      match b with
      | some b => s.setBank ck b { s.bank ck b with port := some (coreFor pos, q) }
      | none => s) s
    let aborted := old.aborted || grid.reached.contains (packageOf ck)
    let s := (if aborted then [] else v.forks).foldl (fun s e =>
      s.modCore (coreFor e.1) (fun c =>
        { c with deque := c.deque ++ [{ e.2 with creator := key e.2.creator, ptrs := e.2.ptrs.map fix }] })) s
    let s := (p.rings.zip v.rings).foldl (fun s e => s.replayRing group e.1 e.2) s
    let s := (p.bars.zip v.bars).foldl (fun s e => s.setBar ck e.1 { e.2 with group := some group }) s
    let s := v.armed.foldl (fun s e =>
      match s.landLoc group e.2 with
      | some loc =>
        let a : Armed := { e.1 with req := { e.1.req with thread := key e.1.req.thread }, loc := loc }
        s.modClus ck (fun c => { c with armed := c.armed ++ [a] })
      | none => s) s
    let s := v.tiles.foldl (fun s e =>
      s.setTile ck (ts.getD (old.tiles.findIdx (· == e.1)) e.1) { e.2 with group := some group }) s
    let s := s.acquireOn ck p.cores
    let s := (v.threads.zipIdx).foldl (fun s e =>
      let t := e.1.2
      s.setThr (key e.2)
        { t with ptrs := t.ptrs.map fix, trap := { t.trap with ep6 := fix t.trap.ep6, ep7 := fix t.trap.ep7 } }) s
    let s := v.armed.foldl (fun s e => s.modThr (key e.1.req.thread) (fun t => t.markArmed .pending [e.1.req])) s
    let s := if aborted then s.dropArmed group else s
    let tows := v.tows.map (fun w => w.rename key)
    let s := { s with tows := s.tows ++ tows }
    let s := (tows.filter (fun w => w.frozen.isSome)).foldl (fun s w => w.followers.foldl (fun s k =>
      { s.modThr k (fun t => { t with wait := .moored 8 0 0 s.now s.moorings }) with moorings := s.moorings + 1 }) s) s
    .next (s.stir group)
  | _, _, _ => .next s

end Sys2Proof.Machine
end

