-- ==== Sys2Proof/Machine/Wake.lean ====
section
/-! DEFINITION. The wake: updates of experience slots, reads of them, and the instructions that they steer (R402 to R427). -/
namespace Sys2Proof.Machine

/-! ### Slots (R404, R406 to R409) -/

/-- A slot's fields (R404). -/
structure Slot where
  gen : BitVec 8
  dec : BitVec 8
  last : BitVec 16
  o : BitVec 16
  e : BitVec 16
  deriving DecidableEq, Repr

def Slot.ofWord (w : Word) : Slot :=
  { gen := w.extractLsb' 56 8, dec := w.extractLsb' 48 8, last := w.extractLsb' 32 16, o := w.extractLsb' 16 16, e := w.extractLsb' 0 16 }

def Slot.toWord (x : Slot) : Word := x.gen ++ x.dec ++ x.last ++ x.o ++ x.e

/-- The steps of R406: ageing, the count, the generation. -/
def Slot.tick (x : Slot) (loop : Bool) : Slot :=
  let x := if x.e = 0xFFFF then { x with e := 0x7FFF, o := if loop then x.o else x.o >>> 1 } else x
  { x with e := x.e + 1, gen := x.gen + 1 }

/-- LAST of a loop after one more iteration. -/
def Slot.count (x : Slot) : BitVec 16 := if x.last = 0xFFFF then x.last else x.last + 1

/-- A run record (R409). -/
def Slot.run (x : Slot) (t : BitVec 16) : Slot :=
  let x := x.tick true
  let o : BitVec 16 := if x.e = 1 then t else BitVec.ofNat 16 ((x.o.toNat + t.toNat) / 2)
  { x with o := o, dec := if x.e.toNat < 2 ∨ o.toNat < 4 then 0 else BitVec.ofNat 8 (min 3 (Nat.log2 o.toNat - 1)) }

/-- A slot after an observation (R407 to R409). -/
def Slot.note (x : Slot) (w : WakeObs) : Slot :=
  match w with
  | .branch b =>
    let x := x.tick false
    let o := x.o + (if b then 1 else 0)
    { x with o := o, last := (x.last <<< 1) ||| (if b then 1 else 0), dec := if x.e.toNat < 2 * o.toNat then 1 else 0 }
  | .load b l =>
    let x := x.tick false
    let o := x.o + (if b then 1 else 0)
    { x with o := o, last := l, dec := BitVec.ofNat 8 (min 7 (8 * o.toNat / x.e.toNat)) }
  | .taken => { x with last := x.count, gen := x.gen + 1 }
  | .fell => { x with last := 0 }.run x.count
  | .run t => x.run t

/-! ### Updates at their homes (R410, R411, R413) -/

/-- The value of a slot; one with an uncorrectable error reads as zero (R413). -/
def State.readSlot (s : State) (loc : Nat) : Word × State :=
  match s.readError loc 8 with
  | some c => (0, s.noteBad loc c)
  | none =>
    let (bs, s) := s.homePerform loc 0 (.read 8)
    (leWord bs, s)

/-- A slot is written; an error in it is gone. -/
def State.writeSlot (s : State) (loc : Nat) (v : Word) : State :=
  ({ s with flaws := s.flaws.filter (fun f => !(decide (loc ≤ f) && decide (f < loc + 8))) }.homePerform loc 0 (.write (leBytes v.toNat 8))).2

/-- The cache entry of a cluster for a slot takes a value, where there is one. -/
def State.refresh (s : State) (ck loc : Nat) (v : Word) : State :=
  s.modClus ck (fun c =>
    { c with wakeCache := c.wakeCache.map (fun e => if e.loc == loc then { e with val := v, time := s.now } else e) })

/-- Whether a queue holds an update of a thread to a slot that is older than a place in the order of updates. -/
def State.olderUpdate (s : State) (thread : Option Nat × Nat) (loc order : Nat) : Bool :=
  s.clusters.any (fun c => c.2.wakeQ.any (fun x => x.loc == loc && x.thread == thread && decide (x.order < order)))

/-- An update is performed at its home; the entry of the cluster that sent it is refreshed. -/
def State.performUpdate (s : State) (ck : Nat) (u : WakeUpd) : State :=
  let (v, s) := s.readSlot u.loc
  let v := ((Slot.ofWord v).note u.obs).toWord
  (s.writeSlot u.loc v).refresh ck u.loc v

/-- The oldest update of a cluster's queue is performed, after the earlier ones that its thread has made to the slot from another
cluster (R411). -/
def execWakeUpdatePerform (cluster : Nat) (s : State) : Host.Outcome State Fault Refusal :=
  match (s.clus cluster).wakeQ with
  | [] => .next s
  | u :: us =>
    if s.olderUpdate u.thread u.loc u.order then .next s
    else .next ((s.modClus cluster (fun c => { c with wakeQ := us })).performUpdate cluster u)

/-- Every cluster drains its queue (R418): the updates are performed in the order in which they were made. -/
def State.drainQueues (s : State) : State :=
  let us := s.clusters.flatMap (fun c => c.2.wakeQ.map (fun u => (c.1, u)))
  let s := (s.clusters.map (·.1)).foldl (fun s ck => s.modClus ck (fun c => { c with wakeQ := [] })) s
  (sortBy (fun x y => decide (x.2.order ≤ y.2.order)) us).foldl (fun s u => s.performUpdate u.1 u.2) s

/-- The dropped updates of a cluster are added to DROP of a copy, which saturates (R402, R410). -/
def State.flushDrops (s : State) (ck copy : Nat) : State :=
  match tget (s.clus ck).wakeDrops 0 copy with
  | 0 => s
  | n =>
    let (v, s) := s.readSlot copy
    let d := min ((v.extractLsb' 32 32).toNat + n) (2 ^ 32 - 1)
    (s.writeSlot copy (BitVec.ofNat 32 d ++ v.extractLsb' 0 32)).modClus ck (fun c => { c with wakeDrops := tdel c.wakeDrops copy })

def execWakeDropFlush (cluster copy : Nat) (s : State) : Host.Outcome State Fault Refusal := .next (s.flushDrops cluster copy)

/-! ### Reads (R412) -/

/-- An entry of the read cache of a cluster that is young enough. -/
def State.cached (s : State) (ck loc : Nat) : Option WakeRead :=
  (s.clus ck).wakeCache.find? (fun e => e.loc == loc && decide (s.now - e.time < 2 ^ 16))

/-- An entry becomes the most recently used; the least recently used of 256 is replaced. -/
def State.keep (s : State) (ck : Nat) (e : WakeRead) : State :=
  s.modClus ck (fun c =>
    let rest := c.wakeCache.filter (fun x => x.loc != e.loc)
    { c with wakeCache := (if 256 ≤ rest.length then rest.tail else rest) ++ [e] })

/-- The slot that a stalled thread waits for arrives. -/
def execWakeReadFill (thread : Nat) (s : State) : Host.Outcome State Fault Refusal :=
  let t := s.thr thread
  match t.wait, t.sent, t.watch with
  | .miss, some none, some loc =>
    let (v, s) := s.readSlot loc
    let s := s.keep (clusterOf (coreOf thread)) { loc := loc, val := v, time := s.now }
    .next (s.modThr thread (fun t => { t with sent := some (some v) }))
  | _, _, _ => .next s

/-- The value of a slot through the read cache. Code whose mapping carries no copy holds no such instruction (R403): the
value that it would read is free (log 28). -/
def wakeRead (slot : BitVec 16) : Exec Word := do
  let s ← get
  match s.wakeBase s.cur with
  | none => do
    set { s with tick := s.tick + 1 }
    pure (Config.freeWord s.tick)
  | some base =>
    let loc := base + 8 * slot.toNat
    match s.me.sent with
    | some (some v) => pure v
    | some none => waitFor .miss
    | none =>
      match s.cached s.myClus loc with
      | some e => do
        set (s.keep s.myClus e)
        pure e.val
      | none => do
        modMe (fun t => { t with sent := some none, watch := some loc })
        waitFor .miss

/-- DEC of a slot's value. -/
def decOf (v : Word) : Nat := (v.extractLsb' 48 8).toNat

/-! ### Instructions (R420 to R427) -/

/-- A wake branch: the tug reads and decides (R414). -/
def wakeBranch (p : Pred) (slot : BitVec 16) (target : Nat → Addr → Option Addr) (s : State) : Host.Outcome State Fault Refusal :=
  issue 12 p true (do
    if ← following then pure none
    else do
      let t ← getMe
      let v ← wakeRead slot
      match target (decOf v) t.pc with
      | none => pure none
      | some x => do
        checkStart x
        pure (some x)) s

/-- `wsel` (R422). -/
def execWsel (p : Pred) (slot : BitVec 16) (nvM1 : BitVec 3) (disp : BitVec 34) (s : State) : Host.Outcome State Fault Refusal :=
  wakeBranch p slot (fun d pc =>
    let v := if d < nvM1.toNat + 1 then d else 0
    some (pc + disp.signExtend 56 * 4 + BitVec.ofNat 56 (32 * v))) s

/-- `wbr` (R421). -/
def execWbr (p : Pred) (slot : BitVec 16) (thr : BitVec 8) (disp : BitVec 34) (s : State) : Host.Outcome State Fault Refusal :=
  wakeBranch p slot (fun d pc => if thr.toNat ≤ d then some (pc + disp.signExtend 56 * 4) else none) s

/-- `wpf` (R423). -/
def execWpf (p : Pred) (slot : BitVec 16) (tgt : CacheTgt) (n : BitVec 3) (m : MemMode) (unit : BitVec 24) (s : State) :
    Host.Outcome State Fault Refusal :=
  issue 12 p false (do
    let v ← wakeRead slot
    let len := min (decOf v * unit.toNat) (2 ^ 24 - 1)
    let x ← specAddr n m len len
    modify (fun s => s.prefetch s.myCore s.myGrp tgt (coverLines x len))
    pure none) s

/-- The decision of a slot, read by the executing thread. In a running tow its members use it from then on. -/
def readDec (slot : BitVec 16) : Exec Nat := do
  let v ← wakeRead slot
  modify (fun s =>
    match s.towOf s.cur with
    | some w => if w.frozen.isNone then s.setTow { w with dec := some (decOf v) } else s
    | none => s)
  pure (decOf v)

/-- The tug's decision in a tow, which every member uses (R414). A follower waits for the tug's read; where the tug has not executed the
instruction, the first member that does reads the slot (log 78, DESIGN CHOICE). -/
def sharedDec (slot : BitVec 16) : Exec Nat := do
  let s ← get
  match s.towOf s.cur with
  | some w =>
    if w.frozen.isNone && w.tug != s.cur then
      match w.dec with
      | some d => pure d
      | none => if w.done.contains w.tug then readDec slot else waitFor .miss
    else readDec slot
  | none => readDec slot

/-- `wunr` (R424). -/
def execWunr (p : Pred) (ty : Ty) (src : Opnd) (w : Bool) (slot : BitVec 16) (umax : BitVec 2) (s : State) :
    Host.Outcome State Fault Refusal :=
  issue 12 p false (do
    let v ← readSrc src (tyBytes ty) opA
    let n : W32 := (extendTo ty (lowOf ty v)).setWidth 32
    let dec ← sharedDec slot
    let d := min dec umax.toNat
    let lc := n >>> d
    let a := n &&& BitVec.ofNat 32 (2 ^ d - 1)
    modMe (fun t => { t with lc := lc, a := a.setWidth 64, f := { t.f with z := lc == 0, p := a != 0, n := false, c := false, v := false } })
    if w then wakeNote slot (.run (BitVec.ofNat 16 (min n.toNat 0xFFFF))) else pure ()
    pure none) s

/-- `wrd` (R425): at the home, after the thread's earlier updates of the slot. -/
def execWrd (p : Pred) (slot : BitVec 16) (s : State) : Host.Outcome State Fault Refusal :=
  issue 12 p false (do
    let s ← get
    match s.wakeBase s.cur with
    | none =>
      if slot = 0 then setA 0
      else do
        set { s with tick := s.tick + 1 }
        setA (Config.freeWord s.tick)
    | some base =>
      let loc := base + 8 * slot.toNat
      if s.olderUpdate (s.me.group, s.me.tid) loc s.moorings then waitFor .reply
      else do
        let (v, s) := s.readSlot loc
        set s
        setA v
    let t ← getMe
    modFlags (fun f => { f with z := t.a == 0, n := false, c := false, v := false })
    pure none) s

/-- `wnote` (R426). -/
def execWnote (p : Pred) (ty : Ty) (kind : SiteKind) (src : Opnd) (slot : BitVec 16) (s : State) :
    Host.Outcome State Fault Refusal :=
  issue 12 p false (do
    let x ← readSrc src (tyBytes ty) opA
    let v := extendTo ty (lowOf ty x)
    wakeNote slot (match kind with
      | .branch => .branch (v.getLsbD 0)
      | .load => .load (v.getLsbD 0) (v.extractLsb' 16 16)
      | .loop => .run (BitVec.ofNat 16 (min (v.extractLsb' 0 32).toNat 0xFFFF)))
    pure none) s

end Sys2Proof.Machine
end

