-- ==== Sys2Proof/Machine/Frames.lean ====
section
/-! DEFINITION. Keel's memory: page tables, shootdown, the code scanner, code generations (R33, R171 to R173, R458 to R460). -/
namespace Sys2Proof.Machine

/-! ### Page tables (R171 to R173) -/

def leafEntry (pa : Nat) (rd wr ex uc : Bool) : Word :=
  BitVec.ofNat 64 pa ||| ((boolBit uc ++ boolBit ex ++ boolBit wr ++ boolBit rd ++ boolBit true ++ boolBit true).setWidth 64)

/-- An entry is written at the level whose page size is 2^shift; tables on the way are made, an empty table in its place goes.
None where pages of another size stand in the way, or no frame is left for a table. -/
def State.putEntry (s : State) (part p va shift : Nat) (e : Word) : List Level → Nat → Option State
  | [], _ => none
  | l :: ls, table =>
    let at' := table + 8 * (va / 2 ^ l.shift % 2 ^ l.bits)
    let old := leWord (memBytes s.mem at' 8)
    if l.shift = shift then
      if old.getLsbD 0 && !old.getLsbD 1 then
        let t := old.toNat % 2 ^ 52 / 2 ^ 12 * 2 ^ 12
        if (memBytes s.mem t 4096).all (· == 0) then
          some { s.dropFrame t with mem := memWrite s.mem at' (leBytes e.toNat 8) }
        else none
      else some { s with mem := memWrite s.mem at' (leBytes e.toNat 8) }
    else
      if !old.getLsbD 0 then
        match s.takeFrame part 0 p 12 false none with
        | none => none
        | some (t, s) =>
          let s := { s with mem := memWrite (memClear s.mem t 4096) at' (leBytes (t + 1) 8) }
          s.putEntry part p va shift e ls t
      else if old.getLsbD 1 then none
      else s.putEntry part p va shift e ls (old.toNat % 2 ^ 52 / 2 ^ 12 * 2 ^ 12)

/-- A leaf in the page tables of a berth on a package. -/
def State.setLeaf (s : State) (bk part p va shift : Nat) (e : Word) : Option State :=
  let root := rootKey bk p
  match s.roots.find? (fun r => r.1 == root) with
  | some r => s.putEntry part p va shift e levels r.2
  | none =>
    match s.takeFrame part 0 p 12 false none with
    | none => none
    | some (t, s) => { s with mem := memClear s.mem t 4096, roots := tset s.roots root t }.putEntry part p va shift e levels t

/-- Every TLB of the machine drops a berth's entries that overlap a range, and no access keeps an old walk's result. -/
def State.shootdown (s : State) (bk va n : Nat) : State :=
  let hit (root v size : Nat) : Bool := root / 4096 == bk && decide (v < va + n) && decide (va < v + 2 ^ size)
  { s with
    clusters := s.clusters.map (fun e => (e.1, { e.2 with
      tlb := e.2.tlb.filter (fun l => !hit l.root l.va l.size)
      misses := e.2.misses.map (fun m => if m.root / 4096 == bk && m.started then { m with drops := (va, n) :: m.drops } else m)
      engWalked := e.2.engWalked.filter (fun w => !hit w.1 w.2.1.2 0) }))
    cores := s.cores.map (fun e => (e.1, { e.2 with utlb := e.2.utlb.filter (fun l => !hit l.root l.va l.size) }))
    threads := s.threads.map (fun e =>
      match e.2.walked with
      | some (k, _) => if hit (s.rootOf (e.2.group.getD 0)) (k * 2 ^ 16) 16 then (e.1, { e.2 with walked := none }) else e
      | none => e) }

/-- The leaf that a berth's tables on a package hold for an address. -/
def State.leafAt (s : State) (bk p va : Nat) : Option Leaf :=
  match s.walk (rootKey bk p) va with
  | .leaf l => some l
  | .fault _ => none

/-- Whether an executable page of a berth stands at a base, not yet removed. -/
def State.execAt (s : State) (bk va : Nat) : Bool := s.codeMaps.any (fun m => m.root / 4096 == bk && m.va == va && m.last.isNone)

/-- Whether a page is one of a wake copy, which only Keel and the wake hardware map (R402). -/
def State.wakePage (s : State) (pa : Nat) : Bool :=
  s.wakeCopies.any (fun e => decide (e.1 ≤ pa) && decide (pa < e.1 + (8 * (e.2.slots + 1) + 2 ^ 16 - 1) / 2 ^ 16 * 2 ^ 16))

/-- Whether a page of a berth on some package is one of a wake copy: no command maps it anew or unmaps it. -/
def State.keelPage (s : State) (bk va : Nat) (pkgs : List Nat) : Bool :=
  pkgs.any (fun p => match s.leafAt bk p va with | some l => s.wakePage l.pa | none => false)

/-- The lines of a frame that cores hold as code are gone (R21): the frame is given other contents. -/
def State.dropCode (s : State) (loc n : Nat) : State :=
  { s with
    cores := s.cores.map (fun (e : Nat × Core) =>
      (e.1, { e.2 with codeLines := e.2.codeLines.filter (fun l => !(decide (lineOf loc ≤ l.1) && decide (l.1 < lineOf (loc + n)))) })) }

/-- What a page of a berth was mapped to is gone: executable frames serve the generations before g until they are freed
(R459, R460), other frames are free. -/
def State.evict (s : State) (bk va g : Nat) (pkgs : List Nat) : State :=
  if s.execAt bk va then
    let mine (m : CodeMap) : Bool := m.root / 4096 == bk && m.va == va && m.last.isNone
    let locs := (s.codeMaps.filter mine).map (·.frame)
    { s with
      codeMaps := s.codeMaps.map (fun m => if mine m then { m with last := some (g - 1) } else m)
      frames := s.frames.map (fun f => if locs.contains f.loc then { f with gen := some g } else f) }
  else pkgs.foldl (fun s p => match s.leafAt bk p va with | some l => if l.va == va then s.dropFrame l.pa else s | none => s) s

/-- A page of a berth on every package of its partition; the frame of each. -/
def State.mapPage (s : State) (bk part va shift : Nat) (frames : List (Nat × Nat)) (rd wr ex uc : Bool) : Option State :=
  frames.foldlM (fun (s : State) f => s.setLeaf bk part f.1 va shift (leafEntry f.2 rd wr ex uc)) s

/-! ### The scanner (R33, R34) -/

/-- The instruction starts of a fetch block, in words, or the offset of its first non-instruction. -/
def scanBlock (bs : List Byte) (slots : Nat) : Nat → Nat → Except Nat (List Nat)
  | 0, _ => .ok []
  | n + 1, o =>
    if 32 ≤ o then .ok []
    else if o = 28 then if (bs.drop 28).all (· == 0) then .ok [] else .error 28
    else
      match decode ((bs.drop o).take (min 16 (32 - o))) with
      | .error _ => .error o
      | .ok (i, _) =>
        if i.form = .M && slots < leVal ((bs.drop (o + 8)).take 2) then .error o
        else
          match scanBlock bs slots n (o + i.form.bytes) with
          | .ok l => .ok (o / 4 :: l)
          | .error e => .error e

/-- The start bitmap of n blocks, from block b on. -/
def scanBlocks (slots : Nat) : Nat → Nat → List Byte → Except Nat (List Nat)
  | 0, _, _ => .ok []
  | n + 1, b, bs =>
    match scanBlock (bs.take 32) slots 8 0 with
    | .error e => .error (32 * b + e)
    | .ok l =>
      match scanBlocks slots n (b + 1) (bs.drop 32) with
      | .error e => .error e
      | .ok r => .ok (l.map (· + 8 * b) ++ r)

/-- n bytes, with zeros after the end of the list. -/
def padTo (bs : List Byte) (n : Nat) : List Byte := bs.take n ++ List.replicate (n - bs.length) 0

/-- The slots of a wake copy; none for code without one. -/
def State.copySlots (s : State) (wake : Option Nat) : Nat :=
  match wake with
  | some b => match s.wakeCopies.find? (fun e => e.1 == b) with | some e => e.2.slots | none => 0
  | none => 0

end Sys2Proof.Machine
end

