-- ==== Sys2Proof/Machine/Images.lean ====
section
/-! DEFINITION. Images: the file and its checks, loading and unloading, the freeing of frames, the writeback of the wake
(R402, R403, R415 to R418, R452 to R461, R468). -/
namespace Sys2Proof.Machine

/-! ### The image file (R452 to R455) -/

/-- A little-endian field of a list of bytes. -/
def fieldAt (bs : List Byte) (o n : Nat) : Nat := leVal ((bs.drop o).take n)

/-- A section entry (R453), with the bytes of its section. -/
structure Sect where
  kind : Nat
  perm : Nat
  role : Nat
  back : Nat
  off : Nat
  vaddr : Nat
  data : List Byte
  deriving DecidableEq, Repr

/-- A parsed image: flags, number of roles, S, sections. -/
structure ImageFile where
  shared : Bool
  roles : Nat
  slots : Nat
  sects : List Sect
  deriving DecidableEq, Repr

/-- The 64-byte header (R452), of an image of a length. -/
def headerOk (f : List Byte) (len : Nat) : Bool :=
  let nsec := fieldAt f 18 2
  let tab := fieldAt f 24 8
  decide (64 ≤ len) && fieldAt f 0 8 == 0x31584853 && fieldAt f 8 4 == 0 && fieldAt f 12 1 == 1 && decide (fieldAt f 13 1 < 4) &&
    decide (1 ≤ fieldAt f 14 2) && decide (fieldAt f 14 2 ≤ 255) && decide (4 ≤ nsec) && decide (nsec ≤ 1024) &&
    fieldAt f 20 4 == len && tab % 64 == 0 && decide (tab + 32 * nsec ≤ len) && fieldAt f 32 32 == 0

/-- The section entry at an offset. -/
def sectAt (f : List Byte) (o : Nat) : Sect :=
  { kind := fieldAt f o 1, perm := fieldAt f (o + 2) 1, role := fieldAt f (o + 3) 1, back := fieldAt f (o + 4) 2,
    off := fieldAt f (o + 8) 8, vaddr := fieldAt f (o + 24) 8,
    data := (f.drop (fieldAt f (o + 8) 8)).take (fieldAt f (o + 16) 8) }

/-- The checks of one section entry; n packages. -/
def sectOk (f : List Byte) (len n o : Nat) : Bool :=
  let x := sectAt f o
  let l := fieldAt f (o + 16) 8
  fieldAt f (o + 1) 1 == 0 && fieldAt f (o + 6) 2 == 0 && x.off % 64 == 0 && decide (x.off + l ≤ len) &&
    decide (1 ≤ x.kind) && decide (x.kind ≤ 8) &&
    (if x.kind = 1 || x.kind = 7 then x.vaddr % 2 ^ 16 == 0 && decide (x.vaddr + l ≤ 2 ^ 55) else x.vaddr == 0) &&
    (if x.kind = 7 then decide (x.perm < 4) && decide (x.back < n) else x.perm == 0 && x.back == 0) &&
    (if x.kind = 1 || x.kind = 5 then decide (x.role < fieldAt f 14 2) else x.role == 0) &&
    (x.kind != 1 || l % 2 ^ 16 == 0)

/-- Sections of a kind. -/
def ImageFile.of (m : ImageFile) (kind : Nat) : List Sect := m.sects.filter (fun x => x.kind == kind)

/-- The bytes of the one section of a kind; none where the image has none. -/
def ImageFile.bytes (m : ImageFile) (kind : Nat) : List Byte := (m.of kind).flatMap (·.data)

/-- Entries of n bytes of a table. -/
def entries (bs : List Byte) (n : Nat) : List Nat := (List.range (bs.length / n)).map (fun i => fieldAt bs (n * i) n)

/-- Placement ranges: role, first and last cluster. -/
def ImageFile.places (m : ImageFile) : List (Nat × Nat × Nat) :=
  (entries (m.bytes 2) 8).map (fun e => (e / 2 ^ 32 % 256, e % 2 ^ 10 / 16, e / 2 ^ 16 % 2 ^ 10 / 16))

/-- Boot edges: parent and child. -/
def ImageFile.edges (m : ImageFile) (n : Nat) : List (Nat × Nat) :=
  if (m.of 3).isEmpty then ((List.range n).drop 1).map (fun c => ((c - 1) / 2, c))
  else (entries (m.bytes 3) 8).map (fun e => (e % 2 ^ 16, e / 2 ^ 32 % 2 ^ 16))

/-- The 32 words of each template. -/
def ImageFile.templates (m : ImageFile) : List (List Word) :=
  let b := m.bytes 4
  (List.range (b.length / 256)).map (fun i => (List.range 32).map (fun j => BitVec.ofNat 64 (fieldAt b (256 * i + 8 * j) 8)))

/-- Fixups: role, offset, template. -/
def ImageFile.fixups (m : ImageFile) : List (Nat × Nat × Nat) :=
  (m.of 5).flatMap (fun x => (entries x.data 8).map (fun e => (x.role, e % 2 ^ 32, e / 2 ^ 48)))

/-- The code of a role. -/
def ImageFile.code (m : ImageFile) (r : Nat) : List Byte := ((m.of 1).filter (fun x => x.role == r)).flatMap (·.data)

/-- The packages that a boot tree reaches in n rounds. -/
def treeReach (es : List (Nat × Nat)) : Nat → List Nat → List Nat
  | 0, l => l
  | n + 1, l => treeReach es n (l ++ (es.filter (fun e => l.contains e.1 && !l.contains e.2)).map (·.2))

/-- A boot tree reaches each of n packages exactly once. -/
def treeOk (es : List (Nat × Nat)) (n : Nat) : Bool :=
  let r := treeReach es n [0]
  decide (r.length = n) && (List.range n).all (fun c => r.contains c) && decide (es.length + 1 = n)

/-- Whether X34[11:0] of an instruction names a manifest (R386 to R389, R454). -/
def namesMf (i : Instr) : Bool :=
  match i with
  | .mfPatch _ (.imm _) _ _ | .mfArm _ (.imm _) _ | .launch _ (.imm _) _ _ | .launchInd _ (.imm _) _ => true
  | _ => false

/-- Whether an instruction that names a manifest starts at an offset of a fetch block, in the order of R20 from another offset on. -/
def manifestAt (block : List Byte) (want : Nat) : Nat → Nat → Bool
  | 0, _ => false
  | n + 1, o =>
    if want < o ∨ 28 ≤ o then false
    else
      match decode ((block.drop o).take (min 16 (32 - o))) with
      | .error _ => false
      | .ok (i, _) => if o = want then namesMf i else manifestAt block want n (o + i.form.bytes)

/-- Whether a fixup's OFFSET is that of an instruction that names a manifest (R454). -/
def fixupOk (code : List Byte) (o : Nat) : Bool :=
  o % 4 == 0 && decide (o + 8 ≤ code.length) && manifestAt ((code.drop (o / 32 * 32)).take 32) (o % 32) 8 0

/-- The checks of the tables (R454, R416); `usable`: the clusters that a placement range may name. -/
def ImageFile.ok (m : ImageFile) (n : Nat) (usable : Nat → Bool) : Bool :=
  let count (k : Nat) : Nat := (m.of k).length
  let p := m.bytes 2
  let w := m.bytes 6
  (List.range m.roles).all (fun r => decide (((m.of 1).filter (fun x => x.role == r)).length = 1)) &&
    count 2 == 1 && decide (count 3 ≤ 1) && count 4 == 1 && count 6 == 1 &&
    decide (List.Pairwise (fun (x y : Sect) => x.off + x.data.length ≤ y.off ∨ y.off + y.data.length ≤ x.off) m.sects) &&
    p.length % 8 == 0 && (entries p 8).all (fun e =>
      decide (e / 2 ^ 40 = 0) && decide (e / 2 ^ 26 % 2 ^ 6 = 0) && decide (e / 2 ^ 10 % 2 ^ 6 = 0) && decide (e / 2 ^ 16 % 16 = 15) &&
        decide (e % 16 = 0) && decide (e % 2 ^ 10 ≤ e / 2 ^ 16 % 2 ^ 10) && decide (e / 2 ^ 32 % 256 < m.roles)) &&
    m.places.all (fun x => (List.range 64).all (fun c => !(decide (x.2.1 ≤ c) && decide (c ≤ x.2.2)) || usable c)) &&
    (m.bytes 3).length % 8 == 0 && (entries (m.bytes 3) 8).all (fun e => decide (e / 2 ^ 48 = 0) && decide (e / 2 ^ 16 % 2 ^ 16 = 0)) &&
    treeOk (m.edges n) n &&
    (m.bytes 4).length % 256 == 0 && m.templates.all (fun t => mfWord t 19 == 0 && mfWord t 20 == 0) &&
    (m.of 5).all (fun x => x.data.length % 8 == 0 && (entries x.data 8).all (fun e => decide (e / 2 ^ 32 % 2 ^ 16 = 0))) &&
    m.fixups.all (fun x => decide (x.2.2 < m.templates.length) && fixupOk (m.code x.1) x.2.1) &&
    decide (w.length = 64 + 16 * m.slots) && fieldAt w 34 2 == m.slots && fieldAt w 44 20 == 0 && decide (fieldAt w 33 1 < 2)

/-- An image file that passes step 1. -/
def parseImage (f : List Byte) (n : Nat) (usable : Nat → Bool) : Option ImageFile :=
  if headerOk f f.length then
    let os := (List.range (fieldAt f 18 2)).map (fun i => fieldAt f 24 8 + 32 * i)
    let m : ImageFile := { shared := fieldAt f 13 1 % 2 == 1, roles := fieldAt f 14 2, slots := fieldAt f 16 2,
                           sects := os.map (sectAt f) }
    if os.all (sectOk f f.length n) && m.ok n usable then some m else none
  else none

/-- The digest of R416: the file without its wake section. -/
def ImageFile.digest (m : ImageFile) (f : List Byte) : List Byte :=
  match m.of 6 with
  | x :: _ => shake256 (f.take x.off ++ f.drop (x.off + x.data.length)) 32
  | [] => shake256 f 32

/-- MF of the instruction at an offset becomes an index: X34[11:0] are bits 41 to 30 of its first two words (R454). -/
def patchMf (code : List Byte) (o mf : Nat) : List Byte :=
  let w : Word := BitVec.ofNat 64 (fieldAt code o 8)
  let v : Word := (w &&& ~~~((0xFFF : Word) <<< 30)) ||| (BitVec.ofNat 64 (mf % 4096) <<< 30)
  code.take o ++ leBytes v.toNat 8 ++ code.drop (o + 8)

/-! ### Loading (R456) -/

/-- How a load step fails: STATUS, and RESULT on the bits of a mask. -/
structure LoadFail where
  status : BitVec 8
  mask : Word := 0
  result : Word := 0

/-- Pages of 64 KiB of n bytes. -/
def pagesOf (n : Nat) : Nat := (n + 2 ^ 16 - 1) / 2 ^ 16

/-- Pages of a wake copy of S slots (R401). -/
def copyPages (slots : Nat) : Nat := if slots = 0 then 0 else pagesOf (8 * (slots + 1))

/-- The lowest n free manifest indices of a berth. -/
def State.freeMfs (s : State) (bk n : Nat) : List Nat := ((List.range 4096).filter (fun i => mfState (s.mfWords bk i) == 0)).take n

/-- What every step of a load knows: berth and region, partition and its packages, that of the command first, the
generation, the image's key. -/
structure Load where
  bk : Nat
  part : Nat
  region : Nat
  pkgs : List Nat
  gen : Nat
  key : Nat
  wake : Option Nat := none

/-- A 64 KiB page of code on one package, with its start bitmap. -/
def State.codeFrame (s : State) (l : Load) (p va : Nat) (bs : List Byte) (starts : List Nat) (only : List Nat) :
    Except LoadFail State :=
  match s.takeFrame l.part l.region p 16 true (some l.key) with
  | none => .error { status := stBudget }
  | some (loc, s) =>
    match ((s.dropCode loc (2 ^ 16)).keelWrite loc bs).setLeaf l.bk l.part p va 16 (leafEntry loc true false true false) with
    | none => .error { status := stFault }
    | some s =>
      let m : CodeMap := { root := rootKey l.bk p, va := va, size := 16, frame := loc, first := l.gen, starts := starts, only := some only,
                           wake := l.wake, image := some l.key }
      .ok { s with codeMaps := s.codeMaps ++ [m] }

/-- Step 5 for the pages of one role, from page i on. -/
def State.loadCode (s : State) (l : Load) (slots role va : Nat) (only : List Nat) : Nat → Nat → List Byte → Except LoadFail State
  | 0, _, _ => .ok s
  | n + 1, i, bs =>
    let page := bs.take (2 ^ 16)
    match scanBlocks slots 2048 0 page with
    | .error o =>
      .error { status := stFault, mask := 0x00FFFFFFFFFF03FF,
               result := BitVec.ofNat 64 (0x1C0 + (2 ^ 16 * i + o) * 2 ^ 16 + role * 2 ^ 48) }
    | .ok starts =>
      if s.keelPage l.bk (va + 2 ^ 16 * i) l.pkgs then .error { status := stFault } else
      let s := s.evict l.bk (va + 2 ^ 16 * i) l.gen l.pkgs
      match l.pkgs.foldlM (fun (s : State) p => s.codeFrame l p (va + 2 ^ 16 * i) page starts only) s with
      | .error e => .error e
      | .ok s => s.loadCode l slots role va only n (i + 1) (bs.drop (2 ^ 16))

/-- A page of data: its frame on the package that backs it, mapped on every package. -/
def State.dataPage (s : State) (l : Load) (p va : Nat) (bs : List Byte) (wr uc : Bool) : Except LoadFail State :=
  if s.keelPage l.bk va l.pkgs then .error { status := stFault } else
  let s := s.evict l.bk va l.gen l.pkgs
  match s.takeFrame l.part l.region p 16 true none with
  | none => .error { status := stBudget }
  | some (loc, s) =>
    match (s.keelWrite loc (padTo bs (2 ^ 16))).mapPage l.bk l.part va 16 (l.pkgs.map (fun q => (q, loc))) true wr false uc with
    | none => .error { status := stFault }
    | some s => .ok s

/-- The pages of a data section, from page i on. -/
def State.loadData (s : State) (l : Load) (x : Sect) : Nat → Nat → Except LoadFail State
  | 0, _ => .ok s
  | n + 1, i =>
    match s.dataPage l (l.pkgs.getD x.back 0) (x.vaddr + 2 ^ 16 * i) ((x.data.drop (2 ^ 16 * i)).take (2 ^ 16)) (x.perm % 2 == 1)
        (x.perm / 2 == 1) with
    | .error e => .error e
    | .ok s => s.loadData l x n (i + 1)

/-- A global base where nothing of a berth is mapped over n pages (log 35). -/
def State.wakeVa (s : State) (bk n : Nat) (pkgs : List Nat) : Option Nat :=
  ((List.range 4096).map (fun i => 2 ^ 54 + i * 2 ^ 20)).find? (fun va =>
    (List.range n).all (fun j => pkgs.all (fun p => (s.leafAt bk p (va + j * 2 ^ 16)).isNone)))

/-- The pages of a wake copy are mapped in a berth for Keel and the wake hardware only: valid, with no permission (R402). -/
def State.mapWake (s : State) (l : Load) (base n : Nat) : Option State :=
  match s.wakeCopies.find? (fun e => e.1 == base), s.wakeVa l.bk n l.pkgs with
  | some (_, c), some va =>
    if thas c.bases l.bk then some s
    else
      let s := { s with wakeCopies := tset s.wakeCopies base { c with bases := tset c.bases l.bk va } }
      (List.range n).foldlM (fun (s : State) j =>
        s.mapPage l.bk l.part (va + j * 2 ^ 16) 16 (l.pkgs.map (fun p => (p, base + j * 2 ^ 16))) false false false false) s
  | _, _ => none

/-- A wake copy: the load attaches to the shared one that its trust group holds, else the copy is made in contiguous frames of
the partition and filled (R415, R417). Its pages get a global base in the berth (R402). -/
def State.attachWake (s : State) (l : Load) (m : ImageFile) (hash : List Byte) (trust cls : Nat) : Option (State × Option Nat) :=
  if m.slots = 0 then some (s, none)
  else
    match s.wakeCopies.find? (fun e => m.shared && e.2.shared && e.2.hash == hash && e.2.trust == trust &&
        s.frames.any (fun f => f.loc == e.1 && f.part == l.part)) with
    | some (base, c) =>
      ({ s with wakeCopies := tset s.wakeCopies base { c with loads := c.loads ++ [l.key] } }.mapWake l base (copyPages m.slots)).map
        (fun s => (s, some base))
    | none =>
      let n := copyPages m.slots
      match s.charge l.part 4 l.region n with
      | none => none
      | some s =>
        match l.pkgs.findSome? (fun p => s.takeFrame l.part l.region p (16 + Nat.clog 2 n) false none) with
        | none => none
        | some (base, s) =>
          let w := m.bytes 6
          let learnt := fieldAt w 33 1 % 2 == 1 && w.take 32 == hash && fieldAt w 32 1 == cls
          let fill := (w.drop (if learnt then 64 + 8 * m.slots else 64)).take (8 * m.slots)
          let s := s.keelWrite base (leBytes m.slots 8 ++ fill)
          let c : WakeCopy := { slots := m.slots, hash := hash, trust := trust, shared := m.shared, loads := [l.key] }
          ({ s with wakeCopies := tset s.wakeCopies base c }.mapWake l base n).map (fun s => (s, some base))

/-- Step 7: the templates are built and armed, from template i on. -/
def State.buildTemplates (s : State) (l : Load) (package : Nat) : Nat → List Nat → List (List Word) → Except LoadFail State
  | i, mf :: mfs, t :: ts =>
    let w := mfSet (mfSet t 19 (BitVec.ofNat 64 (l.gen % 2 ^ 32 + l.region * 2 ^ 32))) 20 1
    let r := s.armStatus package l.bk l.part l.gen w
    if r ≠ 0 then .error { status := stFault, mask := 0xFFFF0007, result := BitVec.ofNat 64 (r + i * 2 ^ 16) }
    else (s.putMf l.bk mf (mfSet w 20 2)).buildTemplates l package (i + 1) mfs ts
  | _, _, _ => .ok s

/-- Whether a cluster of a package number is enabled and of the partition, on some package. -/
def State.usable (s : State) (part c : Nat) : Bool :=
  (s.slicesOf part).any (fun e => e.2.clusters.contains c && (s.pkg e.1).enabled.contains c)

/-- The packages of a partition, one first. -/
def State.relative (s : State) (part p : Nat) : List Nat := p :: (s.packagesOf part).filter (· != p)

/-- The clusters whose cores all lie in the placement ranges of a role (R457). -/
def ImageFile.clusters (m : ImageFile) (r : Nat) : List Nat :=
  (List.range 64).filter (fun c => m.places.any (fun x => x.1 == r && decide (x.2.1 ≤ c) && decide (c ≤ x.2.2)))

/-- The bytes of executable pages on a package, which in slack water CD0's home slices hold (R468, log 84). -/
def State.codeBytes (s : State) (p : Nat) : Nat :=
  ((s.codeMaps.filter (fun m => m.root % 4096 == p)).map (fun m => 2 ^ m.size)).foldl (· + ·) 0

/-- The key of a berth's n-th load, and the berth of a key: loads of a berth stand in load order. -/
def imageKey (bk n : Nat) : Nat := bk * 2 ^ 64 + n
def imageBerth (key : Nat) : Nat := key / 2 ^ 64

/-- The wake copy of a berth's latest load that has one (R402). -/
def State.berthCopy (s : State) (bk : Nat) : Option Nat :=
  ((sortBy (fun x y => decide (y.1 ≤ x.1)) (s.images.filter (fun e => e.2.berth == bk && e.2.unload.isNone))).findSome? (·.2.copy))

/-- The load of an image for a berth of a package: what it leaves, with the handle; or how it fails. The handle's low 16 bits
are the berth's load number, the rest is free. -/
def State.loadImage (s : State) (package bk host len : Nat) : Except LoadFail (State × Word) := do
  let b := s.berth bk
  let (part, region) := b.bound.getD (0, 0)
  let pkgs := s.relative part package
  let n := pkgs.length
  let file := memBytes s.hostMem host len
  match parseImage file n (s.usable part) with
  | none => throw { status := stBad }
  | some m =>
    let code := (m.of 1).foldl (fun k x => k + x.data.length) 0
    if s.slack package && (!(m.of 7).isEmpty || decide (2 ^ 24 < s.codeBytes package + code)) then throw { status := stRes }
    else do
      let number := b.loads + 1
      let handle : Word := (Config.freeWord s.tick &&& ~~~(0xFFFF : Word)) ||| BitVec.ofNat 64 (number % 2 ^ 16)
      let hash := m.digest file
      let g := genAfter (s.part part).counter
      let l : Load := { bk := bk, part := part, region := region, pkgs := pkgs, gen := g, key := imageKey bk number }
      let bytes := n * (code / 2 ^ 16) + (m.of 7).foldl (fun k x => k + pagesOf x.data.length) 0
      let ts := m.templates
      let s ← (match s.chargeAll part region [(4, bytes), (5, ts.length)] with | some s => pure s | none => throw { status := stBudget })
      let (s, wake) ← (match s.attachWake l m hash b.trust b.cls with | some r => pure r | none => throw { status := stBudget })
      let l := { l with wake := wake }
      if (m.edges n).any (fun (e : Nat × Nat) => s.unrouted (pkgs.getD e.1 0) (pkgs.getD e.2 0)) then
        throw { status := stFault, mask := 0x3FF, result := 0x390 }
      else if (m.edges n).any (fun (e : Nat × Nat) => s.muted (pkgs.getD e.1 0) (pkgs.getD e.2 0)) then
        throw { status := stFault, mask := 0x3FF, result := 0x391 }
      else do
        let mfs := s.freeMfs bk ts.length
        if mfs.length < ts.length then throw { status := stRes }
        else do
          let s ← (m.of 1).foldlM (fun (s : State) x =>
            let bs := (m.fixups.filter (fun f => f.1 == x.role)).foldl (fun bs f => patchMf bs f.2.1 (mfs.getD f.2.2 0)) x.data
            s.loadCode l m.slots x.role x.vaddr (m.clusters x.role) (bs.length / 2 ^ 16) 0 bs) s
          let s ← (m.of 7).foldlM (fun (s : State) x => s.loadData l x (pagesOf x.data.length) 0) s
          let s ← s.buildTemplates l package 0 mfs ts
          let s := s.setPart part { s.part part with counter := g, published := g }
          let s := ((m.of 1) ++ (m.of 7)).foldl (fun (s : State) x => s.shootdown bk x.vaddr (2 ^ 16 * pagesOf x.data.length)) s
          let im : Image := { berth := bk, handle := handle, host := host, len := len, hash := hash,
                              wakeOff := ((m.of 6).map (·.off)).headD 0, mfs := mfs,
                              datas := (m.of 7).map (fun x => (x.vaddr, pagesOf x.data.length)), copy := wake }
          let s := s.modBerth bk (fun b => { b with loads := number })
          pure ({ s with images := tset s.images l.key im, tick := s.tick + 1 }, handle)

/-! ### The end of a wake copy (R418, R431) -/

/-- Nothing of a copy stands in the wake hardware of a cluster. -/
def State.forgetCopy (s : State) (base n : Nat) : State :=
  let inside (loc : Nat) : Bool := decide (base ≤ loc) && decide (loc < base + n * 2 ^ 16)
  { s with
    clusters := s.clusters.map (fun (e : Nat × Cluster) => (e.1, { e.2 with
      wakeQ := e.2.wakeQ.filter (fun u => u.copy != base)
      wakeDrops := tdel e.2.wakeDrops base
      wakeCache := e.2.wakeCache.filter (fun r => !inside r.loc) })) }

/-- A berth has the pages of a copy no more. -/
def State.unmapWake (s : State) (bk part va : Nat) (n : Nat) : State :=
  let ps := (s.roots.filter (fun r => r.1 / 4096 == bk)).map (fun r => r.1 % 4096)
  let s := (List.range n).foldl (fun s j =>
    ps.foldl (fun s p =>
      if (s.leafAt bk p (va + j * 2 ^ 16)).isSome then (s.setLeaf bk part p (va + j * 2 ^ 16) 16 0).getD s else s) s) s
  s.shootdown bk va (n * 2 ^ 16)

/-- A copy is freed: no read cache keeps an entry of it, no berth maps it, no page of code carries it, and its charge is released. -/
def State.dropCopy (s : State) (base : Nat) : State :=
  match s.wakeCopies.find? (fun e => e.1 == base) with
  | none => s
  | some (_, c) =>
    let n := copyPages c.slots
    let f := s.frames.find? (fun f => f.loc == base)
    let part := match f with | some f => f.part | none => 0
    let s := c.bases.foldl (fun s e => s.unmapWake e.1 part e.2 n) s
    let s : State := { s.forgetCopy base n with
      wakeCopies := tdel s.wakeCopies base
      codeMaps := s.codeMaps.map (fun m => if m.wake == some base then { m with wake := none } else m) }
    let s := s.dropFrame base
    match f with
    | some f => s.release f.part 4 f.region n
    | none => s

/-- The writeback of a copy into the host's image of a load (R418, R461). -/
def State.writeWake (s : State) (im : Image) (base : Nat) (slots : Nat) : State :=
  let cks := s.clusters.map (·.1)
  let s := cks.foldl (fun s ck => s.flushDrops ck base) s.drainQueues
  let (head, s) := s.readSlot base
  let (bs, s) := (List.range slots).foldl (fun (r : List Byte × State) i =>
    let (v, s) := r.2.readSlot (base + 8 * (i + 1))
    (r.1 ++ leBytes v.toNat 8, s)) ([], s)
  let at' := im.host + im.wakeOff
  let loads := min (leVal (memBytes s.hostMem (at' + 40) 4) + 1) (2 ^ 32 - 1)
  let header := im.hash ++ leBytes (s.berth im.berth).cls 1 ++ leBytes 1 1 ++ leBytes slots 2 ++
    leBytes (head.extractLsb' 32 32).toNat 4 ++ leBytes loads 4
  { s with hostMem := memWrite (memWrite s.hostMem at' header) (at' + 64 + 8 * slots) bs }

/-- The last frame of an unloaded image is free: it is detached from its copy; the last detach writes it back, unless the load
was ended by a reset; the event follows (R449, R461). -/
def State.finishImage (s : State) (key : Nat) : State :=
  match s.images.find? (fun e => e.1 == key) with
  | none => s
  | some (_, im) =>
    if im.unload.isNone || s.frames.any (fun f => f.image == some key) then s
    else
      let s := { s with images := tdel s.images key }
      let told (s : State) : State := if im.event then s.post im.berth (eventWord im.handle 0 5 0) else s
      match im.copy with
      | none => told s
      | some base =>
        match s.wakeCopies.find? (fun e => e.1 == base) with
        | none => told s
        | some (_, c) =>
          let rest := c.loads.filter (· != key)
          if rest.isEmpty then
            told ((if im.event then s.writeWake im base c.slots else s).dropCopy base)
          else
            -- another load of the berth may still be attached
            let s := { s with wakeCopies := tset s.wakeCopies base { c with loads := rest } }
            if rest.any (fun k => imageBerth k == im.berth) then s
            else
              match c.bases.find? (fun e => e.1 == im.berth), s.frames.find? (fun f => f.loc == base) with
              | some (_, va), some f =>
                { s.unmapWake im.berth f.part va (copyPages c.slots) with
                  wakeCopies := tset s.wakeCopies base { c with loads := rest, bases := tdel c.bases im.berth } }
              | _, _ => s

/-! ### Unloading (R460, R461) -/

/-- A leaf's entry is invalid. -/
def State.clearLeaf (s : State) (bk part p va shift : Nat) : State := (s.setLeaf bk part p va shift 0).getD s

/-- Pages of one size of a berth, from an address on, are unmapped on every package; g is the generation that removes them. -/
def State.unmapPages (s : State) (bk part g : Nat) (pkgs : List Nat) (va shift : Nat) : Nat → State
  | 0 => s
  | n + 1 =>
    let s := s.evict bk va g pkgs
    let s := pkgs.foldl (fun s p => if (s.leafAt bk p va).isSome then s.clearLeaf bk part p va shift else s) s
    (s.shootdown bk va (2 ^ shift)).unmapPages bk part g pkgs (va + 2 ^ shift) shift n

/-- Whether a grid of a load, or a launch on its way, has not ended. -/
def State.imageBusy (s : State) (key : Nat) : Bool :=
  s.grids.any (fun e => e.2.st != .ended && e.2.image == some key) || s.launches.any (fun l => l.grid.image == some key)

/-- Step 1 of R461: the manifests of an image are empty. -/
def State.emptyMfs (s : State) (key part region : Nat) : State :=
  match s.images.find? (fun e => e.1 == key) with
  | none => s
  | some (_, im) =>
    let s := im.mfs.foldl (fun s mf => (s.putMf im.berth mf []).release part 5 region 1) s
    { s with images := tset s.images key { im with mfs := [] } }

/-- Steps 2 and 3: data sections and code pages go; the unload takes a generation. -/
def State.unloadImage (s : State) (key part package : Nat) (event : Bool) : State :=
  match s.images.find? (fun e => e.1 == key) with
  | none => s
  | some (_, im) =>
    let pkgs := s.relative part package
    let g := genAfter (s.part part).counter
    let s := im.datas.foldl (fun s d => s.unmapPages im.berth part g pkgs d.1 16 d.2) s
    let code := ((s.codeMaps.filter (fun m => m.image == some key && m.last.isNone)).map (fun m => (m.va, m.size))).dedup
    let s := code.foldl (fun s m => s.unmapPages im.berth part g pkgs m.1 m.2 1) s
    let s := s.setPart part { s.part part with counter := g, published := g }
    { s with images := tset s.images key { im with unload := some g, event := event, pending := none } }.finishImage key

/-- The unshared copy of a load is discarded without a writeback (R449). -/
def State.discardCopy (s : State) (key : Nat) : State :=
  match s.images.find? (fun e => e.1 == key) with
  | none => s
  | some (_, im) =>
    match im.copy with
    | none => s
    | some base =>
      if s.wakeCopies.any (fun e => e.1 == base && !e.2.shared) then
        { s with images := tset s.images key { im with copy := none } }.dropCopy base
      else s

/-- Whether a group of a partition may still fetch for a generation below u (R460). -/
def State.fetchesBelow (s : State) (part u : Nat) : Bool :=
  s.groups.any (fun e => (s.grid e.2.grid).part == part && e.2.st != .gone && !genReached u e.2.gen)

/-- An executable frame that nothing can still fetch is freed (R460). -/
def execFrameFree (part frame : Nat) (s : State) : Host.Outcome State Fault Refusal :=
  match s.frames.find? (fun f => f.loc == frame && f.part == part) with
  | none => .next s
  | some f =>
    match f.gen with
    | none => .next s
    | some u =>
      if s.fetchesBelow part u then .next s
      else
        let s := { (s.dropFrame frame).dropCode frame (2 ^ f.size) with codeMaps := s.codeMaps.filter (fun m => m.frame != frame) }
        .next (match f.image with | some key => s.finishImage key | none => s)

end Sys2Proof.Machine
end

