-- ==== Sys2Proof/Machine/Host.lean ====
section
/-! DEFINITION. The host: BAR0, the commands of Keel, host accesses to device memory, fault domains, function-level reset
(R203, R436 to R451, R464, R468). -/
namespace Sys2Proof.Machine

/-! ### BAR0 (R446, R447) -/

/-- The registers of a berth that a host write changes: the doorbell and the event ring's head. -/
def State.ringDoorbell (s : State) (bk tail : Nat) : State :=
  s.modBerth bk (fun b => { b with crtail := if ringLen b.crsize 4 12 = 0 then tail else tail % ringLen b.crsize 4 12 })

def State.moveErhead (s : State) (bk head : Nat) : State :=
  (s.modBerth bk (fun b => { b with erhead := if ringLen b.ersize 4 14 = 0 then head else head % ringLen b.ersize 4 14 })).flush bk
    ((s.berth bk).events.length + 1)

/-- Whether a package gives no service yet: it has no power, or Keel boots (R467). -/
def State.silent (s : State) (p : Nat) : Bool := (s.pkg p).phase == .off || (s.pkg p).phase == .boot

/-- The host writes its memory, then CRTAIL: the entries up to the tail are Keel's to perform. -/
def execCrtailDoorbell (package fn tail : Nat) (hostWrites : List (Nat × List Byte)) (s : State) : Host.Outcome State Fault Refusal :=
  let s := hostWrites.foldl (fun s w => { s with hostMem := memWrite s.hostMem w.1 w.2 }) s
  .next (if s.silent package then s else s.ringDoorbell (berthKey package fn) tail)

/-- The host writes ERHEAD: pending events follow. -/
def execErheadWrite (package fn head : Nat) (s : State) : Host.Outcome State Fault Refusal :=
  .next (if s.silent package then s else s.moveErhead (berthKey package fn) head)

/-- A write of a register of BAR0. The bases and sizes do not change while commands are outstanding. -/
def execBar0RegisterWrite (package fn offset : Nat) (value : Word) (s : State) : Host.Outcome State Fault Refusal :=
  let bk := berthKey package fn
  let b := s.berth bk
  if s.silent package then .next s
  else if offset = 0x010 then .next (s.ringDoorbell bk value.toNat)
  else if offset = 0x038 then .next (s.moveErhead bk value.toNat)
  else if b.crhead ≠ b.crtail then .next s
  else
    match offset with
    | 0x000 => .next (s.setBerth bk { b with crbase := value &&& ~~~(63 : Word) })
    | 0x008 => .next (s.setBerth bk { b with crsize := value })
    | 0x020 => .next (s.setBerth bk { b with erbase := value &&& ~~~(15 : Word) })
    | 0x028 => .next (s.setBerth bk { b with ersize := value })
    | _ => .next s

/-- The STATUS register of a berth (R446, R467). -/
def State.berthStatus (s : State) (package fn : Nat) : Word :=
  let b := s.berth (berthKey package fn)
  if s.silent package then 0 else
  BitVec.ofNat 64 ((if b.bound.isSome then 1 else 0) + (if s.slack package then 2 else 0) + b.trust % 256 * 256 + b.cls % 256 * 65536)

/-! ### Who may command (R442, R447, R448, R464) -/

inductive Issuer where
  | any | pf | berth
  deriving DecidableEq, Repr

/-- The status of a command that Keel refuses for its issuer: a package whose configuration record fails answers only
`IDENTIFY` and `ATTEST`, and so does an unbound berth. -/
def State.refusal (s : State) (c : Cmd) (who : Issuer) : Option (BitVec 8) :=
  if who = .any then none
  else if !(s.pkg c.package).recordOk then some stRes
  else
    match who, c.berth with
    | .pf, none => none
    | .berth, some b => if (s.berth (berthKey c.package b)).bound.isSome then none else some stPerm
    | _, _ => some stPerm

/-- Keel performs a command: the one at CRHEAD, of an opcode. -/
def State.perform (s : State) (c : Cmd) (opc : BitVec 8) (who : Issuer) (body : State → State) : Host.Outcome State Fault Refusal :=
  if s.silent c.package || !s.cmdReady c (· == opc) then .next s
  else
    match s.refusal c who with
    | some st => .next (s.cmdFree c st)
    | none => .next (body s)

/-- The partition and region of the berth that a command comes from. -/
def State.home (s : State) (c : Cmd) : Nat × Nat := (s.berth (cmdKey c)).bound.getD (0, 0)

/-! ### Identity (R448, R451, R466) -/

/-- HBM of a package in units of 64 KiB, less retired pages: a page in use is retired once its mapping is removed (R466). -/
def State.hbmUnits (s : State) (p : Nat) : Nat :=
  144 * 65536 - ((s.pkg p).retired.dedup.filter (fun r =>
    !s.frames.any (fun f => decide (r < f.loc + 2 ^ f.size) && decide (f.loc < r + 2 ^ 16)))).length

/-- The public key of a package. -/
def publicKey (p : Nat) : List Byte := (Config.falconPublic (Config.pufSeed p)).take 1793

def execIdentify (c : Cmd) (buffer : Nat) (s : State) : Host.Outcome State Fault Refusal :=
  s.perform c 0x01 .any (fun s =>
    let p := s.pkg c.package
    let s := { s with hostMem := memWrite s.hostMem buffer (publicKey c.package) }
    s.cmdDone c stOk (BitVec.ofNat 16 p.enabled.length ++ BitVec.ofNat 48 (s.hbmUnits c.package)))

/-- Slices in ascending order of partition number, as LAYOUT hashes them; zero for none. -/
def layoutHash (xs : List Slice) : List Byte :=
  if xs.isEmpty then List.replicate 32 0
  else
    shake256 ((sortBy (fun x y => decide (x.part ≤ y.part)) xs).flatMap (fun x => Config.layoutBytes x.clusters x.units x.ports)) 32

/-- The report of R451, without its signature. -/
def State.report451 (s : State) (c : Cmd) (nonce : List Byte) : List Byte :=
  let p := s.pkg c.package
  let b := s.berth (cmdKey c)
  let images := (sortBy (fun x y => decide (x.1 ≤ y.1)) (s.images.filter (fun e => e.2.berth == cmdKey c && e.2.unload.isNone))).flatMap (·.2.hash)
  let zero : List Byte := List.replicate 32 0
  let layout :=
    match c.berth, b.bound with
    | none, _ => layoutHash p.slices
    | some _, some (part, _) => layoutHash ((s.slicesOf part).map (·.2))
    | some _, none => zero
  let who := match c.berth with | some x => x | none => 0xFFFFFFFF
  leBytes 1 4 ++ leBytes who 4 ++ zero ++ padTo nonce 32 ++ shake256 (publicKey c.package) 32 ++ Config.keelRomHash ++
    shake256 p.booted 32 ++ (match p.deck with | some d => shake256 d 32 | none => zero) ++ layout ++
    (if c.berth.isSome && b.bound.isSome then shake256 images 32 else zero)

def execAttest (c : Cmd) (nonce : List Byte) (buffer : Nat) (s : State) : Host.Outcome State Fault Refusal :=
  s.perform c 0x02 .any (fun s =>
    let r := s.report451 c nonce
    let sig := (Config.falconSign (Config.pufSeed c.package) r).take 1280
    { s with hostMem := memWrite s.hostMem buffer (r ++ sig) }.cmdFree c stOk)

/-! ### Partitions (R436, R437) -/

/-- Whether a slice names something that another owns. -/
def Slice.overlaps (x : SliceArg) (y : Slice) : Bool :=
  x.clusters.any (fun c => y.clusters.contains c) || x.units.any (fun u => y.units.contains u) || x.ports.any (fun q => y.ports.contains q)

/-- `PART_CREATE`. -/
def execPartCreate (c : Cmd) (slice : SliceArg) (s : State) : Host.Outcome State Fault Refusal :=
  s.perform c 0x10 .pf (fun s =>
    let p := s.pkg c.package
    if slice.clusters.isEmpty || slice.units.isEmpty || !slice.clusters.all (fun x => p.enabled.contains x) ||
        !slice.units.all (fun u => decide (u < 144)) || !slice.ports.all (fun q => p.ports.contains q) || decide (16 ≤ p.slices.length) ||
        decide (2 ^ 16 ≤ slice.number) then
      s.cmdFree c stRes
    else if p.slices.any (fun y => y.part == slice.number || Slice.overlaps slice y) then s.cmdFree c stBusy
    else
      let sort (l : List Nat) : List Nat := sortBy (fun x y => decide (x ≤ y)) l.dedup
      let x : Slice := { part := slice.number, clusters := sort slice.clusters, units := sort slice.units, ports := sort slice.ports }
      let k := s.partKey c.package slice.number
      let s := if (s.slicesOf k).isEmpty then s.setPart k {} else s
      (s.setPkg c.package { p with slices := p.slices ++ [x] }).cmdFree c stOk)

/-- Whether a partition has a grid that has not ended, a launch on its way, or a saved group. -/
def State.partBusy (s : State) (part : Nat) : Bool :=
  s.grids.any (fun e => e.2.part == part && e.2.st != .ended) || s.launches.any (fun l => l.grid.part == part) ||
    s.groups.any (fun e => (s.grid e.2.grid).part == part && e.2.st != .gone)

/-- The locations of the valid leaf entries under a table, with the entries. -/
def leavesUnder (m : Memory) : List Level → Nat → List (Nat × Word)
  | [], _ => []
  | l :: ls, table =>
    (List.range (2 ^ l.bits)).flatMap (fun i =>
      let e := leWord (memBytes m (table + 8 * i) 8)
      if !e.getLsbD 0 then []
      else if e.getLsbD 1 then [(table + 8 * i, e)]
      else leavesUnder m ls (e.toNat % 2 ^ 52 / 2 ^ 12 * 2 ^ 12))

/-- The tables under a table, with itself. -/
def tablesUnder (m : Memory) : List Level → Nat → List Nat
  | [], _ => []
  | l :: ls, table =>
    table :: (List.range (2 ^ l.bits)).flatMap (fun i =>
      let e := leWord (memBytes m (table + 8 * i) 8)
      if e.getLsbD 0 && !e.getLsbD 1 then tablesUnder m ls (e.toNat % 2 ^ 52 / 2 ^ 12 * 2 ^ 12) else [])

/-- The page of a leaf entry. -/
def entryPage (e : Word) : Nat := e.toNat % 2 ^ 52 / 2 ^ 12 * 2 ^ 12

/-- A channel with its numbering, which runs from the package's reset on (R259), and no transfer. -/
def Channel.idle (c : Channel) : Channel := { next := c.next }

/-- The caches of a package's clusters are written back, and every cluster of a list is emptied, but for the numbering of its
channels. -/
def State.resetClusters (s : State) (cks : List Nat) : State :=
  let s := cks.foldl (fun s ck => (s.writebackAll ck).modClus ck (fun c => { c with near := [] })) s
  let s := s.cores.foldl (fun s e => if cks.contains (clusterOf e.1) then e.2.upd.foldl (fun s l => s.mergeLine e.1 l.1) s else s) s
  { s with
    clusters := s.clusters.map (fun (e : Nat × Cluster) =>
      (e.1, if cks.contains e.1 then { channels := e.2.channels.map (fun c => (c.1, c.2.idle)) } else e.2))
    cores := s.cores.filter (fun e => !cks.contains (clusterOf e.1)) }

/-- Units of a package are zeroed, and whatever stood in them is gone: frames, page tables, mappings, code. -/
def State.zeroUnits (s : State) (p : Nat) (units : List Nat) : State :=
  let inside (loc : Nat) : Bool := !isBank loc && paPkg loc == p && units.contains (paUnit loc)
  let dead := s.roots.flatMap (fun r => (leavesUnder s.mem levels r.2).filter (fun e => inside (entryPage e.2)))
  let s := dead.foldl (fun s e => { s with mem := memWrite s.mem e.1 (leBytes 0 8) }) s
  let s := (s.frames.filter (fun f => inside f.loc)).foldl (fun s f => s.dropFrame f.loc) s
  let s := (s.wakeCopies.filter (fun w => inside w.1)).foldl (fun s w => s.forgetCopy w.1 (copyPages w.2.slots)) s
  { s with
    roots := s.roots.filter (fun r => !inside r.2)
    codeMaps := s.codeMaps.filter (fun m => !inside m.frame)
    wakeCopies := s.wakeCopies.filter (fun w => !inside w.1)
    mem := s.mem.filter (fun e => !inside e.1)
    poison := s.poison.filter (fun e => !inside (e.1 * 128))
    clusters := s.clusters.map (fun (e : Nat × Cluster) => (e.1, { e.2 with tlb := e.2.tlb.filter (fun l => !inside l.pa) }))
    cores := s.cores.map (fun (e : Nat × Core) => (e.1, { e.2 with utlb := e.2.utlb.filter (fun l => !inside l.pa) })) }

/-- What a berth holds is gone: its images and manifests; it is unbound. -/
def State.unbind (s : State) (bk : Nat) : State :=
  { s.modBerth bk (fun b => { b with bound := none, trust := 0, cls := 0, mfs := [] }) with
    images := s.images.filter (fun e => e.2.berth != bk) }

/-- `PART_DESTROY`: the slice on the command's package. -/
def execPartDestroy (c : Cmd) (number : Nat) (s : State) : Host.Outcome State Fault Refusal :=
  s.perform c 0x11 .pf (fun s =>
    let p := s.pkg c.package
    match p.slices.find? (fun x => x.part == number) with
    | none => s.cmdFree c stBad
    | some x =>
      let k := s.partKey c.package number
      if s.partBusy k then s.cmdFree c stBusy
      else
        let s := s.resetClusters (x.clusters.map (fun k => c.package * 64 + k))
        let s := s.zeroUnits c.package x.units
        let s := (List.range 256).foldl (fun s b =>
          match (s.berth (berthKey c.package b)).bound with
          | some (n, _) => if n = k then s.unbind (berthKey c.package b) else s
          | none => s) s
        let s := s.modPkg c.package (fun p => { p with slices := p.slices.filter (fun x => x.part != number) })
        let s := if (s.slicesOf k).isEmpty then { s with parts := tdel s.parts k } else s
        s.cmdFree c stOk)

/-- `SET_LIMITS`: the drain limit of the slice on the command's package (R235, R436), the pre-emption delay of its partition (R440). -/
def execSetLimits (c : Cmd) (part drain delay : Nat) (s : State) : Host.Outcome State Fault Refusal :=
  s.perform c 0x13 .pf (fun s =>
    let p := s.pkg c.package
    if !p.slices.any (fun x => x.part == part) then s.cmdFree c stBad
    else
      let set (x : Slice) : Slice := if x.part = part then { x with drain := drain } else x
      let k := s.partKey c.package part
      ((s.setPkg c.package { p with slices := p.slices.map set }).setPart k { s.part k with delay := delay }).cmdFree c stOk)

/-- The partition of a number on a package has joined another pod: its key k becomes k' there. Its record moves along, or joins the
one that stands (log 80). -/
def State.rekey (s : State) (p k k' : Nat) : State :=
  let s := if thas s.parts k' then s else s.setPart k' (s.part k)
  let bind (b : Nat × Berth) : Nat × Berth :=
    (b.1, if b.1 / 257 == p then { b.2 with bound := b.2.bound.map (fun x => (if x.1 = k then k' else x.1, x.2)) } else b.2)
  let s := { s with
    berths := s.berths.map bind
    frames := s.frames.map (fun (f : Frame) => if f.part == k && locPackage f.loc == p then { f with part := k' } else f) }
  if (s.slicesOf k).isEmpty then { s with parts := tdel s.parts k } else s

/-- The load-store domain of a member (R15): one that a configuration lists, or, for a member that it does not list, a domain of its own
(log 80, DESIGN CHOICE). -/
def domainIn (x : FabricArg) (p : Nat) : Nat :=
  match x.domains.find? (fun d => d.1 == p) with
  | some d => 2 * d.2
  | none => 2 * p + 1

/-- Whether the load-store domain that a configuration gives to a package has room for it, beside the packages of the pod that have
accepted the configuration already (R2, R15). -/
def State.domainRoom (s : State) (x : FabricArg) (p : Nat) : Bool :=
  decide ((s.packages.filter (fun e =>
    e.1 != p && e.2.config == x.config && e.2.head == some x.head && e.2.domain == domainIn x p)).length < 512)

/-- Whether a pod of the members and load-store domains of a configuration is one that R2, R13 and R15 allow, with the package and the
head in it. -/
def podOk (x : FabricArg) (p : Nat) : Bool :=
  x.members.contains p && x.members.contains x.head && decide (x.members.dedup.length ≤ 4096) && x.members.all (fun m => decide (m < 4096)) &&
    (x.domains.map (·.2)).all (fun d =>
      decide ((x.members.dedup.filter (fun m => x.domains.any (fun e => e.1 == m && e.2 == d))).length ≤ 512))

/-- Whether a package is bound to its pod for now: a partition of one of its slices is busy, or a grid of its berths has not ended. The
levels of R13 lie each within the one above, so that no live grid is left in two pods (log 80, DEDUCED). -/
def State.podBusy (s : State) (p : Nat) : Bool :=
  (s.pkg p).slices.any (fun x => s.partBusy (s.partKey p x.part)) || s.grids.any (fun e => e.2.pkg == p && e.2.st != .ended) ||
    s.launches.any (fun l => l.grid.pkg == p)

/-- `FABRIC_CONFIG`: accepted in full service (R467), of a number above every one accepted before (R378). -/
def execFabricConfig (c : Cmd) (arg : FabricArg) (s : State) : Host.Outcome State Fault Refusal :=
  s.perform c 0x14 .pf (fun s =>
    let p := s.pkg c.package
    if arg.config = 0 || decide (arg.config ≤ p.highest) || decide (2 ^ 24 ≤ arg.config) || !podOk arg c.package ||
        !s.domainRoom arg c.package then s.cmdFree c stBad
    else if s.slack c.package || s.podBusy c.package then s.cmdFree c stBusy
    else
      let t := s.setPkg c.package
        { p with config := arg.config, highest := arg.config, members := arg.members, head := some arg.head, seq := 0,
                 domain := domainIn arg c.package, fabricPorts := arg.ports.filter (fun q => p.ports.contains q), routes := arg.routes }
      let t := p.slices.foldl (fun t x => t.rekey c.package (s.partKey c.package x.part) (t.partKey c.package x.part)) t
      t.cmdFree c stOk)

/-! ### Regions (R438, R439) -/

/-- Whether a region lies in the subtree of another. -/
def State.within (s : State) (part r top : Nat) : Bool := (s.ancestors part r).contains top

/-- `REGION_WRITE`. -/
def execRegionWrite (c : Cmd) (rcb : RcbArg) (s : State) : Host.Outcome State Fault Refusal :=
  s.perform c 0x20 .berth (fun s =>
    let (part, top) := s.home c
    let regs := (s.part part).regions
    let old := tget regs {} rcb.region
    let known := thas regs rcb.region || rcb.region == 1
    let parentKnown := thas regs rcb.parent || rcb.parent == 1
    let inTree := if known then s.within part rcb.region top else s.within part rcb.parent top
    if !inTree || (rcb.region ≠ top && !s.within part rcb.parent top) then s.cmdFree c stPerm
    else if rcb.region < 1 || 65535 < rcb.region || 7 < rcb.prio || rcb.budgets.length ≠ 9 ||
        (if rcb.region = 1 then decide (rcb.parent ≠ 0) else !parentKnown || s.within part rcb.parent rcb.region) ||
        (known && rcb.region ≠ 1 && old.parent ≠ rcb.parent && old.used.any (· ≠ 0)) then
      s.cmdFree c stBad
    else
      let b : Rcb := { parent := rcb.parent, fd := rcb.fd, prio := rcb.prio, bud := rcb.budgets, used := old.used }
      (s.setPart part { s.part part with regions := tset regs rcb.region b }).cmdFree c stOk)

/-- `REGION_REMOVE`. -/
def execRegionRemove (c : Cmd) (region : Nat) (s : State) : Host.Outcome State Fault Refusal :=
  s.perform c 0x21 .berth (fun s =>
    let (part, top) := s.home c
    let regs := (s.part part).regions
    if !thas regs region then s.cmdFree c stBad
    else if !s.within part region top then s.cmdFree c stPerm
    else if (s.rcb part region).used.any (· ≠ 0) || regs.any (fun e => e.2.parent == region) ||
        s.berths.any (fun b => b.2.bound == some (part, region)) then s.cmdFree c stBusy
    else (s.setPart part { s.part part with regions := tdel regs region }).cmdFree c stOk)

/-! ### Mappings (R33, R172, R173, R458) -/

/-- The page size of a table level, as its log2. -/
def levelShift (level : Nat) : Option Nat :=
  match level with
  | 2 => some 30
  | 3 => some 21
  | 4 => some 16
  | _ => none

/-- Whether a page of a size can stand at an address of a berth on a package: nothing stands there, or a page of that size that is not
Keel's own (R402). -/
def State.pageFits (s : State) (bk p va shift : Nat) : Bool :=
  match s.leafAt bk p va with
  | some l => l.va == va && l.size == shift && !s.wakePage l.pa
  | none => true

/-- The copy that an executable page carries which `MAP` makes (R402): the one of the page of an image whose place it takes, else the
berth's, which is that of its latest load where it has several (log 28). -/
def State.mapCopy (s : State) (bk : Nat) (old : Option CodeMap) : Option Nat :=
  match old with
  | some m => if m.image.isSome then m.wake else s.berthCopy bk
  | none => s.berthCopy bk

/-- One executable page on one package, in the place of an older one (R459). -/
def State.mapCode (s : State) (l : Load) (p va shift : Nat) (bs : List Byte) (starts : List Nat) (rd uc : Bool) (old : Option CodeMap) :
    Except LoadFail State :=
  match s.takeFrame l.part l.region p shift true (old.bind (·.image)) with
  | none => .error { status := stBudget }
  | some (loc, s) =>
    match ((s.dropCode loc (2 ^ shift)).keelWrite loc bs).setLeaf l.bk l.part p va shift (leafEntry loc rd false true uc) with
    | none => .error { status := stFault }
    | some s =>
      let m : CodeMap := { root := rootKey l.bk p, va := va, size := shift, frame := loc, first := l.gen, starts := starts,
                           only := old.bind (·.only), wake := s.mapCopy l.bk old, image := old.bind (·.image) }
      .ok { s with codeMaps := s.codeMaps ++ [m] }

/-- The frame that a page of data keeps when it is mapped again on the package that backs it: its entries change (R173). -/
def State.keeps (s : State) (l : Load) (q : MapReq) (shift va : Nat) : Option Nat :=
  match s.leafAt l.bk q.back va with
  | some x =>
    if paPkg x.pa = q.back && x.va == va && x.size == shift && !x.ex && s.frames.any (fun f => f.loc == x.pa && f.size == shift && f.charged) then some x.pa
    else none
  | none => none

/-- One page of a `MAP`. -/
def State.mapOne (s : State) (l : Load) (q : MapReq) (shift va : Nat) (bs : List Byte) : Except LoadFail State :=
  if !l.pkgs.all (fun p => s.pageFits l.bk p va shift) then .error { status := stFault }
  else if q.ex then
    let old := s.codeMaps.find? (fun m => m.root / 4096 == l.bk && m.va == va && m.last.isNone)
    let code := padTo bs (2 ^ shift)
    match scanBlocks (s.copySlots (s.mapCopy l.bk old)) (2 ^ shift / 32) 0 code with
    | .error o => .error { status := stFault, mask := 0xFFFFFFFF03FF, result := BitVec.ofNat 64 (0x1C0 + o * 2 ^ 16) }
    | .ok starts =>
      if l.pkgs.any (fun p => s.slack p && decide (2 ^ 24 < s.codeBytes p + 2 ^ shift)) then .error { status := stFault }
      else l.pkgs.foldlM (fun (s : State) p => s.mapCode l p va shift code starts q.rd q.uc old) (s.evict l.bk va l.gen l.pkgs)
  else
    match s.keeps l q shift va with
    | some loc =>
      match (s.keelWrite loc bs).mapPage l.bk l.part va shift (l.pkgs.map (fun p => (p, loc)))
          q.rd q.wr false q.uc with
      | none => .error { status := stFault }
      | some s => .ok s
    | none =>
    match (s.evict l.bk va l.gen l.pkgs).takeFrame l.part l.region q.back shift true none with
    | none => .error { status := stBudget }
    | some (loc, s) =>
      match (s.keelWrite loc bs).mapPage l.bk l.part va shift (l.pkgs.map (fun p => (p, loc))) q.rd q.wr false q.uc with
      | none => .error { status := stFault }
      | some s => .ok s

/-- The pages of a `MAP`, one after the other. -/
def State.mapRun (s : State) (l : Load) (q : MapReq) (shift : Nat) : Nat → Nat → List Byte → Except LoadFail State
  | 0, _, _ => .ok s
  | n + 1, va, bs =>
    match s.mapOne l q shift va (bs.take (2 ^ shift)) with
    | .error e => .error e
    | .ok s => s.mapRun l q shift n (va + 2 ^ shift) (bs.drop (2 ^ shift))

/-- Whether a page of a berth has lost its frame or a permission, or caches it again: its old entry is shot down (R173). -/
def pageLowered (old new : Option Leaf) : Bool :=
  match old, new with
  | some x, some y => x.pa != y.pa || (x.rd && !y.rd) || (x.wr && !y.wr) || (x.ex && !y.ex) || (x.uc && !y.uc)
  | some _, none => true
  | none, _ => false

/-- The shootdown of a command that has changed n pages of a berth from s to t: of those that it has lowered (R173). -/
def State.shootLowered (t s : State) (bk : Nat) (pkgs : List Nat) (va shift n : Nat) : State :=
  (List.range n).foldl (fun t i =>
    let x := va + i * 2 ^ shift
    if pkgs.any (fun p => pageLowered (s.leafAt bk p x) (t.leafAt bk p x)) then t.shootdown bk x (2 ^ shift) else t) t

/-- What a `MAP` leaves, or how it fails; all of it or nothing. -/
def State.mapAll (s : State) (package bk : Nat) (q : MapReq) : Except LoadFail State :=
  let (part, region) := (s.berth bk).bound.getD (0, 0)
  let pkgs := s.relative part package
  match levelShift q.level with
  | none => .error { status := stFault }
  | some shift =>
    if q.va.toNat % 2 ^ shift ≠ 0 || 2 ^ 55 < q.va.toNat + q.pages * 2 ^ shift || (q.wr && q.ex) || !pkgs.contains q.back then
      .error { status := stFault }
    else
      let g := genAfter (s.part part).counter
      let l : Load := { bk := bk, part := part, region := region, pkgs := pkgs, gen := g, key := 0 }
      let kept := if q.ex then 0 else ((List.range q.pages).filter (fun i => (s.keeps l q shift (q.va.toNat + i * 2 ^ shift)).isSome)).length
      match s.charge part 4 region ((q.pages - kept) * frameUnits shift * (if q.ex then pkgs.length else 1)) with
      | none => .error { status := stBudget }
      | some s' =>
        match s'.mapRun l q shift q.pages q.va.toNat q.contents with
        | .error e => .error e
        | .ok t =>
          let t := if q.ex || t.codeMaps ≠ s.codeMaps then t.setPart part { t.part part with counter := g, published := g } else t
          .ok (t.shootLowered s bk pkgs q.va.toNat shift q.pages)

/-- `MAP`. -/
def execMap (c : Cmd) (req : MapReq) (s : State) : Host.Outcome State Fault Refusal :=
  s.perform c 0x30 .berth (fun s =>
    match s.mapAll c.package (cmdKey c) req with
    | .error e => s.cmdOpen c e.status e.mask e.result
    | .ok t => t.cmdFree c stOk)

/-- The entries of n pages of 64 KiB of a berth are removed, or lose the permissions that are not kept. -/
def State.unmapRun (s : State) (bk part g : Nat) (pkgs : List Nat) (package : Nat) (keepRd keepWr : Bool) : Nat → Nat → State
  | 0, _ => s
  | n + 1, va =>
    match s.leafAt bk package va with
    | none => s.unmapRun bk part g pkgs package keepRd keepWr n (va + 2 ^ 16)
    | some l =>
      let s :=
        if s.wakePage l.pa then s
        else if !keepRd && !keepWr then s.unmapPages bk part g pkgs l.va l.size 1
        else
          (pkgs.foldl (fun s p =>
            match s.leafAt bk p l.va with
            | some x => (s.setLeaf bk part p x.va x.size (leafEntry x.pa (x.rd && keepRd) (x.wr && keepWr) x.ex x.uc)).getD s
            | none => s) s).shootdown bk l.va (2 ^ l.size)
      s.unmapRun bk part g pkgs package keepRd keepWr n (va + 2 ^ 16)

/-- `UNMAP`: a removal of an executable page takes a code generation (R458). -/
def execUnmap (c : Cmd) (va : Addr) (pages : Nat) (keepRd keepWr : Bool) (s : State) : Host.Outcome State Fault Refusal :=
  s.perform c 0x31 .berth (fun s =>
    let (part, _) := s.home c
    let g := genAfter (s.part part).counter
    let t := s.unmapRun (cmdKey c) part g (s.relative part c.package) c.package keepRd keepWr pages va.toNat
    let t := if t.codeMaps ≠ s.codeMaps then t.setPart part { t.part part with counter := g, published := g } else t
    t.cmdFree c stOk)

/-! ### Manifests and grids (R371, R372, R388 to R390, R448) -/

/-- `MF_BUILD`: built, then armed. -/
def execMfBuild (c : Cmd) (words : List Word) (s : State) : Host.Outcome State Fault Refusal :=
  s.perform c 0x40 .berth (fun s =>
    let bk := cmdKey c
    let (part, region) := s.home c
    if words.length ≠ 32 then s.cmdFree c stBad
    else
      match s.freeMfs bk 1, s.charge part 5 region 1 with
      | mf :: _, some s =>
        let g := (s.part part).published
        let w := mfSet (mfSet words 19 (BitVec.ofNat 64 (g % 2 ^ 32 + region * 2 ^ 32))) 20 1
        let r := s.armStatus c.package bk part g w
        if r = 0 then (s.putMf bk mf (mfSet w 20 2)).cmdDone c stOk (BitVec.ofNat 64 mf)
        else (s.putMf bk mf w).cmdOpen c stFault 7 (BitVec.ofNat 64 r)
      | _, _ => s.cmdFree c stBudget)

/-- Whether a thread's launch holds a manifest of a berth unread: it has named it, and its release is not complete (R389, R448). -/
def State.mfHeld (s : State) (bk mf : Nat) : Bool :=
  s.threads.any (fun e => e.2.live && e.2.wait == .release && e.2.watch == some mf && (s.grid (s.grp (e.2.group.getD 0)).grid).bk == bk)

/-- `MF_REMOVE`: the manifest is empty; queued snapshots still run. -/
def execMfRemove (c : Cmd) (mf : Nat) (s : State) : Host.Outcome State Fault Refusal :=
  s.perform c 0x41 .berth (fun s =>
    let bk := cmdKey c
    let (part, region) := s.home c
    if mfState (s.mfWords bk mf) = 0 then s.cmdFree c stOk
    else if s.mfHeld bk mf then s.cmdFree c stBusy
    else
      let s := ((s.modBerth bk (fun b => { b with mfs := tdel b.mfs mf })).release part 5 region 1)
      let strip (im : Image) : Image := if im.berth = bk then { im with mfs := im.mfs.filter (· != mf) } else im
      let ims := s.images.map (fun (e : Nat × Image) => (e.1, strip e.2))
      { s with images := ims }.cmdFree c stOk)

/-- `LAUNCH`: the pod head orders it, and the command completes with its identifier (R378). -/
def execLaunchCommand (c : Cmd) (mf : Nat) (s : State) : Host.Outcome State Fault Refusal :=
  s.perform c 0x50 .berth (fun s =>
    let bk := cmdKey c
    let (part, _) := s.home c
    let w := s.mfWords bk mf
    if mfState w = 0 then s.cmdOpen c stBad 0x3FF 0x0E8
    else if mfState w ≠ 2 then s.cmdOpen c stBad 0x3FF 0x0EA
    else
      match s.findDeps (rootKey bk c.package) c.package w [14, 16] with
      | .error (cz, _) => s.cmdOpen c stFault 0x3FF (cz.setWidth 64)
      | .ok deps =>
        let gr : Grid := { gridOf w c.package (c.berth.getD 256) part ((mfWord w 8).extractLsb' 0 4).toNat deps none with
                           host := true, image := s.imageOf bk mf }
        match s.enqueue gr with
        | .noEntry => s.cmdFree c stBudget
        | .noDep => s.cmdFree c stBudget
        | .done t =>
          let head := s.headOf c.package
          if s.unrouted c.package head then s.cmdOpen c stFault 0x3FF 0x390
          else
            let l : Launch := { head := head, thread := none, host := some c, grid := gr, since := s.now }
            { t with launches := t.launches ++ [l] })

/-- `CANCEL`, as `gcancel`. -/
def execCancel (c : Cmd) (grid : Word) (s : State) : Host.Outcome State Fault Refusal :=
  s.perform c 0x51 .berth (fun s =>
    let k := gridKey (s.headOf c.package) grid
    if thas s.grids k && (s.grid k).st != .ended && (s.grid k).bk != cmdKey c then s.cmdFree c stPerm
    else
      let hit := s.liveGrid k (cmdKey c) && (s.grid k).abort == 0
      (if hit then s.setAbort k 2 else s).cmdFree c stOk)

/-! ### Images (R456, R461) -/

/-- `IMAGE_LOAD`. -/
def execImageLoad (c : Cmd) (address length : Nat) (s : State) : Host.Outcome State Fault Refusal :=
  s.perform c 0x60 .berth (fun s =>
    match s.loadImage c.package (cmdKey c) address length with
    | .error e => s.cmdOpen c e.status e.mask e.result
    | .ok (t, handle) => t.cmdDone c stOk handle)

/-- `IMAGE_UNLOAD`: the image's manifests are empty at once; the command then stands at CRHEAD, in ring order (R447), until no grid of
the image is left, and what the load mapped goes (R461). -/
def execImageUnload (c : Cmd) (handle : Word) (s : State) : Host.Outcome State Fault Refusal :=
  s.perform c 0x61 .berth (fun s =>
    let (part, region) := s.home c
    let named := s.images.filter (fun e => e.2.handle == handle && e.2.unload.isNone)
    -- the command at CRHEAD that waits for an image's grids names that image, and no other
    if s.images.any (fun e => e.2.berth == cmdKey c && e.2.pending.isSome && e.2.handle != handle) then s
    else
    match named.find? (fun e => e.2.berth == cmdKey c) with
    | none => s.cmdFree c (if named.isEmpty then stBad else stPerm)
    | some (key, im) =>
      let s := s.emptyMfs key part region
      if s.imageBusy key then { s with images := tset s.images key { im with mfs := [], pending := some c.tag } }
      else (s.cmdFree c stOk).unloadImage key part c.package true)

/-! ### Copies and host accesses (R203, R444, R445, R448) -/

/-- The pieces of n bytes at an address that lie in one 64 KiB page each: address and length. -/
def pieces (va n : Nat) : List (Nat × Nat) :=
  if n = 0 then []
  else
    (List.range ((va + n - 1) / 2 ^ 16 + 1 - va / 2 ^ 16)).map (fun i =>
      let lo := max va ((va / 2 ^ 16 + i) * 2 ^ 16)
      (lo, min (va + n) ((va / 2 ^ 16 + i + 1) * 2 ^ 16) - lo))

/-- Where a page of a berth lies for Keel, or the cause. -/
def State.keelAt (s : State) (bk p va : Nat) (nd : Need) : Except (BitVec 10) Nat :=
  match s.walk (rootKey bk p) va with
  | .fault c => .error c
  | .leaf l => s.leafCheck l va p nd

/-- `COPY`: from host memory to mapped device memory, or back, at the homes. Its pages are checked first. -/
def execCopy (c : Cmd) (toDevice : Bool) (host : Nat) (va : Addr) (len : Nat) (s : State) : Host.Outcome State Fault Refusal :=
  s.perform c 0x70 .berth (fun s =>
    let bk := cmdKey c
    let ps := pieces va.toNat len
    let bad := ps.findSome? (fun x =>
      match s.keelAt bk c.package x.1 ⟨!toDevice, toDevice⟩ with
      | .error cz => some (cz, none)
      | .ok pa => if toDevice then none else (s.readError pa x.2).map (fun cz => (cz, some pa)))
    match bad with
    | some (cz, pa) => (match pa with | some pa => s.noteBad pa cz | none => s).cmdOpen c stFault 0x3FF (cz.setWidth 64)
    | none =>
      (ps.foldl (fun s x =>
        match s.keelAt bk c.package x.1 ⟨!toDevice, toDevice⟩ with
        | .error _ => s
        | .ok pa =>
          let h := host + (x.1 - va.toNat)
          if toDevice then (s.homePerform pa 0 (.write (memBytes s.hostMem h x.2))).2
          else
            let (bs, s) := s.homePerform pa 0 (.read x.2)
            { s with hostMem := memWrite s.hostMem h bs }) s).cmdFree c stOk)

/-- The pieces of n bytes at an address that lie in one line each. -/
def linePieces (va n : Nat) : List (Nat × Nat) :=
  if n = 0 then []
  else
    (linesOf va n).map (fun l =>
      let lo := max va (l * 128)
      (lo, min (va + n) (l * 128 + 128) - lo))

/-- The answer to a write that awaits one (R445): a write that is not posted is told that it was discarded. -/
def answerTo (k : HostReq) (discarded : Bool) : Option HostAnswer :=
  match k with
  | .posted => none
  | .nonPosted => some (if discarded then .completerAbort else .normal)
  | .mem => some .normal

/-- A berth learns the answer to a write; a Completer Abort is not followed by another answer to the same write. -/
def State.hostAnswer (s : State) (bk : Nat) (k : HostReq) (discarded : Bool) : State :=
  s.modBerth bk (fun b =>
    { b with answer := if b.answer == some .completerAbort && !discarded then b.answer else (answerTo k discarded).orElse (fun _ => b.answer) })

/-- A write of the host is performed at its home: one to a locked frame is discarded and logged (R36, R445). -/
def State.hostPerform (s : State) (bk : Nat) (k : HostReq) (loc : Nat) (bs : List Byte) : State :=
  if s.locked loc then (s.post bk (eventWord (BitVec.ofNat 64 loc) 0 2 0)).hostAnswer bk k true
  else (s.homePerform loc 0 (.write bs)).2.hostAnswer bk k false

/-- The accesses of a host request of n bytes: the offset, location and length of each line that a mapping takes. A write that no
mapping takes is discarded. -/
def State.hostPieces (s : State) (bk package : Nat) (va : Addr) (n : Nat) (nd : Need) : List (Nat × Nat × Nat) :=
  (linePieces va.toNat n).filterMap (fun x =>
    match s.walk (rootKey bk package) x.1 with
    | .fault _ => none
    | .leaf l =>
      let pa := l.pa + x.1 % 2 ^ l.size
      if (nd.rd && !l.rd) || (nd.wr && !l.wr && !s.locked pa) || !s.sameDomain package (paPkg pa) || s.unrouted package (paPkg pa) then none
      else some (x.1 - va.toNat, pa, x.2))

/-- Whether a write of a berth has been produced and not performed. -/
def State.hostPending (s : State) (package bk : Nat) : Bool :=
  let p (m : Msg) : Bool := match m.host with | some h => h.berth == bk && h.kind.isSome | none => false
  (s.pkg package).outbox.any p || s.chans.any (fun e => e.2.2.any p)

/-- The host agent produces messages (R189). -/
def State.hostProduce (s : State) (package : Nat) (ms : List Msg) : State :=
  { s.modPkg package (fun p => { p with outbox := p.outbox ++ ms }) with moorings := s.moorings + ms.length }

/-- A write of the host to device memory through the berth's range: it is performed at its homes at once, or by messages; those of a
berth are performed in order (R203). A write that awaits an answer has none yet. -/
def execHostWrite (package berth : Nat) (va : Addr) (bytes : List Byte) (kind : HostReq) (s : State) : Host.Outcome State Fault Refusal :=
  let bk := berthKey package berth
  let ps := s.hostPieces bk package va bytes.length ⟨false, true⟩
  let s := if kind = .posted then s else s.modBerth bk (fun b => { b with answer := none })
  if s.eager && !s.hostPending package bk then
    .next (ps.foldl (fun s x => s.hostPerform bk kind x.2.1 ((bytes.drop x.1).take x.2.2)) s)
  else
    .next (s.hostProduce package (ps.zipIdx.map (fun x =>
      { host := some ⟨bk, some kind, s.moorings + x.2, x.1.1⟩, loc := x.1.2.1, op := .write ((bytes.drop x.1.1).take x.1.2.2), cycle := s.now })))

/-- Bytes at an offset of a list. -/
def putAt (l : List Byte) (o : Nat) (bs : List Byte) : List Byte := l.take o ++ bs ++ l.drop (o + bs.length)

/-- Bytes reach the berth that has read them. -/
def State.hostReply (s : State) (bk off : Nat) (bs : List Byte) : State := s.modBerth bk (fun b => { b with reply := putAt b.reply off bs })

/-- A read of the host, at the homes, at once or by messages; what it returns stands in the berth's record. What a byte reads as that
does not come, because no mapping takes it or it has an uncorrectable error, the spec does not say: a free value. -/
def execHostRead (package berth : Nat) (va : Addr) (len : Nat) (s : State) : Host.Outcome State Fault Refusal :=
  let bk := berthKey package berth
  let ps := s.hostPieces bk package va len ⟨true, false⟩
  let s := { s.modBerth bk (fun b => { b with reply := freeBytes s.tick len }) with tick := s.tick + len }
  if s.eager then
    .next (ps.foldl (fun s x =>
      match s.readError x.2.1 x.2.2 with
      | some c => s.noteBad x.2.1 c
      | none =>
        let (bs, s) := s.homePerform x.2.1 0 (.read x.2.2)
        s.hostReply bk x.1 bs) s)
  else
    .next (s.hostProduce package (ps.map (fun x => { host := some ⟨bk, none, 0, x.1⟩, loc := x.2.1, op := .read x.2.2, cycle := s.now })))

/-! ### Deck and unknown commands (R448, R450) -/

/-- The Yunalyn public key of a configuration record (R464). -/
def recordKey (record : List Byte) : List Byte := (record.drop 1022).take 1793

/-- Deck starts from an image: its memory holds the image and nothing else, and it has proposed nothing (R450). -/
def Package.runDeck (p : Package) (image : List Byte) (now : Nat) : Package :=
  { p with deck := some image, deckSeen := now, deckMem := memWrite [] 0 (image.take (2 ^ 24)), hints := [] }

/-- `DECK_LOAD`. -/
def execDeckLoad (c : Cmd) (address length : Nat) (s : State) : Host.Outcome State Fault Refusal :=
  s.perform c 0x90 .pf (fun s =>
    let image := memBytes s.hostMem address length
    if Config.deckSigned (recordKey (s.pkg c.package).booted) image then
      (s.modPkg c.package (fun p => p.runDeck image s.now)).cmdFree c stOk
    else s.cmdFree c stSig)

/-- The opcodes of R448. -/
def knownOpcodes : List (BitVec 8) :=
  [0x01, 0x02, 0x10, 0x11, 0x12, 0x13, 0x14, 0x20, 0x21, 0x30, 0x31, 0x40, 0x41, 0x50, 0x51, 0x60, 0x61, 0x70, 0x90]

/-- A command whose opcode the table does not hold. -/
def execUnknownCommand (c : Cmd) (opc : BitVec 8) (s : State) : Host.Outcome State Fault Refusal :=
  if knownOpcodes.contains opc then .next s
  else
    s.perform c opc .any (fun s =>
      match s.refusal c (if c.berth.isSome then .berth else .pf) with
      | some st => s.cmdFree c st
      | none => s.cmdFree c stBad)

/-! ### Fault domains (R441) -/

/-- The nearest ancestor that is a fault domain; a root always is. -/
def State.faultDomain (s : State) (part r : Nat) : Nat :=
  ((s.ancestors part r).find? (fun x => (s.rcb part x).fd || (s.rcb part x).parent == 0)).getD r

/-- A platform fault that no thread can be told, and that has not been reported yet, aborts the grids of its fault domain. -/
def execErrDomain (part region : Nat) (cause : BitVec 10) (s : State) : Host.Outcome State Fault Refusal :=
  if !s.untold.contains (part, region, cause) then .next s
  else
    let s := { s with untold := s.untold.erase (part, region, cause) }
    let d := s.faultDomain part region
    let hit := s.grids.filter (fun e => e.2.part == part && e.2.st != .ended && s.within part e.2.region d)
    let s := hit.foldl (fun s e => s.setAbort e.1 3) s
    let bks := (s.berths.filter (fun b => match b.2.bound with | some (p, r) => p == part && s.within part r d | none => false)).map (·.1)
    .next (bks.foldl (fun s bk => s.post bk (eventWord (BitVec.ofNat 64 (cause.toNat + d * 65536)) 0 3 0)) s)

/-! ### Function-level reset and binding (R442, R449) -/

/-- Page tables of a berth, and what they map, are gone; their frames are free, but for those of a wake copy, which its last load frees
(R431, R461). -/
def State.dropTables (s : State) (bk : Nat) : State :=
  let mine := s.roots.filter (fun r => r.1 / 4096 == bk)
  let pages := ((mine.flatMap (fun r => (leavesUnder s.mem levels r.2).filter (fun e => !e.2.getLsbD 4))).map (fun e => entryPage e.2)).filter
    (fun pa => !s.wakePage pa)
  let tables := mine.flatMap (fun r => tablesUnder s.mem levels r.2)
  let s := (pages ++ tables).foldl (fun s loc => s.dropFrame loc) s
  let s := { s with
    roots := s.roots.filter (fun r => r.1 / 4096 != bk)
    wakeCopies := s.wakeCopies.map (fun (e : Nat × WakeCopy) => (e.1, { e.2 with bases := tdel e.2.bases bk }))
    codeMaps := s.codeMaps.filter (fun m => m.root / 4096 != bk) }
  s.shootdown bk 0 (2 ^ 55)

/-- The steps of R449 that are due. While a grid of the berth has not ended, the reset waits; END of an abort that it sets
is 2 or 3, which the spec does not say. -/
def State.resetBerth (s : State) (package bk : Nat) : State × Bool :=
  let e : BitVec 8 := if (Config.freeWord s.tick).getLsbD 0 then 2 else 3
  let live := (s.grids.filter (fun g => g.2.bk == bk && g.2.st != .ended)).map (·.1)
  let s := live.foldl (fun s g => s.setAbort g e) { s with tick := s.tick + 1 }
  if !live.isEmpty || s.launches.any (fun l => l.grid.bk == bk) then (s, false)
  else
    let (part, region) := (s.berth bk).bound.getD (0, 0)
    let keys := (s.images.filter (fun i => i.2.berth == bk)).map (·.1)
    let s := keys.foldl (fun s k =>
      let s := (s.discardCopy k).emptyMfs k part region
      match s.images.find? (fun e => e.1 == k) with
      | some (_, im) =>
        if im.unload.isNone then s.unloadImage k part package false
        else { s with images := tset s.images k { im with event := false, pending := none } }.finishImage k
      | none => s) s
    let built := ((s.berth bk).mfs.filter (fun m => mfState m.2 != 0)).length
    let s := s.release part 5 region built
    (s.modBerth bk (fun b =>
      { b with
        mfs := []
        crbase := 0
        crsize := 0
        crtail := 0
        crhead := 0
        erbase := 0
        ersize := 0
        ertail := 0
        erhead := 0
        events := [] }), true)

/-- The executable pages of a berth are unmapped as by `UNMAP`: their frames serve no later generation and are freed by R460. -/
def State.dropExec (s : State) (bk package : Nat) : State :=
  let pages := ((s.codeMaps.filter (fun m => m.root / 4096 == bk && m.last.isNone)).map (fun m => (m.va, m.size))).dedup
  if pages.isEmpty then s
  else
    let (part, _) := (s.berth bk).bound.getD (0, 0)
    let g := genAfter (s.part part).counter
    let s := pages.foldl (fun s m => s.unmapPages bk part g (s.relative part package) m.1 m.2 1) s
    s.setPart part { s.part part with counter := g, published := g }

/-- A reset or binding of a berth that is under way goes on as far as it can. -/
def State.advanceReset (s : State) (package berth : Nat) : State :=
  let bk := berthKey package berth
  match (s.berth bk).resetting with
  | none => s
  | some goal =>
    match s.resetBerth package bk with
    | (s, false) => s
    | (s, true) =>
      let s := s.modBerth bk (fun b => { b with resetting := none })
      match goal with
      | none => s
      | some (part, region, trust, cls, tag) =>
        let s := (s.dropExec bk package).dropTables bk
        let s := s.modBerth bk (fun b => { b with bound := some (part, region), trust := trust, cls := cls })
        { s with tick := s.tick + 1 }.post (berthKey package 256) (eventWord (Config.freeWord s.tick) stOk 0 tag)

/-- A function-level reset of a berth begins, or goes on. -/
def execFunctionLevelReset (package berth : Nat) (s : State) : Host.Outcome State Fault Refusal :=
  let bk := berthKey package berth
  let s := if (s.berth bk).resetting.isSome then s else s.modBerth bk (fun b => { b with resetting := some none })
  .next (s.advanceReset package berth)

/-- `BERTH_BIND`: the berth's holdings go as by a reset, then it is bound; the completion follows the binding. -/
def execBerthBind (c : Cmd) (berth part region trust cls : Nat) (s : State) : Host.Outcome State Fault Refusal :=
  s.perform c 0x12 .pf (fun s =>
    let bk := berthKey c.package berth
    let number := part
    let part := s.partKey c.package part
    if 256 ≤ berth || !(s.pkg c.package).slices.any (fun x => x.part == number) || !(region == 1 || thas (s.part part).regions region) ||
        trust < 1 || 255 < trust || cls < 1 || 255 < cls then s.cmdFree c stBad
    else if (s.berth bk).resetting.isSome then s.cmdFree c stBusy
    else
      let s := s.modBerth (cmdKey c) (fun b => { b with crhead := (b.crhead + 1) % ringLen b.crsize 4 12 })
      (s.modBerth bk (fun b => { b with resetting := some (some (part, region, trust, cls, c.tag)) })).advanceReset c.package berth)

end Sys2Proof.Machine
end

