-- ==== Sys2Proof/Machine/Coherence.lean ====
section
/-! DEFINITION. The steps of the reference machine that are not an instruction's own (R187 to R203), and what a home answers to a
message of a thread, of a ferry engine or of the host. -/
namespace Sys2Proof.Machine

/-- A read copy of an L1 is discarded; it may be one of a code line (R21). -/
def execL1Drop (core line : Nat) (s : State) : Host.Outcome State Fault Refusal :=
  .next ((s.dropL1 core line).modCore core (fun c => { c with codeLines := tdel c.codeLines line }))

/-! ### Drift (R242) -/

/-- Fabric traffic of a source has moved: the grid that a message is tagged with is not quiet. A writeback is any group's of its
cluster. -/
def State.stirFor (s : State) (src : Src) (m : Msg) : State :=
  match m.thread, m.beat, src with
  | some k, _, _ => s.stir ((s.thr k).group.getD 0)
  | none, some p, _ =>
    match (s.channel p.cluster p.chan).xfers.find? (fun x => x.id = p.xfer) with
    | some x => s.stir x.req.group
    | none => s
  | none, none, .near ck => ((s.groups.filter (fun e => e.2.cluster == ck && e.2.present)).map (·.1)).foldl (fun s g => s.stir g) s
  | none, none, _ => s

/-! ### Replies -/

/-- A reply reaches its thread. -/
def State.reply (s : State) (m : Msg) (bs : List Byte) : State :=
  match m.thread, m.reply with
  | some k, some i => s.modThr k (fun t => { t with got := t.got.set i (some bs) })
  | _, _ => s

/-- A reply reaches its thread as an error; the access has no other effect (R36, R226). -/
def State.refuse (s : State) (m : Msg) (c : BitVec 10) : State :=
  match m.thread, m.reply with
  | some k, some i => s.modThr k (fun t => { t with err := some (i, c) })
  | _, _ => s

/-- A bank performs no access for a group that it has left (R159), and none when it is no scratchpad any more (R156, R170). -/
def State.bankError (s : State) (m : Msg) : Option (BitVec 10) :=
  match s.homeOf m.loc with
  | .slice _ => none
  | .bank ck b =>
    if (s.bank ck b).group != m.owner then some 0x104 else if (s.bank ck b).mode == .sp then none else some 0x103

/-- The error that a home answers a message with: a bank in another mode, an uncorrectable error of what is read (R226), a locked frame
(R36). -/
def State.homeError (s : State) (m : Msg) : Option (BitVec 10) :=
  (s.bankError m).orElse (fun _ =>
    match m.op with
    | .read n => s.readError m.loc n
    | .rmw _ v => (s.readError m.loc v.length).orElse (fun _ => if s.locked m.loc then some 0x101 else none)
    | _ => if s.locked m.loc && (m.reply.isSome || m.beat.isSome) then some 0x101 else none)

/-- What a home answers reaches the thread or the beat that waits for it. -/
def State.respond (s : State) (m : Msg) (r : Except (BitVec 10) (List Byte)) : State :=
  match m.beat with
  | some p => s.beatReply p r
  | none =>
    match r with
    | .ok bs => s.reply m bs
    | .error c => s.refuse m c

/-- The message at the head of a core path is gone. -/
def State.popPath (s : State) (c : Nat) : State := s.modCore c (fun k => { k with path := k.path.tail })

/-- Whether an access of the message's thread to the same line is on its way to the home: it comes first (R190). -/
def State.lineSent (s : State) (core : Nat) (m : Msg) : Bool :=
  (s.chan (.core core) (s.homeOf m.loc)).any (fun w => w.thread == m.thread && lineOf w.loc == lineOf m.loc)

/-- The near cache takes a store from the head of the core path. -/
def execNearCacheAccept (core : Nat) (s : State) : Host.Outcome State Fault Refusal :=
  match (s.core core).path with
  | m :: _ =>
    match m.op with
    | .write bs =>
      if m.near && s.hasWay (clusterOf core) && !s.lineSent core m then
        .next (((s.popPath core).nearAccept core m.loc bs).reply m [])
      else .next s
    | _ => .next s
  | [] => .next s

/-- The near cache returns valid bytes to the load at the head of the core path. -/
def execNearCacheRead (core : Nat) (s : State) : Host.Outcome State Fault Refusal :=
  match (s.core core).path with
  | m :: _ =>
    match m.op with
    | .read n =>
      if m.near && s.nearHolds (clusterOf core) m.loc n && !s.lineSent core m then
        let s := (s.popPath core).mergeOwn core (lineOf m.loc)
        if s.nearHolds (clusterOf core) m.loc n then
          let (bs, s) := s.nearHit core m.loc n
          .next (s.reply m bs)
        else .next s
      else .next s
    | _ => .next s
  | [] => .next s

/-- A message enters the channel from its source to its home. -/
def State.enterChan (s : State) (src : Src) (m : Msg) : State :=
  let h := s.homeOf m.loc
  (s.setChan src h (s.chan src h ++ [m])).stirFor src m

/-- A line's dirty bytes enter the near cache's channel to their home; they become clean. -/
def execNearCacheWriteback (cluster line : Nat) (s : State) : Host.Outcome State Fault Refusal :=
  let n := s.near cluster line
  if n.dirty = 0 then .next s
  else
    let m : Msg := { loc := line * 128, op := .masked (dirtyBytes n), core := cluster * 16, cycle := s.now }
    .next ((s.enterChan (.near cluster) m).setNear cluster line { n with dirty := 0 })

/-- A valid clean byte of the near cache becomes invalid. -/
def execNearCacheDrop (cluster loc : Nat) (s : State) : Host.Outcome State Fault Refusal :=
  let n := s.near cluster (lineOf loc)
  let m := maskOf (loc % 128) 1
  if n.dirty &&& m = 0 then .next (s.setNear cluster (lineOf loc) { n with valid := n.valid &&& ~~~m })
  else .next s

/-- Whether the message at the head of a core path goes on to its home: no level before it takes it (R188). -/
def State.leaves (s : State) (core : Nat) (m : Msg) : Bool :=
  match m.op with
  | .read n => !(m.near && s.nearHolds (clusterOf core) m.loc n)
  | .write _ => !(m.near && s.hasWay (clusterOf core))
  | _ => true

/-- The message at the head of a core path, or the first that an engine or the host has produced, enters the channel to its home. A
near cache's writebacks enter theirs as they are made. -/
def execSend (src : Src) (s : State) : Host.Outcome State Fault Refusal :=
  match src with
  | .core c =>
    match (s.core c).path with
    | m :: _ => .next (if s.leaves c m then (s.popPath c).enterChan src m else s)
    | [] => .next s
  | .engine ck =>
    match (s.clus ck).outbox with
    | m :: ms => .next ((s.modClus ck (fun c => { c with outbox := ms })).enterChan src m)
    | [] => .next s
  | .host p =>
    match (s.pkg p).outbox with
    | m :: ms => .next ((s.modPkg p (fun q => { q with outbox := ms })).enterChan src m)
    | [] => .next s
  | .near _ => .next s

/-- The home performs the message at the head of a channel (R188, R189, R201). -/
def State.performAt (s : State) (m : Msg) : List Byte × State :=
  match m.thread with
  | none => s.homeServe m.loc m.core m.op
  | some _ =>
    if m.near then
      match m.op with
      | .read n => s.homeLoad m.core m.loc n
      | .write bs => ([], s.homeStore m.core m.loc bs)
      | op => s.atHome m.core m.loc op
    else s.atHome m.core m.loc m.op

/-- Whether a writeback of the message's line by its own cluster's near cache is still on its way to the home: it comes
first (R188, R190). -/
def State.afterWriteback (s : State) (src : Src) (home : HomeId) (m : Msg) : Bool :=
  match src with
  | .core c => (s.chan (.near (clusterOf c)) home).any (fun w => lineOf w.loc == lineOf m.loc)
  | _ => false

/-- Whether an earlier write of the host message's berth has still to be performed (R203). -/
def State.afterWrite (s : State) (m : Msg) : Bool :=
  match m.host with
  | some ⟨bk, some _, i, _⟩ =>
    let p (w : Msg) : Bool := match w.host with | some v => v.berth == bk && v.kind.isSome && decide (v.order < i) | none => false
    (s.pkg (bk / 257)).outbox.any p || s.chans.any (fun e => e.2.2.any p)
  | _ => false

/-- A message of the host is performed (R203): a write is answered, a read's bytes reach the berth where they have no error. -/
def State.hostDeliver (s : State) (h : HostPiece) (m : Msg) : State :=
  match h.kind, m.op with
  | some k, .write bs => s.hostPerform h.berth k m.loc bs
  | none, .read n =>
    match s.readError m.loc n with
    | some c => s.noteBad m.loc c
    | none =>
      let (bs, s) := s.homePerform m.loc 0 (.read n)
      s.hostReply h.berth h.off bs
  | _, _ => s

/-- The beat of a message whose group has left its bank and lives on, saved or restored elsewhere, and that group (R239, R278). -/
def State.gone (s : State) (m : Msg) : Option (BeatPiece × Nat) :=
  match m.beat, m.owner with
  | some p, some g =>
    if s.ownerOf m.loc != some g && thas s.groups g && (s.grp g).st != .gone then some (p, g) else none
  | _, _ => none

/-- The home performs the message at the head of a channel and replies if a reply is due. A release that its scope does
not reach has been stripped on the way. A beat whose group has left its bank meanwhile is held for it (R239). -/
def execDeliver (src : Src) (home : HomeId) (s : State) : Host.Outcome State Fault Refusal :=
  match s.chan src home with
  | m :: ms =>
    if s.afterWriteback src home m || s.afterWrite m then .next s
    else
      let (m, s) := ((s.setChan src home ms).stirFor src m).strip m
      match m.host, s.gone m, s.homeError m with
      | some h, _, _ => .next (s.hostDeliver h m)
      | none, some (p, g), _ => .next (s.recallBeat p g)
      | none, none, some c => .next ((s.noteBad m.loc c).respond m (.error c))
      | none, none, none =>
        let (bs, s) := s.performAt m
        .next (s.respond m (.ok bs))
  | [] => .next s

/-- A release at the head of a channel meets a boundary that its scope does not include (R195). -/
def execStrip (src : Src) (home : HomeId) (s : State) : Host.Outcome State Fault Refusal :=
  match s.chan src home with
  | m :: ms =>
    let (m', s) := s.strip m
    .next (s.setChan src home (m' :: ms))
  | [] => .next s

/-- An update-only line is sent to its home, added there, and discarded. -/
def execMerge (core line : Nat) (s : State) : Host.Outcome State Fault Refusal := .next (s.mergeOwn core line)

end Sys2Proof.Machine
end

