-- ==== Sys2Proof/Machine/Control.lean ====
section
/-! DEFINITION. Control transfers (R101 to R107). Under tow the tug decides whether a transfer is taken and where it
goes; a follower performs the other effects on its own state (R72, R107). -/
namespace Sys2Proof.Machine

/-- The address of a branch displacement in 4-byte units (R25). -/
def branchTarget (pc : Addr) (disp : BitVec 34) : Addr := pc + disp.signExtend 56 * 4

/-- A transfer of control (R35): the target is checked. -/
def transfer (t : Addr) : Exec (Option Addr) := do
  if ← following then pure (some t)
  else do
    checkStart t
    pure (some t)

/-- A branch that is taken (R102): the target is checked, the site records the outcome (R405), and a `.s` branch then samples
the abort. -/
def takeBranch (back : Bool) (t : Addr) (site : BitVec 16) (o : WakeObs) : Exec (Option Addr) := do
  let r ← transfer t
  wakeNoteCtl site o
  if back && !(← following) then do
    let t ← sampleTaken t
    pure (some t)
  else pure r

/-- A branch that is taken when the tug's flags say so; its site records the outcome. -/
def branch (h : Hdr) (taken : Flags → Bool) (back : Bool) (disp : BitVec 34) (site : BitVec 16) (s : State) :
    Host.Outcome State Fault Refusal :=
  issue h.form.bytes h.pred true (do
    let t ← getMe
    if taken t.f then takeBranch back (branchTarget t.pc disp) site (.branch true)
    else do
      wakeNoteCtl site (.branch false)
      pure none) s

/-- `br` (R102). -/
def execBr (h : Hdr) (back : Bool) (disp : BitVec 34) (site : BitVec 16) (s : State) :
    Host.Outcome State Fault Refusal := branch h (fun _ => true) back disp site s

/-- `bc` (R102). -/
def execBc (h : Hdr) (cond : BitVec 4) (back : Bool) (disp : BitVec 34) (site : BitVec 16) (s : State) :
    Host.Outcome State Fault Refusal := branch h (condHolds cond) back disp site s

/-- `loop` (R103). Every member of a tow counts down its own `lc`. -/
def execLoop (h : Hdr) (back : Bool) (disp : BitVec 34) (site : BitVec 16) (s : State) :
    Host.Outcome State Fault Refusal :=
  issue h.form.bytes h.pred true (do
    let t ← getMe
    if t.lc.toNat ≤ 1 then do
      modMe (fun t => { t with lc := 0 })
      wakeNoteCtl site .fell
      pure none
    else do
      modMe (fun t => { t with lc := t.lc - 1 })
      takeBranch back (branchTarget t.pc disp) site .taken) s

/-- The target of a `call` (R104). A follower makes the operand's pointer update only: whether it also reads its own target
operand the spec does not say, and it does not here, so no fault of that operand is a follower's (R72, log 68, DESIGN
CHOICE). -/
def callTarget (tgt : CallTgt) : Exec Addr := do
  let t ← getMe
  match tgt with
  | .rel d => pure (branchTarget t.pc d)
  | .abs v => pure (v.setWidth 56)
  | .ptr n => pure (ptrAddr (t.ptr n))
  | .mem n m => do
    if ← following then specAddr n m 8 8
    else do
      let v ← readSrc (.mem n m) 8 opB
      pure (v.setWidth 56)

/-- `call` (R104). -/
def execCall (h : Hdr) (tgt : CallTgt) (link : BitVec 3) (s : State) : Host.Outcome State Fault Refusal :=
  issue h.form.bytes h.pred true (do
    let t ← getMe
    let x := ptrAddr (t.ptr link) - 8
    checkAlign x 8 0x0C0 opA
    let (loc, uc) ← locate x 8 ⟨false, true⟩ opA
    let d ← callTarget tgt
    let r ← transfer d
    storeAt loc uc x (leBytes (nextPc t.pc h.form.bytes).toNat 8) opA
    setAddr link x
    pure r) s

/-- `ret` (R104). Every member of a tow pops its own stack. -/
def execRet (p : Pred) (link : BitVec 3) (s : State) : Host.Outcome State Fault Refusal :=
  issue 8 p true (do
    let v ← readSrc (.mem link .postInc) 8 opA
    transfer (v.setWidth 56)) s

/-- `jmp` (R105). A follower makes the operand's pointer update only (log 68). -/
def execJmp (h : Hdr) (tgt : JmpTgt) (s : State) : Host.Outcome State Fault Refusal :=
  issue h.form.bytes h.pred true (do
    let t ← getMe
    match tgt with
    | .ptr n => transfer (ptrAddr (t.ptr n))
    | .abs v => transfer (v.setWidth 56)
    | .mem n m => do
      if ← following then do
        let x ← specAddr n m 8 8
        pure (some x)
      else do
        let v ← readSrc (.mem n m) 8 opA
        transfer (v.setWidth 56)) s

/-- `ldlc` (R103). -/
def execLdlc (h : Hdr) (ty : Ty) (src : Opnd) (s : State) : Host.Outcome State Fault Refusal :=
  straight h (do
    let v ← readSrc src (tyBytes ty) opA
    modMe (fun t => { t with lc := (extendTo ty (lowOf ty v)).setWidth 32 })) s

end Sys2Proof.Machine
end

