-- ==== Sys2Proof/Machine/Package.lean ====
section
/-! DEFINITION. Bring-up, power, retirement of pages, Deck and out-of-band management (R450, R462 to R470). -/
namespace Sys2Proof.Machine

/-! ### The configuration record (R464, R466) -/

/-- Whether Keel accepts a record. -/
def recordAccepted (r : List Byte) : Bool :=
  shake256 ((r.drop 1022).take 1794) 32 == Config.keelKeyDigest && Config.falconVerify (recordKey r) (r.take 2816) (r.drop 2816)

/-- The bits of a mask that are set. -/
def bitsSet (v n : Nat) : List Nat := (List.range n).filter (fun i => v.testBit i)

/-- The pages that RETIRE lists: bits 39 to 16 of an offset within the package's HBM. -/
def recordRetired (p : Nat) (r : List Byte) : List Nat :=
  ((List.range 248).map (fun i => fieldAt r (30 + 4 * i) 4)).filterMap (fun v =>
    if v = 0xFFFFFFFF then none else some (p * 2 ^ 40 + v % 2 ^ 24 * 2 ^ 16))

/-- A package as Keel's boot leaves it: the record is checked, Deck is loaded from flash (R450, R464, R467). -/
def booted (p now : Nat) (old : Package) : Package :=
  let ok := recordAccepted old.record
  let deck := if Config.deckSigned (recordKey old.record) old.deckFlash then some old.deckFlash else none
  { phase := .boot, resetAt := now, sampledAt := now, booted := old.record, enabled := if ok then bitsSet (fieldAt old.record 0 8) 64 else [],
    ports := if ok then bitsSet (fieldAt old.record 8 4) 32 else [], recordOk := ok,
    cap := if ok then fieldAt old.record 12 4 else 4600,
    retired := ((if ok then recordRetired p old.record else []) ++ old.journal.map (·.1)).dedup, journal := old.journal,
    record := old.record, deckFlash := old.deckFlash, highest := old.highest,
    deck := deck, deckSeen := now, deckMem := memWrite [] 0 ((deck.getD []).take (2 ^ 24)) }

/-! ### Reset (R463, R464, R467) -/

/-- The package of a source of channels. -/
def srcPackage : Src → Nat
  | .core c => packageOf (clusterOf c)
  | .near k => packageOf k
  | .engine k => packageOf k
  | .host p => p

/-- A group is gone with whatever engines do for it, and its charges are released. -/
def State.dropGroup (s : State) (g : Nat) : State :=
  let gr := s.grp g
  let grid := s.grid gr.grid
  let s := if gr.present then s.releaseAll grid.part grid.region (placeCharges grid.man gr.cores.length) else s
  let s := match gr.save.bind (·.frame) with | some loc => s.dropFrame loc | none => s
  let s := (List.range 16).foldl (fun s i => s.fifoDrop (gr.cluster * 16 + i) (fun r => r.group == g)) s
  let keep (e : Nat × Channel) : Nat × Channel := (e.1, { e.2 with xfers := e.2.xfers.filter (fun x => x.req.group != g) })
  let s := s.modClus gr.cluster (fun c =>
    { c with
      fired := c.fired.filter (fun r => r.group != g)
      armed := c.armed.filter (fun a => a.req.group != g)
      links := c.links.filter (fun l => (s.thr l.handle.1).group != some g)
      channels := c.channels.map keep })
  let s := s.freeGroup g
  { s with groups := tdel s.groups g }

/-- Everything that a package holds outside its flash is gone: its threads, cores and clusters, its memory, the grids that its
berths launched or that its dispatcher ordered, the groups placed or saved there, its berths with their images. -/
def State.wipe (s : State) (p : Nat) : State :=
  let here (loc : Nat) : Bool := locPackage loc == p
  let core (c : Nat) : Bool := packageOf (clusterOf c) == p
  let bk (b : Nat) : Bool := b / 257 == p
  let lost (g : Nat) : Bool := g / 2 ^ 64 == p || (s.grid g).pkg == p
  let away := (s.groups.filter (fun e => packageOf e.2.cluster != p && lost e.2.grid)).map (·.1)
  let s := away.foldl (fun s g => s.dropGroup g) s
  let ended := s.grids.filter (fun e => lost e.1 && e.2.st != .ended)
  let s := ended.foldl (fun s e => s.release e.2.part 7 e.2.region 1) s
  let s := (s.frames.filter (fun f => here f.loc)).foldl (fun s f => s.dropFrame f.loc) s
  let s := (s.wakeCopies.filter (fun e => here e.1)).foldl (fun s e => s.forgetCopy e.1 (copyPages e.2.slots)) s
  let slices := ((s.pkg p).slices.map (fun x => s.partKey p x.part)).filter (fun n => (s.slicesOf n).all (fun e => e.1 == p))
  -- what other packages have sent here gets no reply; their launches here are never ordered
  let sent := (s.chans.filter (fun e => srcPackage e.1 != p && packageOf (homeCluster e.2.1) == p)).flatMap (·.2.2)
  { s with
    threads := s.threads.filter (fun e => !core (coreOf e.1))
    cores := s.cores.filter (fun e => !core e.1)
    clusters := s.clusters.filter (fun e => packageOf e.1 != p)
    groups := s.groups.filter (fun e => packageOf e.2.cluster != p && !lost e.2.grid)
    grids := s.grids.filter (fun e => !lost e.1)
    parts := s.parts.filter (fun e => !slices.contains e.1)
    berths := s.berths.filter (fun e => !bk e.1)
    images := s.images.filter (fun e => !bk e.2.berth)
    wakeCopies := s.wakeCopies.filter (fun e => !here e.1)
    launches := (s.launches.filter (fun l => l.grid.pkg != p)).map (fun l => if l.head = p then { l with head := lostHead } else l)
    roots := s.roots.filter (fun r => !here r.2 && !bk (r.1 / 4096))
    landings := s.landings.filter (fun e => !here e.1)
    reports := s.reports.filter (fun r => !lost r.grid)
    tows := s.tows.filter (fun w => !core (coreOf w.tug))
    chans := s.chans.filter (fun e => srcPackage e.1 != p && packageOf (homeCluster e.2.1) != p)
    lost := s.lost ++ sent.filter (fun m => m.reply.isSome || m.beat.isSome)
    untold := s.untold.filter (fun u => !slices.contains u.1)
    mem := s.mem.filter (fun e => !here e.1)
    poison := s.poison.filter (fun e => !here (e.1 * 128))
    flaws := s.flaws.filter (fun f => !here f)
    holders := ((s.holders.filter (fun e => !here (e.1 * 128))).map (fun (e : Nat × List Nat) => (e.1, e.2.filter (fun c => !core c)))).filter
      (fun e => !e.2.isEmpty)
    codeMaps := s.codeMaps.filter (fun m => !here m.frame && !bk (m.root / 4096)) }

/-- A package restarts as at power-on. -/
def State.restart (s : State) (p : Nat) : State := (s.wipe p).setPkg p (booted p s.now (s.pkg p))

/-- Power comes on: Keel boots (R467). A package number has 12 bits (R2, R161). -/
def execPowerOn (package : Nat) (s : State) : Host.Outcome State Fault Refusal :=
  if (s.pkg package).phase = .off ∧ package < 4096 then .next (s.restart package) else .next s

/-- Keel's boot is over: slack water begins (R467). -/
def State.boots (s : State) (package : Nat) : State :=
  if (s.pkg package).phase = .boot then s.modPkg package (fun p => { p with phase := .slack }) else s

/-- A conventional reset of the physical function (R464). -/
def execPackageReset (package : Nat) (s : State) : Host.Outcome State Fault Refusal :=
  if (s.pkg package).phase = .off then .next s else .next (s.restart package)

/-! ### The end of slack water (R467, R469) -/

/-- Grids of a package that deal or run. -/
def State.slackGrids (s : State) (p : Nat) : List (Nat × Grid) :=
  s.grids.filter (fun e => e.2.pkg == p && (e.2.st == .dealing || e.2.st == .dealt) && e.2.compl + e.2.canc != e.2.count)

/-- Whether the drain limit of a grid's partition has passed since a package's training ended. -/
def State.drainedOut (s : State) (package since : Nat) (gr : Grid) : Bool := decide (since + s.drainLimit gr.part package ≤ s.now)

/-- The grids of a package whose drain limit has passed since its training ended are cancelled. -/
def State.cancelDrained (s : State) (package since : Nat) : State :=
  ((s.slackGrids package).filter (fun e => s.drainedOut package since e.2)).foldl (fun s e => s.setAbort e.1 2) s

/-- Training ends. Dealing stops; what runs has the drain limit of its partition, each grid that of its own, then it is cancelled; full
service begins when none is left within it. A package whose record fails stays in slack water. -/
def execTrainingEnd (package : Nat) (s : State) : Host.Outcome State Fault Refusal :=
  let p := s.pkg package
  if p.phase ≠ .slack || !p.recordOk then .next s
  else
    let since := p.trainedAt.getD s.now
    let rest := (s.slackGrids package).any (fun e => !s.drainedOut package since e.2)
    .next ((s.cancelDrained package since).modPkg package (fun p =>
      if rest then { p with trainedAt := some since } else { p with phase := .full, trainedAt := none }))

/-! ### Power and temperature (R463) -/

/-- Sensors of a package: 0 its power in watts, 1 to 5 the junctions of its dies, 6 the coolant inlet, 7 to 18 the HBM stacks. -/
def reading (tick package number : Nat) : Nat := Config.sensor tick (package * 32 + number)

/-- Whether a junction reads at least a temperature. -/
def junctionAt (tick package t : Nat) : Bool := (List.range 5).any (fun i => decide (t ≤ reading tick package (i + 1)))

/-- Keel measures: above the power cap, or with a junction above 100 °C, array streams are throttled; at 110 °C the package is reset. -/
def State.measure (s : State) (package : Nat) : State :=
  let p := s.pkg package
  let s' := { s with tick := s.tick + 1 }
  if junctionAt s.tick package 110 then s'.restart package
  else s'.setPkg package { p with throttled := decide (p.cap < reading s.tick package 0) || junctionAt s.tick package 101, sampledAt := s.now }

/-- Whether 2^16 cycles have passed since Keel last measured (R463). -/
def State.measureDue (s : State) (package : Nat) : Bool :=
  (s.pkg package).phase != .off && decide ((s.pkg package).sampledAt + 2 ^ 16 ≤ s.now)

/-- Keel's measurement, every 2^16 cycles. -/
def execPowerSample (package : Nat) (s : State) : Host.Outcome State Fault Refusal :=
  .next (if s.measureDue package then s.measure package else s)

/-- A junction at 110 °C resets the package (R463). -/
def execThermalTrip (package : Nat) (s : State) : Host.Outcome State Fault Refusal :=
  let s' := { s with tick := s.tick + 1 }
  .next (if (s.pkg package).phase ≠ .off ∧ junctionAt s.tick package 110 = true then s'.restart package else s')

/-! ### Retired pages (R466) -/

/-- An error in a location of HBM is corrected: Deck counts it, and Keel those of its page within 2^32 cycles (R226, R466). -/
def State.correct (s : State) (loc : Nat) : State :=
  let page := loc / 2 ^ 16 * 2 ^ 16
  s.modPkg (locPackage loc) (fun p =>
    { p with
      softErrors := p.softErrors + 1
      corrected := if isBank loc then p.corrected else p.corrected.filter (fun e => decide (s.now < e.2 + 2 ^ 32)) ++ [(page, s.now)] })

/-- Whether a page of HBM is to be retired (R466): it has returned 0x382, or it has taken 16 corrected errors within 2^32 cycles
(log 86). -/
def State.worn (s : State) (page : Nat) : Bool :=
  (s.pkg (locPackage page)).returned.contains page ||
    decide (16 ≤ (((s.pkg (locPackage page)).corrected.filter (fun e => e.1 == page && decide (s.now < e.2 + 2 ^ 32))).length))

/-- A page that returned 0x382 or took 16 corrected errors enters the journal, signed with the device key. Nothing is unmapped. -/
def execPageRetire (package frame : Nat) (s : State) : Host.Outcome State Fault Refusal :=
  let p := s.pkg package
  let page := frame / 2 ^ 16 * 2 ^ 16
  if p.phase = .off || locPackage page ≠ package || isBank page || p.retired.contains page || !s.worn page then .next s
  else
    let sig := Config.falconSign (Config.pufSeed package) (leBytes page 8)
    .next (s.setPkg package { p with retired := p.retired ++ [page], journal := p.journal ++ [(page, sig)] })

/-! ### Deck (R450) -/

/-- Deck has trapped, or has missed its watchdog for 2^26 cycles: Keel restarts it. When it traps is its own program's, which the spec
does not describe (log 85). No grid observes it. -/
def execDeckWatchdog (package : Nat) (s : State) : Host.Outcome State Fault Refusal :=
  match (s.pkg package).deck with
  | none => .next s
  | some image => .next (s.modPkg package (fun p => p.runDeck image s.now))

/-- Whether Keel accepts Deck's hint that a group give way to a waiting grid: it orders their regions, which are of equal PRIO, or it
proposes a pre-emption that R440 permits already. -/
def State.hintOk (s : State) (waiting victim : Nat) : Bool :=
  let v := s.grid (s.grp victim).grid
  let w := s.grid waiting
  let pv := (s.rcb v.part v.region).prio
  let pw := (s.rcb w.part w.region).prio
  w.part == v.part && ((pv == pw && v.region != w.region) || (decide (pv < pw) && (s.victim victim).isSome))

/-- Deck gives a hint: the region of a group goes before that of a waiting grid when Keel chooses among equals (log 85). Keel discards
every hint but those of R450. -/
def execDeckHint (package waiting victim : Nat) (s : State) : Host.Outcome State Fault Refusal :=
  let v := s.grid (s.grp victim).grid
  if (s.pkg package).deck.isNone || packageOf (s.grp victim).cluster ≠ package || !s.hintOk waiting victim then .next s
  else .next (s.modPkg package (fun p => { p with hints := p.hints ++ [(v.part, v.region)] }))

/-! ### Out-of-band management (R470) -/

/-- PLDM for Platform Monitoring and Control: a sensor is answered. It changes nothing that programs see. -/
def execPldmMonitoring (package sensor : Nat) (s : State) : Host.Outcome State Fault Refusal :=
  if s.silent package || 18 < sensor then .next s
  else
    .next { s.modPkg package (fun p => { p with reading := some (sensor, reading s.tick package sensor) }) with tick := s.tick + 1 }

/-- PLDM for Firmware Update: an image that verifies replaces the one in flash. -/
def execPldmFirmwareUpdate (package : Nat) (deck : Bool) (bytes : List Byte) (s : State) : Host.Outcome State Fault Refusal :=
  let p := s.pkg package
  if s.silent package then .next s
  else if deck then
    .next (if Config.deckSigned (recordKey p.booted) bytes then s.setPkg package { p with deckFlash := bytes } else s)
  else
    .next (if decide (bytes.length = 4096) && recordAccepted bytes then s.setPkg package { p with record := bytes } else s)

end Sys2Proof.Machine
end

