-- ==== Sys2Proof/Machine/Pointer.lean ====
section
/-! DEFINITION. Pointer instructions (R100). -/
namespace Sys2Proof.Machine

def setPtrReg (n : BitVec 3) (v : Word) : Exec Unit := modMe (fun t => t.setPtr n v)

/-- `lp`: OPB is the address. -/
def execLp (h : Hdr) (n : BitVec 3) (src : Opnd) (s : State) : Host.Outcome State Fault Refusal :=
  straight h (do
    let (v, port) ← readWin src 8 true ⟨.plain, .co⟩ opB
    setPtrReg n v
    match port with
    | some p => freeHead p
    | none => pure ()) s

/-- `stp`: the pointer is read after OPA's update (R86). -/
def execStp (h : Hdr) (dst : Opnd) (n : BitVec 3) (s : State) : Host.Outcome State Fault Refusal :=
  straight h (do
    let d ← openDest dst 8 ⟨false, true⟩ true opA
    let t ← getMe
    writeDest d .ui64 (t.ptr n).toNat opA) s

/-- `padd`: pN is OPA, so its ADDR is read before OPB's update of a pointer, and the result prevails (R86). -/
def execPadd (h : Hdr) (n : BitVec 3) (src : Opnd) (s : State) : Host.Outcome State Fault Refusal :=
  straight h (do
    let x ← getAddr n
    let v ← readSrc src 8 opB
    setAddr n (x + v.setWidth 56)) s

/-- `pset` -/
def execPset (h : Hdr) (n : BitVec 3) (src : Opnd) (s : State) : Host.Outcome State Fault Refusal :=
  straight h (do
    let v ← readSrc src 8 opB
    setPtrReg n v) s

/-- `pmov` -/
def execPmov (p : Pred) (n m : BitVec 3) (s : State) : Host.Outcome State Fault Refusal :=
  straightS p (do
    let t ← getMe
    setPtrReg n (t.ptr m)) s

end Sys2Proof.Machine
end

