-- ==== Sys2Proof/Machine/Scalar.lean ====
section
/-! DEFINITION. Scalar integer instructions (R88 to R95). -/
namespace Sys2Proof.Machine

/-- A two-operand instruction r := x op y (R91). `none` is a zero divisor (0x020). -/
def intTwo (op : Ty → Nat → Nat → Option Alu) (h : Hdr) (ty : Ty) (dst src : Opnd) (s : State) :
    Host.Outcome State Fault Refusal :=
  let z := tyBytes ty
  straight h (do
    let opa : Exec (Dest × Word) := do
      let d ← openDest dst z ⟨true, true⟩ false opA
      let x ← readDest d z opA
      pure (d, x)
    match ← operands h.pred (specStep dst z z) opa (readSrc src z opB) ty with
    | none => pure ()
    | some ((d, x), y) =>
      match op ty (lowOf ty x) (lowOf ty y) with
      | none => faultOp 0x020
      | some r => do
        writeDest d ty r.r opA
        modFlags (fun f => f.ofAlu ty.bits r)) s

/-- A one-operand instruction r := op y (R92). -/
def intOne (op : Ty → Nat → Alu) (h : Hdr) (ty : Ty) (dst src : Opnd) (s : State) :
    Host.Outcome State Fault Refusal :=
  let z := tyBytes ty
  straight h (do
    match ← operands h.pred (specStep dst z z) (openDest dst z ⟨false, true⟩ false opA) (readSrc src z opB) ty with
    | none => pure ()
    | some (d, y) => do
      let r := op ty (lowOf ty y)
      writeDest d ty r.r opA
      modFlags (fun f => f.ofAlu ty.bits r)) s

/-- `add` (R91). -/
def execAdd (h : Hdr) (ty : Ty) (dst src : Opnd) (s : State) : Host.Outcome State Fault Refusal :=
  intTwo (fun t x y => some (aluAdd t x y)) h ty dst src s

/-- `sub` (R91). -/
def execSub (h : Hdr) (ty : Ty) (dst src : Opnd) (s : State) : Host.Outcome State Fault Refusal :=
  intTwo (fun t x y => some (aluSub t x y)) h ty dst src s

/-- `mul` (R91). -/
def execMul (h : Hdr) (ty : Ty) (dst src : Opnd) (s : State) : Host.Outcome State Fault Refusal :=
  intTwo (fun t x y => some (aluMul t x y)) h ty dst src s

/-- `mulh` (R91). -/
def execMulh (h : Hdr) (ty : Ty) (dst src : Opnd) (s : State) : Host.Outcome State Fault Refusal :=
  intTwo (fun t x y => some (aluMulh t x y)) h ty dst src s

/-- `div` (R91). -/
def execDiv (h : Hdr) (ty : Ty) (dst src : Opnd) (s : State) : Host.Outcome State Fault Refusal :=
  intTwo (aluDiv) h ty dst src s

/-- `rem` (R91). -/
def execRem (h : Hdr) (ty : Ty) (dst src : Opnd) (s : State) : Host.Outcome State Fault Refusal :=
  intTwo (aluRem) h ty dst src s

/-- `and` (R91). -/
def execAnd (h : Hdr) (ty : Ty) (dst src : Opnd) (s : State) : Host.Outcome State Fault Refusal :=
  intTwo (fun t x y => some (aluAnd t x y)) h ty dst src s

/-- `or` (R91). -/
def execOr (h : Hdr) (ty : Ty) (dst src : Opnd) (s : State) : Host.Outcome State Fault Refusal :=
  intTwo (fun t x y => some (aluOr t x y)) h ty dst src s

/-- `xor` (R91). -/
def execXor (h : Hdr) (ty : Ty) (dst src : Opnd) (s : State) : Host.Outcome State Fault Refusal :=
  intTwo (fun t x y => some (aluXor t x y)) h ty dst src s

/-- `shl` (R91). -/
def execShl (h : Hdr) (ty : Ty) (dst src : Opnd) (s : State) : Host.Outcome State Fault Refusal :=
  intTwo (fun t x y => some (aluShl t x y)) h ty dst src s

/-- `shr` (R91). -/
def execShr (h : Hdr) (ty : Ty) (dst src : Opnd) (s : State) : Host.Outcome State Fault Refusal :=
  intTwo (fun t x y => some (aluShr t x y)) h ty dst src s

/-- `sar` (R91). -/
def execSar (h : Hdr) (ty : Ty) (dst src : Opnd) (s : State) : Host.Outcome State Fault Refusal :=
  intTwo (fun t x y => some (aluSar t x y)) h ty dst src s

/-- `min` (R91). -/
def execMin (h : Hdr) (ty : Ty) (dst src : Opnd) (s : State) : Host.Outcome State Fault Refusal :=
  intTwo (fun t x y => some (aluMin t x y)) h ty dst src s

/-- `max` (R91). -/
def execMax (h : Hdr) (ty : Ty) (dst src : Opnd) (s : State) : Host.Outcome State Fault Refusal :=
  intTwo (fun t x y => some (aluMax t x y)) h ty dst src s

/-- `neg` (R92). -/
def execNeg (h : Hdr) (ty : Ty) (dst src : Opnd) (s : State) : Host.Outcome State Fault Refusal :=
  intOne aluNeg h ty dst src s

/-- `not` (R92). -/
def execNot (h : Hdr) (ty : Ty) (dst src : Opnd) (s : State) : Host.Outcome State Fault Refusal :=
  intOne aluNot h ty dst src s

/-- `clz` (R92). -/
def execClz (h : Hdr) (ty : Ty) (dst src : Opnd) (s : State) : Host.Outcome State Fault Refusal :=
  intOne aluClz h ty dst src s

/-- `popc` (R92). -/
def execPopc (h : Hdr) (ty : Ty) (dst src : Opnd) (s : State) : Host.Outcome State Fault Refusal :=
  intOne aluPopc h ty dst src s

/-- A compare: flags of an operation on s1 and s2, then P := cond (R93). -/
def intCompare (op : Ty → Nat → Nat → Alu) (h : Hdr) (ty : Ty) (cond : BitVec 4) (s1 s2 : Opnd) (s : State) :
    Host.Outcome State Fault Refusal :=
  let z := tyBytes ty
  straight h (do
    match ← operands h.pred (specStep s1 z z) (readSrc s1 z opA) (readSrc s2 z opB) ty with
    | none => pure ()
    | some (x, y) =>
      modFlags (fun f =>
        let f := f.ofAlu ty.bits (op ty (lowOf ty x) (lowOf ty y))
        { f with p := condHolds cond f })) s

/-- `cmp` (R93). -/
def execCmp (h : Hdr) (ty : Ty) (cond : BitVec 4) (s1 s2 : Opnd) (s : State) : Host.Outcome State Fault Refusal :=
  intCompare aluSub h ty cond s1 s2 s

/-- `tst` (R93). -/
def execTst (h : Hdr) (ty : Ty) (cond : BitVec 4) (s1 s2 : Opnd) (s : State) : Host.Outcome State Fault Refusal :=
  intCompare aluAnd h ty cond s1 s2 s

/-- `sel` (R94). -/
def execSel (h : Hdr) (ty : Ty) (s1 s2 : Opnd) (s : State) : Host.Outcome State Fault Refusal :=
  let z := tyBytes ty
  straight h (do
    match ← operands h.pred (specStep s1 z z) (readSrc s1 z opA) (readSrc s2 z opB) ty with
    | none => pure ()
    | some (x, y) => do
      let t ← getMe
      setA (extendTo ty (lowOf ty (if t.f.p then x else y)))) s

/-- `ext` (R95). -/
def execExt (h : Hdr) (ty : Ty) (src : Opnd) (s : State) : Host.Outcome State Fault Refusal :=
  straight h (do
    let y ← readSrc src (tyBytes ty) opA
    setA (extendTo ty (lowOf ty y))
    modFlags (fun f => f.ofAlu ty.bits { r := lowOf ty y })) s

/-- The observation of a load's site, taken before the access. -/
def siteOfLoad (src : Opnd) (z : Nat) (q : Qual) : Exec WakeObs := do
  match src with
  | .mem n m => do
    let s0 ← get
    let x ← specAddr n m z z
    set s0
    match (translate x z ⟨true, false⟩ true 0).run s0 with
    | .ok (.at loc uc, _) => pure (.load (s0.longLatency x q loc uc) (wakeLine x))
    | .ok _ => pure (.load false (wakeLine x))
    | .error _ => pure (.load true (wakeLine x))
  | _ => pure (.load false 0)

/-- `lda` (R90). -/
def execLda (h : Hdr) (ty : Ty) (q : Qual) (src : Opnd) (site : BitVec 16) (s : State) :
    Host.Outcome State Fault Refusal :=
  let z := tyBytes ty
  straight h (do
    let o ← siteOfLoad src z q
    let opa : Exec (Word × Option Nat) := readWin src z (windowOk ty) q opB
    let s0 ← get
    let (v, port) ← opa
    if ← thSkips h.pred ty v then do
      modify (fun s => s.dropReservations s.cur)
      skipped s0.me
    else do
      clearT h.pred
      let r := lowOf ty v
      setA (extendTo ty r)
      if ty.isInt then modFlags (fun f => f.ofAlu ty.bits { r := r }) else pure ()
      match port with
      | some p => freeHead p
      | none => pure ()
      wakeNote site o) s

/-- `sta` (R90). -/
def execSta (h : Hdr) (ty : Ty) (q : Qual) (dst src : Opnd) (s : State) : Host.Outcome State Fault Refusal :=
  let z := tyBytes ty
  straight h (do
    match ← operands h.pred (specStep dst z z) (openDest dst z ⟨false, true⟩ (windowOk ty) opA) (readSrc src z opB) ty with
    | none => pure ()
    | some (d, y) =>
      match d with
      | .mem loc uc x => storeQ q loc uc x (leBytes (lowOf ty y) z) 0 opA
      | d => do
        relPart q
        writeDest d ty (lowOf ty y) opA) s

end Sys2Proof.Machine
end

