-- ==== Sys2Proof/Machine/ScalarFloat.lean ====
section
/-! DEFINITION. Scalar floating-point instructions (R96 to R99). -/
namespace Sys2Proof.Machine

/-- The value of an operand at a floating-point type. -/
def fval (t : Ty) (v : Word) : FVal := (Fmt.ofTy t).decode (lowOf t v)

/-- A result goes to its destination, its exceptions to sys.fstat, and it sets the flags of R97. -/
def fpResult (d : Dest) (ty : Ty) (r : Nat × BitVec 5) : Exec Unit := do
  writeDest d ty r.1 opA
  modFlags (fun f => f.ofFloat ty r.1)
  orFstat r.2

/-- A two-operand instruction, rounded once. -/
def fpTwo (op : FVal → FVal → FVal × BitVec 5) (h : Hdr) (ty : Ty) (dst src : Opnd) (s : State) :
    Host.Outcome State Fault Refusal :=
  let z := tyBytes ty
  straight h (do
    let opa : Exec (Dest × Word) := do
      let d ← openDest dst z ⟨true, true⟩ false opA
      let x ← readDest d z opA
      pure (d, x)
    match ← operands h.pred (specStep dst z z) opa (readSrc src z opB) ty with
    | none => pure ()
    | some ((d, x), y) => fpResult d ty ((Fmt.ofTy ty).finish .rne (op (fval ty x) (fval ty y)))) s

/-- `fadd` (R97). -/
def execFadd (h : Hdr) (ty : Ty) (dst src : Opnd) (s : State) : Host.Outcome State Fault Refusal :=
  fpTwo (fAdd) h ty dst src s

/-- `fsub` (R97). -/
def execFsub (h : Hdr) (ty : Ty) (dst src : Opnd) (s : State) : Host.Outcome State Fault Refusal :=
  fpTwo (fun x y => fAdd x y.neg) h ty dst src s

/-- `fmul` (R97). -/
def execFmul (h : Hdr) (ty : Ty) (dst src : Opnd) (s : State) : Host.Outcome State Fault Refusal :=
  fpTwo (fMul) h ty dst src s

/-- `fdiv` (R97). -/
def execFdiv (h : Hdr) (ty : Ty) (dst src : Opnd) (s : State) : Host.Outcome State Fault Refusal :=
  fpTwo (fDiv) h ty dst src s

/-- `fmin` (R97). -/
def execFmin (h : Hdr) (ty : Ty) (dst src : Opnd) (s : State) : Host.Outcome State Fault Refusal :=
  fpTwo (fMinNum) h ty dst src s

/-- `fmax` (R97). -/
def execFmax (h : Hdr) (ty : Ty) (dst src : Opnd) (s : State) : Host.Outcome State Fault Refusal :=
  fpTwo (fMaxNum) h ty dst src s

/-- `fsqrt` (R97). -/
def execFsqrt (h : Hdr) (ty : Ty) (dst src : Opnd) (s : State) : Host.Outcome State Fault Refusal :=
  let z := tyBytes ty
  straight h (do
    match ← operands h.pred (specStep dst z z) (openDest dst z ⟨false, true⟩ false opA) (readSrc src z opB) ty with
    | none => pure ()
    | some (d, y) => fpResult d ty ((Fmt.ofTy ty).finish .rne (fSqrt (fval ty y)))) s

/-- `ffma` (R97): one rounding of the exact sum. -/
def execFfma (h : Hdr) (ty : Ty) (s1 s2 : Opnd) (s : State) : Host.Outcome State Fault Refusal :=
  let z := tyBytes ty
  straight h (do
    match ← operands h.pred (specStep s1 z z) (readSrc s1 z opA) (readSrc s2 z opB) ty with
    | none => pure ()
    | some (x, y) => do
      let t ← getMe
      fpResult .a ty ((Fmt.ofTy ty).finish .rne (fMulAdd (fval ty x) (fval ty y) (fval ty t.a)))) s

/-- `fcmp` (R98). -/
def execFcmp (h : Hdr) (ty : Ty) (cond : BitVec 4) (s1 s2 : Opnd) (s : State) : Host.Outcome State Fault Refusal :=
  let z := tyBytes ty
  straight h (do
    match ← operands h.pred (specStep s1 z z) (readSrc s1 z opA) (readSrc s2 z opB) ty with
    | none => pure ()
    | some (x, y) => do
      let u := fval ty x
      let v := fval ty y
      modFlags (fun f =>
        let f := f.ofCompare u v
        { f with p := fcondHolds cond f })
      orFstat (fcmpInvalid cond u v)) s

/-- `fcvt` (R99). The source, and so the bound of `.th`, is read at STYPE (R89). -/
def execFcvt (h : Hdr) (dty : Ty) (dst src : Opnd) (sty : Ty) (rm : Rm) (s : State) :
    Host.Outcome State Fault Refusal :=
  let zd := tyBytes dty
  straight h (do
    match ← operands h.pred (specStep dst zd zd) (openDest dst zd ⟨false, true⟩ false opA)
        (readSrc src (tyBytes sty) opB) sty with
    | none => pure ()
    | some (d, y) => do
      let (r, x, v) := convert dty sty (.ofRm rm) (lowOf sty y)
      if dty.isInt then do
        writeDest d dty r opA
        modFlags (fun f => f.ofAlu dty.bits { r := r, v := v })
        orFstat x
      else fpResult d dty (r, x)) s

end Sys2Proof.Machine
end

