-- ==== Sys2Proof/Machine/System.lean ====
section
/-! DEFINITION. `trap`, `eret`, `rdsr` and `wrsr` (R229 to R233). -/
namespace Sys2Proof.Machine

/-- `trap` (R230): sys.epc is the next sequential address. -/
def execTrap (p : Pred) (n : BitVec 4) (s : State) : Host.Outcome State Fault Refusal :=
  issue 8 p false (do
    let t ← getMe
    throw (.trap (0x3F0 + n.setWidth 10) 2 (some (nextPc t.pc 8)) (some 0) 0)) s

/-- The registers that a trap saved are restored, and H is clear (R231). -/
def Thread.restore (t : Thread) : Thread :=
  { t with a := t.trap.ea, f := t.trap.ef, ptrs := (t.ptrs.set 6 t.trap.ep6).set 7 t.trap.ep7, trap := { t.trap with h := false } }

/-- Thread k returns to an address. A frozen tow resumes there: at the faulting instruction, in the members that have not
completed it, which keep what they have done of it (log 72); elsewhere in all (R74). -/
def State.resume (s : State) (k : Nat) (pc : Addr) : State :=
  let s := s.modThr k Thread.restore
  match s.towOf k with
  | none => s.goOn k pc
  | some w =>
    if w.tug ≠ k || w.frozen.isNone then s.goOn k pc
    else if w.frozen = some pc then
      let s := w.followers.foldl (fun s m => if w.done.contains m then s else s.modThr m (fun t => { t with wait := .ready })) s
      let s := s.setTow { w with frozen := none, held := none, begun := w.done.contains k }
      if w.done.contains k then
        { s.modThr k (fun t => { t with pc := pc, wait := .moored 8 0 0 s.now s.moorings }) with moorings := s.moorings + 1 }
      else (s.goOn k pc).modThr k (fun t => match w.held with | some p => t.progress p | none => t)
    else
      let s := w.members.foldl (fun s m => (s.detach m).goOn m pc) s
      s.setTow { w with frozen := none, held := none, begun := false, done := [], next := none, dec := none }

/-- `eret` (R231). -/
def execEret (p : Pred) (s : State) : Host.Outcome State Fault Refusal :=
  issue 8 p false (do
    let t ← getMe
    if !t.trap.h then faultOp 0x0D2
    else do
      let pc : Addr := t.trap.epc.setWidth 56
      checkStart pc
      let s ← get
      throw (.ends (s.resume s.cur pc))) s

/-- `rdsr` (R232). -/
def execRdsr (p : Pred) (dst : Opnd) (num : BitVec 9) (s : State) : Host.Outcome State Fault Refusal :=
  straightS p (do
    let d ← openDest dst 8 ⟨false, true⟩ false opA
    let v ← readSysReg num.toNat none 0
    writeDest d .ui64 v.toNat opA) s

/-- `wrsr` (R232). -/
def execWrsr (p : Pred) (num : BitVec 9) (src : Opnd) (s : State) : Host.Outcome State Fault Refusal :=
  straightS p (do
    let v ← readSrc src 8 opA
    writeSysReg num.toNat v none 0) s

end Sys2Proof.Machine
end

