-- ==== Sys2Proof/Machine/Threads.lean ====
section
/-! DEFINITION. Threads, queue ports, fork records, tows (R56 to R76). -/
namespace Sys2Proof.Machine

/-- `nop` (R57). -/
def execNop (form : Form) (s : State) : Host.Outcome State Fault Refusal :=
  issue form.bytes .always false (pure none) s

/-- `yield` (R58): the other slots of the core that are ready issue first, or 16 cycles pass. -/
def execYield (p : Pred) (s : State) : Host.Outcome State Fault Refusal :=
  straightS p (do
    let s ← get
    let others := ((List.range 16).map (fun i => s.myCore * 16 + i)).filter (fun k =>
      k != s.cur && (s.thr k).live && (s.thr k).wait == .ready)
    modMe (fun t => { t with yielding := some (others, s.now + 16) })) s

/-- Whether the thread belongs to a running tow. -/
def inTow : Exec Bool := do
  let s ← get
  pure (s.towOf s.cur).isSome

/-- `halt` (R59). -/
def execHalt (p : Pred) (s : State) : Host.Outcome State Fault Refusal :=
  straightS p (do
    if ← inTow then faultOp 0x0B5
    else do
      let s ← get
      throw (.ends (s.endThread s.cur))) s

/-- `enq` (R61). The operand's faults come before 0x0B0 (R219). -/
def execEnq (h : Hdr) (ty : Ty) (q : BitVec 2) (src : Opnd) (s : State) : Host.Outcome State Fault Refusal :=
  straight h (do
    let s ← get
    let p := s.port s.myCore q.toNat
    if s.me.group.isSome && p.group == s.me.group then do
      reserveTail q.toNat none 0
      let v ← readSrc src (tyBytes ty) opA
      fillTail q.toNat (extendTo ty (lowOf ty v))
    else do
      discard (readSrc src (tyBytes ty) opA)
      faultOp 0x0B0) s

/-- `deq` (R61). -/
def execDeq (h : Hdr) (ty : Ty) (dst : Opnd) (q : BitVec 2) (s : State) : Host.Outcome State Fault Refusal :=
  straight h (do
    let s ← get
    let p := s.port s.myCore q.toNat
    if s.me.group.isSome && p.group == s.me.group then do
      let v ← reserveHead q.toNat none 0
      let d ← openDest dst (tyBytes ty) ⟨false, true⟩ false opA
      writeDest d ty (lowOf ty v) opA
      freeHead q.toNat
    else do
      discard (openDest dst (tyBytes ty) ⟨false, true⟩ false opA)
      faultOp 0x0B0) s

/-- `qlink` (R63). -/
def execQlink (p : Pred) (q : BitVec 2) (bank : BitVec 5) (s : State) : Host.Outcome State Fault Refusal :=
  straightS p (do
    let pt ← myPort q.toNat none 0
    let s ← get
    let c := s.myCore
    let ck := s.myClus
    -- what the FIFO holds stays in its bank as bytes (R169, log 73)
    let unlink (s : State) : State :=
      match pt.link with
      | some b =>
        { s.setBank ck b { s.bank ck b with port := none } with
          mem := memWrite s.mem (bankLoc ck b 0) (pt.entries.flatMap (fun e => leBytes e.val.toNat 8)) }
      | none => s
    if bank = 0 then
      if 8 < pt.entries.length && pt.link.isSome then faultOp 0x0B1
      else set ((unlink s).setPort c q.toNat { pt with link := none })
    else
      let b := bank.toNat
      let bk := s.bank ck b
      if bk.mode ≠ .fifo || !bk.queue.isEmpty || bk.group != s.me.group || (bk.port.isSome && bk.port != some (c, q.toNat)) then faultOp 0x0B2
      else
        let s := unlink s
        set ((s.setBank ck b { s.bank ck b with port := some (c, q.toNat) }).setPort c q.toNat { pt with link := some b })) s

/-- The address of a join counter: a word of the group's own scratchpad, 4-byte aligned (0x0B3). An address of that window whose slot
is not allotted or not in scratchpad mode, or whose reserved bits are set, raises the window's own cause, 0x103 or 0x102; which of
the two wins the spec does not say (log 75, DESIGN CHOICE). -/
def counterAt (ctr : BitVec 3) : Exec (Nat × Addr) := do
  let x ← getAddr ctr
  if !x.getLsbD 55 || x.extractLsb' 52 3 ≠ 0 || x.toNat % 4 ≠ 0 then fault 0x0B3 (some (x.setWidth 64)) opA
  else do
    let (loc, _) ← locate x 4 ⟨true, true⟩ opA
    pure (loc, x)

/-- `fork` (R66). -/
def execFork (h : Hdr) (disp : BitVec 34) (ctr : BitVec 3) (site : BitVec 16) (s : State) :
    Host.Outcome State Fault Refusal :=
  straight h (do
    if ← inTow then faultOp 0x0B5
    else do
      let (loc, x) ← counterAt ctr
      let s ← get
      let full := decide (64 ≤ (s.core s.myCore).deque.length)
      if full then modFlags (fun f => { f with p := false })
      else do
        releaseSteps .cl
        -- the count and the push are one: no other thread fills the deque between them
        modify (fun s => { s with eager := true })
        discard <| access { loc := loc, va := x, op := .rmw .add (leBytes 1 4), rel := some .cl, kind := 1 } opA
        let s ← get
        let t := s.me
        let r : ForkRec := { group := s.myGrp, creator := s.cur, seq := s.moorings, pc := branchAddr t.pc disp,
                             a := t.a, ptrs := t.ptrs }
        set { s.modCore s.myCore (fun c => { c with deque := c.deque ++ [r] }) with
              moorings := s.moorings + 1 }
        modFlags (fun f => { f with p := true })
      wakeNote site (.branch (!full))) s
where
  /-- The fork's target. -/
  branchAddr (pc : Addr) (disp : BitVec 34) : Addr := pc + disp.signExtend 56 * 4

/-- `join` (R68). The check of R35 belongs to the last arrival alone, which then has no effect. -/
def execJoin (h : Hdr) (ctr : BitVec 3) (disp : BitVec 34) (site : BitVec 16) (s : State) :
    Host.Outcome State Fault Refusal :=
  issue h.form.bytes h.pred false (do
    if ← inTow then faultOp 0x0B5
    else do
      let (loc, x) ← counterAt ctr
      releaseSteps .cl
      modify (fun s => { s with eager := true })
      let s ← get
      let cont := s.me.pc + disp.signExtend 56 * 4
      if leVal (memBytes s.mem loc 4) = 1 then checkStart cont else pure ()
      let old ← access { loc := loc, va := x, op := .rmw .add (leBytes (2 ^ 32 - 1) 4), rel := some .cl, kind := 1 } opA
      acquireSteps .cl
      wakeNote site (.branch (decide (leVal old = 1)))
      if leVal old = 1 then pure (some cont)
      else do
        let s ← get
        throw (.ends (s.endThread s.cur))) s

/-- Whether a thread has boarded: it is moored in `tow #0`. -/
def State.boarded (s : State) (k : Nat) : Bool :=
  let t := s.thr k
  t.live && t.sent.isSome &&
    (match t.wait with
      | .moored kd _ _ _ _ => kd == 8
      | _ => false)

/-- All have boarded: both `tow` instructions complete and the tow runs (R70). -/
def State.startTow (s : State) (w : Tow) : State :=
  let pc := nextPc (s.thr w.tug).pc 8
  let s := { s with tows := s.tows.filter (fun x => x.tug != w.tug) ++ [{ w with running := true }] }
  w.members.foldl (fun s m => s.goOn m pc) s

/-- `tow` (R69, R70). -/
def execTow (n : BitVec 4) (s : State) : Host.Outcome State Fault Refusal :=
  issue 8 .always false (do
    if ← inTow then faultOp 0x0B5
    else do
      let s ← get
      let k := s.cur
      let c := s.myCore % 16
      if slotOf k ≠ 0 then faultOp 0x0B4
      else if n = 0 then do
        modMe (fun t => { t with sent := some none })
        match s.tows.find? (fun w => !w.running && w.followers.contains k) with
        | some w =>
          if (w.followers.filter (· != k)).all (fun m => s.boarded m) then do
            let s ← get
            throw (.ends (s.startTow w))
          else moor 8 0 0
        | none => moor 8 0 0
      else
        let fs := (List.range n.toNat).map (fun i => (s.myCore + 1 + i) * 16)
        let others := s.tows.filter (fun w => w.tug != k)
        if 15 < c + n.toNat || !fs.all (fun m => (s.thr m).live && (s.thr m).group == s.me.group) ||
            others.any (fun w => (k :: fs).any (fun m => w.members.contains m)) then faultOp 0x0B4
        else
          let w : Tow := { tug := k, followers := fs }
          let s := { s with tows := others ++ [w] }
          if fs.all (fun m => s.boarded m) then throw (.ends (s.startTow w))
          else do
            set s
            moor 8 0 0) s

/-- The address after an instruction that stands in executable memory. -/
def State.followingPc (s : State) (g : Nat) (pc : Addr) : Addr :=
  match s.codeAt g pc with
  | none => pc
  | some m =>
    match decode (memBytes s.mem (m.frame + (pc.toNat - m.va)) 16) with
    | .ok (i, _) => nextPc pc i.form.bytes
    | .error _ => pc

/-- `cast` (R73, R74): every member goes on by itself; in a handler, a member that completed the faulting instruction
at the following one, another at the instruction itself. -/
def execCast (s : State) : Host.Outcome State Fault Refusal :=
  issue 8 .always false (do
    let s ← get
    match s.towOf s.cur with
    | none => pure none
    | some w =>
      if w.tug ≠ s.cur then pure none
      else
        let s' := { s with tows := s.tows.filter (fun x => x.tug != w.tug) }
        match w.frozen with
        | none =>
          let pc := nextPc s.me.pc 8
          throw (.ends (w.members.foldl (fun s m => s.goOn m pc) s'))
        | some pc =>
          let after := w.next.getD (s.followingPc s.myGrp pc)
          set (w.followers.foldl (fun s m =>
            if w.done.contains m then s.goOn m after else s.modThr m (fun t => { t with pc := pc, wait := .ready })) s')
          pure none) s

end Sys2Proof.Machine
end

