-- ==== Sys2Proof/Machine/Vector.lean ====
section
/-! DEFINITION. Vector instructions (R136 to R150). -/
namespace Sys2Proof.Machine

/-- `vadd` (R137). -/
def execVadd (h : Hdr) (ty : Ty) (dst src : Opnd) (s : State) : Host.Outcome State Fault Refusal :=
  vecTwo (laneBoth aluAdd fAdd) h ty dst src s

/-- `vsub` (R137). -/
def execVsub (h : Hdr) (ty : Ty) (dst src : Opnd) (s : State) : Host.Outcome State Fault Refusal :=
  vecTwo (laneBoth aluSub (fun x y => fAdd x y.neg)) h ty dst src s

/-- `vmul` (R137). -/
def execVmul (h : Hdr) (ty : Ty) (dst src : Opnd) (s : State) : Host.Outcome State Fault Refusal :=
  vecTwo (laneBoth aluMul fMul) h ty dst src s

/-- `vfma` (R137): one rounding of the exact sum. -/
def execVfma (h : Hdr) (s1 s2 : Opnd) (s : State) : Host.Outcome State Fault Refusal :=
  straight h (do
    let th ← getMe
    let x ← vecSrc s1 th.vm opA
    let y ← vecSrc s2 th.vm opB
    let v (i : Nat) : FVal := fmtF32.decode (lane th.va i).toNat
    let r (i : Nat) : Nat × BitVec 5 :=
      fmtF32.finish .rne (fMulAdd (fmtF32.decode (x i).toNat) (fmtF32.decode (y i).toNat) (v i))
    modMe (fun t => { t with va := mergeLanes t.vm t.va (fun i => BitVec.ofNat 32 (r i).1) })
    orFstat (lanesExc th.vm (fun i => (r i).2))) s

/-- `vmin` (R137). -/
def execVmin (h : Hdr) (ty : Ty) (dst src : Opnd) (s : State) : Host.Outcome State Fault Refusal :=
  vecTwo (laneBoth aluMin fMinNum) h ty dst src s

/-- `vmax` (R137). -/
def execVmax (h : Hdr) (ty : Ty) (dst src : Opnd) (s : State) : Host.Outcome State Fault Refusal :=
  vecTwo (laneBoth aluMax fMaxNum) h ty dst src s

/-- `vabs` (R137, R138). -/
def execVabs (h : Hdr) (ty : Ty) (dst src : Opnd) (s : State) : Host.Outcome State Fault Refusal :=
  vecOne (laneAbs ty) h dst src s

/-- `vneg` (R137, R138). -/
def execVneg (h : Hdr) (ty : Ty) (dst src : Opnd) (s : State) : Host.Outcome State Fault Refusal :=
  vecOne (laneNeg ty) h dst src s

/-- `vand` (R137). -/
def execVand (h : Hdr) (ty : Ty) (dst src : Opnd) (s : State) : Host.Outcome State Fault Refusal :=
  vecTwo (laneInt aluAnd) h ty dst src s

/-- `vor` (R137). -/
def execVor (h : Hdr) (ty : Ty) (dst src : Opnd) (s : State) : Host.Outcome State Fault Refusal :=
  vecTwo (laneInt aluOr) h ty dst src s

/-- `vxor` (R137). -/
def execVxor (h : Hdr) (ty : Ty) (dst src : Opnd) (s : State) : Host.Outcome State Fault Refusal :=
  vecTwo (laneInt aluXor) h ty dst src s

/-- `vshl` (R137). -/
def execVshl (h : Hdr) (ty : Ty) (dst src : Opnd) (s : State) : Host.Outcome State Fault Refusal :=
  vecTwo (laneInt aluShl) h ty dst src s

/-- `vshr` (R137). -/
def execVshr (h : Hdr) (ty : Ty) (dst src : Opnd) (s : State) : Host.Outcome State Fault Refusal :=
  vecTwo (laneInt aluVshr) h ty dst src s

/-- `vmov` (R137). -/
def execVmov (h : Hdr) (_ty : Ty) (dst src : Opnd) (s : State) : Host.Outcome State Fault Refusal :=
  vecOne (fun y => (y, 0)) h dst src s

/-- The observation of a vector load's site: whether an element access is long-latency, and the line bits of an address. -/
def vecObs (q : Qual) (x : Addr) (ps : List Piece) (s : State) : WakeObs :=
  .load (ps.any (fun p => s.longLatency p.va q p.loc p.uc)) (wakeLine x)

/-- `vld` (R141). -/
def execVld (h : Hdr) (ty : Ty) (q : Qual) (src : Opnd) (site : BitVec 16) (s : State) :
    Host.Outcome State Fault Refusal :=
  straight h (do
    let th ← getMe
    match src with
    | .mem n m => do
      let x ← vecAddr n m ty opB
      let ps ← locateParts x ⟨true, false⟩ opB (vecParts ty th.vm)
      let s0 ← get
      let v ← loadPieces q opB ps
      acqPart q
      modMe (fun t => { t with va := mergeLanes t.vm t.va (laneOfMem ty v) })
      wakeNote site (vecObs q x ps s0)
    | _ => pure ()) s

/-- The nibbles that a partly active byte of an f4 vector keeps (R142). -/
def keptNibbles (vm : W32) (old : Nat) : Nat :=
  (List.range 32).foldl (fun v i =>
    if !vm.getLsbD i && vm.getLsbD (if i % 2 = 0 then i + 1 else i - 1) then v + rawElem .f4 old i * 16 ^ i else v) 0

/-- The partly active bytes of an f4 vector, which a store reads; none of another type. -/
def partBytes (ty : Ty) (vm : W32) : List (Nat × Nat) :=
  if ty = .f4 then ((List.range 16).filter (fun j => vm.getLsbD (2 * j) != vm.getLsbD (2 * j + 1))).map (fun j => (j, 1)) else []

/-- `va` narrowed to the memory type (R142), with its exceptions; a block is encoded from all lanes. -/
def narrowVec (ty : Ty) (md : Nat → Mode) (th : Thread) : Nat × BitVec 5 :=
  match ty with
  | .pb c =>
    pbEncode (c.toNat + 1) md ((List.range 32).map (fun i =>
      if th.vm.getLsbD i then fmtF32.decode (lane th.va i).toNat else .fin false 0 1))
  | t => packLanes t md (lane th.va) (activeLanes th.vm)

/-- `vst` (R142). -/
def execVst (h : Hdr) (ty : Ty) (q : Qual) (dst : Opnd) (sr : Bool) (s : State) : Host.Outcome State Fault Refusal :=
  straight h (do
    let th ← getMe
    match dst with
    | .mem n m => do
      let x ← vecAddr n m ty opA
      if th.vm = 0 then pure ()
      else do
        let md (i : Nat) : Mode := if sr then .srOf th.a (BitVec.ofNat 64 i) (th.lc.setWidth 64) else .rne
        let (v, e) := narrowVec ty md th
        let (rs, ps) ← locateBoth x opA (partBytes ty th.vm) (vecParts ty (if ty.isPb then 0xFFFFFFFF else th.vm))
        let old ← loadPieces ⟨.plain, .co⟩ opA rs
        relOnce q
        storePieces q (v + (if ty = .f4 then keptNibbles th.vm old else 0)) opA [] ps
        orFstat e
    | _ => pure ()) s

/-- The element addresses of a gather or scatter, with their lanes (R143). -/
def gatherAt (x : Addr) (e : Nat) (th : Thread) : List (Nat × Addr) :=
  (activeLanes th.vm).map (fun i => (i, x + (lane th.va i).signExtend 56 * BitVec.ofNat 56 e))

/-- Every address aligned to e. -/
def alignAll (e : Nat) (op : Word) : List (Nat × Addr) → Exec Unit
  | [] => pure ()
  | (_, x) :: xs => do
    checkAlign x e 0x0C0 op
    alignAll e op xs

/-- Every element translated; the piece of lane i stands at offset i * e. -/
def locateLanes (e : Nat) (nd : Need) (op : Word) (xs : List (Nat × Addr)) : Exec (List Piece) :=
  locateAll nd op (xs.map (fun p => (p.1 * e, e, p.2)))

/-- `vldx` (R143). With no active lane its update's line bits are a free value: R405 takes them from the lowest active lane
(log 69). -/
def execVldx (h : Hdr) (ty : Ty) (n : BitVec 3) (site : BitVec 16) (s : State) : Host.Outcome State Fault Refusal :=
  straight h (do
    let th ← getMe
    let e := tyBytes ty
    let xs := gatherAt (ptrAddr (th.ptr n)) e th
    alignAll e opB xs
    let ps ← locateLanes e ⟨true, false⟩ opB xs
    let s0 ← get
    let v ← loadPieces ⟨.plain, .co⟩ opB ps
    modMe (fun t => { t with va := mergeLanes t.vm t.va (fun i => widenLane ty (rawElem ty v i)) })
    match ps with
    | [] => if site = 0 then pure () else do
      let s ← get
      set { s with tick := s.tick + 1 }
      wakeNote site (.load false ((Config.freeWord s.tick).setWidth 16))
    | p :: _ => wakeNote site (vecObs ⟨.plain, .co⟩ p.va ps s0)) s

/-- `vstx` (R143): in ascending lane order. -/
def execVstx (h : Hdr) (ty : Ty) (n : BitVec 3) (src : Opnd) (s : State) : Host.Outcome State Fault Refusal :=
  straight h (do
    let th ← getMe
    let e := tyBytes ty
    let xs := gatherAt (ptrAddr (th.ptr n)) e th
    alignAll e opA xs
    let ps ← locateLanes e ⟨false, true⟩ opA xs
    let y ← vecSrc src th.vm opB
    let (v, x) := packLanes ty (fun _ => .rne) y (activeLanes th.vm)
    storePieces ⟨.plain, .co⟩ v opA [] ps
    orFstat x) s

/-- `vbc` (R141). With no active lane it still reads its element, and can fault there: the rule reads one element whatever the lanes are
(log 89, DESIGN CHOICE). -/
def execVbc (h : Hdr) (ty : Ty) (src : Opnd) (s : State) : Host.Outcome State Fault Refusal :=
  straight h (do
    let v ← readSrc src (tyBytes ty) opB
    modMe (fun t => { t with va := mergeLanes t.vm t.va (fun _ => widenLane ty (lowOf ty v)) })) s

/-- Whether two lanes compare as the condition asks (R144). -/
def laneCond (ty : Ty) (cond : BitVec 4) (x y : W32) : Bool :=
  if ty = .f32 then fcondHolds cond (Flags.ofCompare {} (fmtF32.decode x.toNat) (fmtF32.decode y.toNat))
  else
    let u := laneVal ty x
    let v := laneVal ty y
    match cond.toNat with
    | 0 => decide (u = v)
    | 1 => decide (u ≠ v)
    | 2 => decide (u < v)
    | 3 => decide (v ≤ u)
    | 4 => decide (u ≤ v)
    | _ => decide (v < u)

/-- A lane mask from a condition on lanes. -/
def maskOfLanes (f : Nat → Bool) : W32 :=
  (List.range 32).foldl (fun v i => if f i then v ||| ((1 : W32) <<< i) else v) 0

/-- `vcmp` (R144). The exceptions are those of lanes active before it (R133). -/
def execVcmp (h : Hdr) (ty : Ty) (cond : BitVec 4) (set : Bool) (s1 s2 : Opnd) (s : State) :
    Host.Outcome State Fault Refusal :=
  straight h (do
    let th ← getMe
    let m : W32 := if set then 0xFFFFFFFF else th.vm
    let x ← vecSrc s1 m opA
    let y ← vecSrc s2 m opB
    let vm := m &&& maskOfLanes (fun i => laneCond ty cond (x i) (y i))
    modMe (fun t => { t with vm := vm, a := vm.setWidth 64, f := { t.f with z := decide (vm = 0), p := decide (vm ≠ 0) } })
    if ty = .f32 then
      orFstat (lanesExc th.vm (fun i => fcmpInvalid cond (fmtF32.decode (x i).toNat) (fmtF32.decode (y i).toNat)))
    else pure ()) s

/-- `vsel` (R145): every lane. -/
def execVsel (h : Hdr) (_ty : Ty) (s1 s2 : Opnd) (s : State) : Host.Outcome State Fault Refusal :=
  straight h (do
    let th ← getMe
    let x ← vecSrc s1 0xFFFFFFFF opA
    let y ← vecSrc s2 0xFFFFFFFF opB
    modMe (fun t => { t with va := vecOf (fun i => if th.vm.getLsbD i then x i else y i) })) s

/-- A lane converted (R146), with its exceptions. -/
def laneConvert (dty sty : Ty) (md : Mode) (y : W32) : W32 × BitVec 5 :=
  let (r, e, _) := convert dty sty md y.toNat
  (if dty.isInt then BitVec.ofNat 32 r else widenLane dty r, e)

/-- `vcvt` (R146). -/
def execVcvt (h : Hdr) (dty : Ty) (dst src : Opnd) (sty : Ty) (rm : Rm) (s : State) :
    Host.Outcome State Fault Refusal :=
  vecOne (laneConvert dty sty (.ofRm rm)) h dst src s

/-- `vperm` (R147). -/
def execVperm (h : Hdr) (src : Opnd) (s : State) : Host.Outcome State Fault Refusal :=
  straight h (do
    let th ← getMe
    let y ← vecSrc src th.vm opB
    modMe (fun t => { t with va := mergeLanes t.vm t.va (fun i => lane th.va ((y i).toNat % 32)) })) s

/-- `vrcp` (R148). -/
def execVrcp (h : Hdr) (dst src : Opnd) (s : State) : Host.Outcome State Fault Refusal := vecOne (laneFun fRcp) h dst src s

/-- `vrsq` (R148). -/
def execVrsq (h : Hdr) (dst src : Opnd) (s : State) : Host.Outcome State Fault Refusal := vecOne (laneFun fRsq) h dst src s

/-- `vexp2` (R148). -/
def execVexp2 (h : Hdr) (dst src : Opnd) (s : State) : Host.Outcome State Fault Refusal :=
  vecOne (laneFun fExp2) h dst src s

/-- `vlog2` (R148). -/
def execVlog2 (h : Hdr) (dst src : Opnd) (s : State) : Host.Outcome State Fault Refusal :=
  vecOne (laneFun fLog2) h dst src s

/-- `vredmax` (R149). -/
def execVredmax (h : Hdr) (ty : Ty) (src : Opnd) (s : State) : Host.Outcome State Fault Refusal :=
  vecReduce aluMax fMaxNum (fun t => intBits t (intMin t)) h ty src s

/-- `vredmin` (R149). -/
def execVredmin (h : Hdr) (ty : Ty) (src : Opnd) (s : State) : Host.Outcome State Fault Refusal :=
  vecReduce aluMin fMinNum (fun t => intBits t (intMax t)) h ty src s

/-- `vxsum` (R150). -/
def execVxsum (h : Hdr) (ty : Ty) (src : Opnd) (fx : Bool) (scale : BitVec 16) (s : State) :
    Host.Outcome State Fault Refusal :=
  straight h (do
    let th ← getMe
    let y ← vecSrc src th.vm opB
    let xs := (activeLanes th.vm).map y
    if ty ≠ .f32 then do
      let v := (xs.map (laneVal ty)).foldl (· + ·) (0 : Int)
      setA (BitVec.ofInt 64 v)
      modFlags (fun f => f.ofAlu 64 { r := intBits .i64 v })
    else
      let e := sumEntry scale.toInt xs
      if fx then do
        let (v, out) := if e.f then (intMin .i64, true) else saturate .i64 e.i.toInt
        setA (BitVec.ofInt 64 v)
        modFlags (fun f => f.ofAlu 64 { r := intBits .i64 v, v := out })
        setRange e.f
      else do
        let (r, x, b) := readEntry .f32 .rne scale.toInt e
        setA (extendTo .f32 r)
        modFlags (fun f => f.ofFloat .f32 r)
        orFstat x
        setRange b) s

end Sys2Proof.Machine
end

