-- ==== Sys2Proof/Machine/Tiles.lean ====
section
/-! DEFINITION. Accumulator tiles and ranked lists: the thread instructions of R340 to R364. -/
namespace Sys2Proof.Machine

/-- The tile is held (0x0F0), and no operation owns it; while one does the thread stalls (R341, R344). -/
def useTile (t : BitVec 4) : Exec Unit := do
  let s ← get
  if !s.holdsTile s.myGrp t.toNat then faultOp 0x0F0
  else if s.tileLocked s.myClus t.toNat then do
    modMe (fun th => { th with locked := some t.toNat })
    waitFor (.lock t.toNat)
  else pure ()

def getTile (t : BitVec 4) : Exec Tile := do
  let s ← get
  pure (s.tile s.myClus t.toNat)

/-- As `getTile`, for an instruction that reads what the tile holds: an uncorrectable error there is 0x380 (R226). -/
def readTile (t : BitVec 4) : Exec Tile := do
  let s ← get
  if s.tileFlawed s.myClus t.toNat then faultOp 0x380 else getTile t

def putTile (t : BitVec 4) (v : Tile) : Exec Unit := modify (fun s => s.stepTile t.toNat v none)

/-- ROW and CG of a position (R352). -/
def posOf (p : PosArg) : Exec (Nat × Nat) := do
  let th ← getMe
  match p with
  | .imm r c => pure (r.toNat, c.toNat)
  | .acc => pure ((th.a.extractLsb' 3 7).toNat, (th.a.extractLsb' 0 3).toNat)

/-- ROW of a list instruction (R352). -/
def rowOf (r : NumArg 7) : Exec Nat := do
  let th ← getMe
  match r with
  | .imm v => pure v.toNat
  | .acc => pure (th.a.extractLsb' 0 7).toNat

/-- A scale from the instruction or `a`; none for `free` and for the query. -/
def scaleOf (sc : ScaleArg) : Exec (Option (BitVec 16)) := do
  let th ← getMe
  match sc with
  | .imm v => pure (some v)
  | .acc => pure (some (th.a.extractLsb' 0 16))
  | .none => pure none

/-- `xclr` (R353). -/
def execXclr (h : Hdr) (tile : BitVec 4) (sc : ScaleArg) (s : State) : Host.Outcome State Fault Refusal :=
  straight h (do
    useTile tile
    let v ← getTile tile
    modify (fun s => { s with flaws := s.flaws.filter (· != tileLoc s.myClus tile.toNat) })
    match ← scaleOf sc with
    | some x => putTile tile { v with entries := [], rows := [], scale := x, dirty := false, inuse := true }
    | none => putTile tile { v with entries := [], rows := [], scale := 0, dirty := false, inuse := false }) s

/-- The row is in sum mode (true) or a ranked list (false), or 0x0F1. -/
def rowMode (t : BitVec 4) (r : Nat) (sum : Bool) : Exec Unit := do
  let s ← get
  if (s.row s.myClus t.toNat r).ranked = !sum then pure () else faultOp 0x0F1

/-- The exact value of a lane at a type (R355). -/
def laneExact (t : Ty) (x : W32) : FVal := if t = .f32 then fmtF32.decode x.toNat else elemVal t x.toNat

/-- `xadd` (R355). -/
def execXadd (h : Hdr) (ty : Ty) (tile : BitVec 4) (pos : PosArg) (src : Opnd) (s : State) :
    Host.Outcome State Fault Refusal :=
  straight h (do
    useTile tile
    let th ← getMe
    let (r, cg) ← posOf pos
    let y ← vecSrc src th.vm opB
    rowMode tile r true
    let v ← readTile tile
    let ls := activeLanes th.vm
    let key (i : Nat) : Nat := 256 * r + 32 * cg + i
    let es := ls.foldl (fun es i => tset es (key i) (contribute v.scale.toInt (tget es {} (key i)) (laneExact ty (y i)))) v.entries
    putTile tile { v with entries := es, dirty := v.dirty || !ls.isEmpty }) s

/-- The read-outs of the active lanes of a row segment (R129, R356): the encoding, its exceptions, the range status. -/
def readLane (v : Tile) (ty : Ty) (md : Mode) (k : Nat) : Nat × BitVec 5 × Bool :=
  readEntry ty md v.scale.toInt (tget v.entries {} k)

/-- What the memory form writes: the packed elements, or a block of 32 entries with inactive lanes as +0. -/
def readSegment (v : Tile) (ty : Ty) (md : Nat → Mode) (key : Nat → Nat) (vm : W32) : Nat × BitVec 5 × Bool :=
  let ls := activeLanes vm
  match ty with
  | .pb c =>
    let e (i : Nat) : Entry := if vm.getLsbD i then tget v.entries {} (key i) else {}
    if ls.any (fun i => (e i).f) then (255, 0, true)
    else
      let (b, x) := pbEncode (c.toNat + 1) md ((List.range 32).map (fun i => entryVal v.scale.toInt (e i)))
      (b, x, false)
  | t =>
    ls.foldl (fun acc i =>
      let (b, x, f) := readLane v t (md i) (key i)
      (acc.1 + b * 2 ^ (t.bits * i), acc.2.1 ||| x, acc.2.2 || f)) (0, 0, false)

/-- What is read of a tile and its statuses, as one number that the thread keeps while it stores it. -/
def packDrawn (r : Nat × BitVec 5 × Bool) : Nat := r.1 * 64 + r.2.1.toNat * 2 + (if r.2.2 then 1 else 0)

def unpackDrawn (n : Nat) : Nat × BitVec 5 × Bool := (n / 64, BitVec.ofNat 5 (n / 2), n % 2 == 1)

/-- A value that is drawn once, in one step, however often the instruction issues. -/
def draw (f : Exec Nat) : Exec Nat := do
  let th ← getMe
  match th.drawn with
  | some n => pure n
  | none => do
    let n ← f
    modMe (fun t => { t with drawn := some n })
    pure n

/-- `xrd` (R356). -/
def execXrd (h : Hdr) (ty : Ty) (dst : Opnd) (tile : BitVec 4) (pos : PosArg) (sr : Bool) (s : State) :
    Host.Outcome State Fault Refusal :=
  straight h (do
    let th ← getMe
    let (r, cg) ← posOf pos
    let key (i : Nat) : Nat := 256 * r + 32 * cg + i
    let md (i : Nat) : Mode := if sr then .srOf th.a (BitVec.ofNat 64 (key i)) (th.lc.setWidth 64) else .rne
    match dst with
    | .mem n m => do
      let x ← vecAddr n m ty opA
      let (rs, ps) ← locateBoth x opA (partBytes ty th.vm) (vecParts ty (if ty.isPb && th.vm ≠ 0 then 0xFFFFFFFF else th.vm))
      let old ← loadPieces ⟨.plain, .co⟩ opA rs
      let d ← draw (do
        useTile tile
        rowMode tile r true
        let v ← readTile tile
        pure (packDrawn (readSegment v ty md key th.vm)))
      let (b, e, f) := unpackDrawn d
      storePieces ⟨.plain, .co⟩ (b + (if ty = .f4 then keptNibbles th.vm old else 0)) opA [] ps
      orFstat e
      setRange f
    | _ => do
      useTile tile
      rowMode tile r true
      let v ← readTile tile
      let out (i : Nat) : Nat × BitVec 5 × Bool := readLane v ty (md i) (key i)
      modMe (fun t => { t with va := mergeLanes t.vm t.va (fun i => BitVec.ofNat 32 (out i).1) })
      orFstat (lanesExc th.vm (fun i => (out i).2.1))
      setRange ((activeLanes th.vm).any (fun i => (out i).2.2))) s

/-- A sum entry at another scale, n higher (R354). -/
def rescale (n : Int) (e : Entry) : Entry :=
  let v := e.i.toInt
  if 0 ≤ n then { e with i := BitVec.ofInt 128 (v / (2 ^ n.toNat : Nat)) }
  else
    let z := v * (2 ^ (-n).toNat : Nat)
    { i := BitVec.ofInt 128 z, f := e.f || decide (z < -(2 ^ 127 : Nat)) || decide (((2 ^ 127 : Nat) : Int) ≤ z) }

/-- The status word of `xscale a, atN` (R354). -/
def State.tileStatus (s : State) (ck t : Nat) : Word :=
  let v := s.tile ck t
  let nrank := ((List.range 128).filter (fun r => (tget v.rows {} r).ranked)).length
  ((0 : BitVec 32) ++ BitVec.ofNat 8 nrank ++ BitVec.ofNat 4 t ++ boolBit v.inuse ++ boolBit v.dirty ++
    boolBit (s.tileLocked ck t) ++ boolBit true ++ v.scale)

/-- `xscale` (R354). -/
def execXscale (p : Pred) (tile : BitVec 4) (sc : ScaleArg) (s : State) : Host.Outcome State Fault Refusal :=
  straightS p (do
    match ← scaleOf sc with
    | none => do
      let s ← get
      let held := s.holdsTile s.myGrp tile.toNat
      setA (if held then s.tileStatus s.myClus tile.toNat else 0)
      modFlags (fun f => { f with z := !held, n := false, c := false, v := false })
    | some x => do
      useTile tile
      let v ← readTile tile
      let n := x.toInt - v.scale.toInt
      let es := v.entries.map (fun e => if (tget v.rows {} (e.1 / 256)).ranked then e else (e.1, rescale n e.2))
      let moved := (v.entries.zip es).any (fun p => p.1.2.i != p.2.2.i)
      putTile tile { v with entries := es, scale := x, inuse := true, dirty := v.dirty || moved }) s

/-- `xrank.init` (R357). -/
def execXrankInit (p : Pred) (tile : BitVec 4) (arg : RankArg) (s : State) : Host.Outcome State Fault Refusal :=
  straightS p (do
    useTile tile
    let th ← getMe
    let (lg, r) : Nat × Nat := match arg with
      | .imm k r => (k.toNat, r.toNat)
      | .acc => ((th.a.extractLsb' 7 3).toNat, (th.a.extractLsb' 0 7).toNat)
    if lg = 6 then faultOp 0x0F3
    else do
      let v ← getTile tile
      let old := tget v.rows {} r
      let new : Row := if lg = 7 then {} else { ranked := true, logk := BitVec.ofNat 3 lg }
      let changed := v.entries.any (fun e => e.1 / 256 == r && e.2 != {}) || (old.ranked && old != new)
      putTile tile { v with
        entries := v.entries.filter (fun e => e.1 / 256 != r)
        rows := tset v.rows r new, inuse := true, dirty := v.dirty || changed }) s

/-- Pairs are presented to a row, with an REF that is merged into it; DIRTY where the list or REF has changed. -/
def putRow (t : BitVec 4) (r : Nat) (ref : Bool) (ps : List (W32 × W32)) : Exec Unit := do
  let v ← readTile t
  let old := tget v.rows {} r
  let new := ps.foldl Row.present { old with ref := old.ref || ref }
  modify (fun s => s.stepTile t.toNat { v with rows := tset v.rows r new, dirty := v.dirty || old != new } (some (r, ps)))

/-- `xrank.ins` (R358). -/
def execXrankIns (h : Hdr) (tile : BitVec 4) (row : NumArg 7) (src : Opnd) (s : State) : Host.Outcome State Fault Refusal :=
  straight h (do
    useTile tile
    let th ← getMe
    let r ← rowOf row
    let idx ← (match src with
      | .mem n m => vecSrc (.mem n m) th.vm opB
      | _ => pure (fun i => th.a.setWidth 32 + BitVec.ofNat 32 i))
    rowMode tile r false
    putRow tile r false ((activeLanes th.vm).map (fun i => pairOf (lane th.va i) (idx i)))) s

/-- The address of a list record (R359, R360): e = z = 264. -/
def listAddr (n : BitVec 3) (m : MemMode) (op : Word) : Exec Addr := do
  let x ← specAddr n m 264 264
  checkAlign x 8 0x0C0 op
  ringFootprint x 264 op
  pure x

/-- The 33 words of a record. -/
def listParts : List (Nat × Nat) := (List.range 33).map (fun i => (8 * i, 8))

/-- The header of a row's record (R359). -/
def listHeader (r : Row) : Word :=
  ((0 : BitVec 47) ++ boolBit r.ref ++ (0 : BitVec 5) ++ r.logk ++ (0 : BitVec 2) ++ BitVec.ofNat 6 r.pairs.length)

/-- A row's record: the header, the pairs in rank order, zeros. -/
def listRecord (r : Row) : Nat :=
  ((List.range r.pairs.length).zip r.pairs).foldl (fun acc p => acc + (p.2.1 ++ p.2.2 : Word).toNat * 2 ^ (64 * (p.1 + 1)))
    (listHeader r).toNat

/-- `xrank.merge` (R360). -/
def execXrankMerge (h : Hdr) (tile : BitVec 4) (row : NumArg 7) (src : Opnd) (s : State) :
    Host.Outcome State Fault Refusal :=
  straight h (do
    useTile tile
    let r ← rowOf row
    match src with
    | .mem n m => do
      let x ← listAddr n m opB
      let ps ← locateParts x ⟨true, false⟩ opB listParts
      let b ← loadPieces ⟨.plain, .co⟩ opB ps
      let word (i : Nat) : Word := BitVec.ofNat 64 (b / 2 ^ (64 * i))
      let hd := word 0
      let lg := (hd.extractLsb' 8 3).toNat
      let cnt := (hd.extractLsb' 0 6).toNat
      rowMode tile r false
      if hd.extractLsb' 17 47 ≠ 0 || hd.extractLsb' 11 5 ≠ 0 || hd.extractLsb' 6 2 ≠ 0 || 5 < lg || 2 ^ lg < cnt then
        faultOp 0x0F2
      else
        putRow tile r (hd.getLsbD 16)
          ((List.range cnt).map (fun j => ((word (j + 1)).extractLsb' 32 32, (word (j + 1)).extractLsb' 0 32)))
    | _ => pure ()) s

/-- `xrank.rd` (R359). -/
def execXrankRd (h : Hdr) (dst : Opnd) (tile : BitVec 4) (row : NumArg 7) (s : State) : Host.Outcome State Fault Refusal :=
  straight h (do
    let r ← rowOf row
    let ps ← (match dst with
      | .mem n m => do
        let x ← listAddr n m opA
        locateParts x ⟨false, true⟩ opA listParts
      | _ => pure [])
    let b ← draw (do
      useTile tile
      rowMode tile r false
      let v ← readTile tile
      pure (listRecord (tget v.rows {} r)))
    let hd : Word := BitVec.ofNat 64 b
    match dst with
    | .mem _ _ => storePieces ⟨.plain, .co⟩ b opA [] ps
    | _ => setA hd
    let full := decide ((hd.extractLsb' 0 6).toNat < 2 ^ (hd.extractLsb' 8 3).toNat)
    modFlags (fun f => { f with z := full, v := hd.getLsbD 16, n := false, c := false })) s

/-- `xthr` (R361). -/
def execXthr (p : Pred) (sel : ThrSel) (s : State) : Host.Outcome State Fault Refusal :=
  straightS p (do
    let th ← getMe
    match sel with
    | .off => writeThsel 0 none 0
    | .row t r => writeThsel ((1 : BitVec 1) ++ t ++ r) none 0
    | .acc t => writeThsel ((1 : BitVec 1) ++ t ++ th.a.extractLsb' 0 7) none 0) s

end Sys2Proof.Machine
end

