-- ==== Sys2Proof/Machine/Dispatch.lean ====
section
/-! DEFINITION. The dispatcher: one arm per instruction and per step, each a direct call of its meaning. -/
namespace Sys2Proof.Machine

/-- The effect of an instruction, or of an internal or host step. -/
def exec (i : Instr) (s : State) : Host.Outcome State Fault Refusal :=
  match i with
  | .nop form => Sys2Proof.Machine.execNop form s
  | .yield p => Sys2Proof.Machine.execYield p s
  | .halt p => Sys2Proof.Machine.execHalt p s
  | .enq h ty q src => Sys2Proof.Machine.execEnq h ty q src s
  | .deq h ty dst q => Sys2Proof.Machine.execDeq h ty dst q s
  | .qlink p q bank => Sys2Proof.Machine.execQlink p q bank s
  | .fork h disp ctr site => Sys2Proof.Machine.execFork h disp ctr site s
  | .join h ctr disp site => Sys2Proof.Machine.execJoin h ctr disp site s
  | .tow n => Sys2Proof.Machine.execTow n s
  | .cast => Sys2Proof.Machine.execCast s
  | .br h back disp site => Sys2Proof.Machine.execBr h back disp site s
  | .bc h cond back disp site => Sys2Proof.Machine.execBc h cond back disp site s
  | .call h tgt link => Sys2Proof.Machine.execCall h tgt link s
  | .ret p link => Sys2Proof.Machine.execRet p link s
  | .jmp h tgt => Sys2Proof.Machine.execJmp h tgt s
  | .loop h back disp site => Sys2Proof.Machine.execLoop h back disp site s
  | .ldlc h ty src => Sys2Proof.Machine.execLdlc h ty src s
  | .lda h ty q src site => Sys2Proof.Machine.execLda h ty q src site s
  | .sta h ty q dst src => Sys2Proof.Machine.execSta h ty q dst src s
  | .add h ty dst src => Sys2Proof.Machine.execAdd h ty dst src s
  | .sub h ty dst src => Sys2Proof.Machine.execSub h ty dst src s
  | .mul h ty dst src => Sys2Proof.Machine.execMul h ty dst src s
  | .mulh h ty dst src => Sys2Proof.Machine.execMulh h ty dst src s
  | .div h ty dst src => Sys2Proof.Machine.execDiv h ty dst src s
  | .rem h ty dst src => Sys2Proof.Machine.execRem h ty dst src s
  | .and h ty dst src => Sys2Proof.Machine.execAnd h ty dst src s
  | .or h ty dst src => Sys2Proof.Machine.execOr h ty dst src s
  | .xor h ty dst src => Sys2Proof.Machine.execXor h ty dst src s
  | .shl h ty dst src => Sys2Proof.Machine.execShl h ty dst src s
  | .shr h ty dst src => Sys2Proof.Machine.execShr h ty dst src s
  | .sar h ty dst src => Sys2Proof.Machine.execSar h ty dst src s
  | .min h ty dst src => Sys2Proof.Machine.execMin h ty dst src s
  | .max h ty dst src => Sys2Proof.Machine.execMax h ty dst src s
  | .neg h ty dst src => Sys2Proof.Machine.execNeg h ty dst src s
  | .not h ty dst src => Sys2Proof.Machine.execNot h ty dst src s
  | .clz h ty dst src => Sys2Proof.Machine.execClz h ty dst src s
  | .popc h ty dst src => Sys2Proof.Machine.execPopc h ty dst src s
  | .cmp h ty cond s1 s2 => Sys2Proof.Machine.execCmp h ty cond s1 s2 s
  | .tst h ty cond s1 s2 => Sys2Proof.Machine.execTst h ty cond s1 s2 s
  | .sel h ty s1 s2 => Sys2Proof.Machine.execSel h ty s1 s2 s
  | .ext h ty src => Sys2Proof.Machine.execExt h ty src s
  | .fadd h ty dst src => Sys2Proof.Machine.execFadd h ty dst src s
  | .fsub h ty dst src => Sys2Proof.Machine.execFsub h ty dst src s
  | .fmul h ty dst src => Sys2Proof.Machine.execFmul h ty dst src s
  | .fdiv h ty dst src => Sys2Proof.Machine.execFdiv h ty dst src s
  | .fsqrt h ty dst src => Sys2Proof.Machine.execFsqrt h ty dst src s
  | .ffma h ty s1 s2 => Sys2Proof.Machine.execFfma h ty s1 s2 s
  | .fmin h ty dst src => Sys2Proof.Machine.execFmin h ty dst src s
  | .fmax h ty dst src => Sys2Proof.Machine.execFmax h ty dst src s
  | .fcmp h ty cond s1 s2 => Sys2Proof.Machine.execFcmp h ty cond s1 s2 s
  | .fcvt h dty dst src sty rm => Sys2Proof.Machine.execFcvt h dty dst src sty rm s
  | .lp h n src => Sys2Proof.Machine.execLp h n src s
  | .stp h dst n => Sys2Proof.Machine.execStp h dst n s
  | .padd h n src => Sys2Proof.Machine.execPadd h n src s
  | .pset h n src => Sys2Proof.Machine.execPset h n src s
  | .pmov p n m => Sys2Proof.Machine.execPmov p n m s
  | .vadd h ty dst src => Sys2Proof.Machine.execVadd h ty dst src s
  | .vsub h ty dst src => Sys2Proof.Machine.execVsub h ty dst src s
  | .vmul h ty dst src => Sys2Proof.Machine.execVmul h ty dst src s
  | .vfma h s1 s2 => Sys2Proof.Machine.execVfma h s1 s2 s
  | .vmin h ty dst src => Sys2Proof.Machine.execVmin h ty dst src s
  | .vmax h ty dst src => Sys2Proof.Machine.execVmax h ty dst src s
  | .vabs h ty dst src => Sys2Proof.Machine.execVabs h ty dst src s
  | .vneg h ty dst src => Sys2Proof.Machine.execVneg h ty dst src s
  | .vand h ty dst src => Sys2Proof.Machine.execVand h ty dst src s
  | .vor h ty dst src => Sys2Proof.Machine.execVor h ty dst src s
  | .vxor h ty dst src => Sys2Proof.Machine.execVxor h ty dst src s
  | .vshl h ty dst src => Sys2Proof.Machine.execVshl h ty dst src s
  | .vshr h ty dst src => Sys2Proof.Machine.execVshr h ty dst src s
  | .vmov h ty dst src => Sys2Proof.Machine.execVmov h ty dst src s
  | .vld h ty q src site => Sys2Proof.Machine.execVld h ty q src site s
  | .vst h ty q dst sr => Sys2Proof.Machine.execVst h ty q dst sr s
  | .vldx h ty n site => Sys2Proof.Machine.execVldx h ty n site s
  | .vstx h ty n src => Sys2Proof.Machine.execVstx h ty n src s
  | .vbc h ty src => Sys2Proof.Machine.execVbc h ty src s
  | .vcmp h ty cond set s1 s2 => Sys2Proof.Machine.execVcmp h ty cond set s1 s2 s
  | .vsel h ty s1 s2 => Sys2Proof.Machine.execVsel h ty s1 s2 s
  | .vcvt h dty dst src sty rm => Sys2Proof.Machine.execVcvt h dty dst src sty rm s
  | .vperm h src => Sys2Proof.Machine.execVperm h src s
  | .vrcp h dst src => Sys2Proof.Machine.execVrcp h dst src s
  | .vrsq h dst src => Sys2Proof.Machine.execVrsq h dst src s
  | .vexp2 h dst src => Sys2Proof.Machine.execVexp2 h dst src s
  | .vlog2 h dst src => Sys2Proof.Machine.execVlog2 h dst src s
  | .vredmax h ty src => Sys2Proof.Machine.execVredmax h ty src s
  | .vredmin h ty src => Sys2Proof.Machine.execVredmin h ty src s
  | .vxsum h ty src fx scale => Sys2Proof.Machine.execVxsum h ty src fx scale s
  | .pf h tgt r => Sys2Proof.Machine.execPf h tgt r s
  | .prefetchLineLookup core => Sys2Proof.Machine.execPrefetchLineLookup core s
  | .inv h tgt r => Sys2Proof.Machine.execInv h tgt r s
  | .wbk h tgt r => Sys2Proof.Machine.execWbk h tgt r s
  | .bank h hn arg z => Sys2Proof.Machine.execBank h hn arg z s
  | .bankSwitchComplete cluster bank => Sys2Proof.Machine.execBankSwitchComplete cluster bank s
  | .bankq p j => Sys2Proof.Machine.execBankq p j s
  | .tlbinv h r => Sys2Proof.Machine.execTlbinv h r s
  | .walkStart package die => Sys2Proof.Machine.execWalkStart package die s
  | .walkComplete cluster root key => Sys2Proof.Machine.execWalkComplete cluster root key s
  | .fence p q => Sys2Proof.Machine.execFence p q s
  | .ifence p => Sys2Proof.Machine.execIfence p s
  | .ldq h q src => Sys2Proof.Machine.execLdq h q src s
  | .stq h q dst => Sys2Proof.Machine.execStq h q dst s
  | .amoAdd h ty q tgt src => Sys2Proof.Machine.execAmoAdd h ty q tgt src s
  | .amoAnd h ty q tgt src => Sys2Proof.Machine.execAmoAnd h ty q tgt src s
  | .amoOr h ty q tgt src => Sys2Proof.Machine.execAmoOr h ty q tgt src s
  | .amoXor h ty q tgt src => Sys2Proof.Machine.execAmoXor h ty q tgt src s
  | .amoMin h ty q tgt src => Sys2Proof.Machine.execAmoMin h ty q tgt src s
  | .amoMax h ty q tgt src => Sys2Proof.Machine.execAmoMax h ty q tgt src s
  | .amoSwap h ty q tgt src => Sys2Proof.Machine.execAmoSwap h ty q tgt src s
  | .uadd h ty tgt src => Sys2Proof.Machine.execUadd h ty tgt src s
  | .cas64 h q tgt src => Sys2Proof.Machine.execCas64 h q tgt src s
  | .cas128 h q tgt => Sys2Proof.Machine.execCas128 h q tgt s
  | .amoNib h q tgt src => Sys2Proof.Machine.execAmoNib h q tgt src s
  | .l1Drop core line => Sys2Proof.Machine.execL1Drop core line s
  | .nearCacheAccept core => Sys2Proof.Machine.execNearCacheAccept core s
  | .nearCacheRead core => Sys2Proof.Machine.execNearCacheRead core s
  | .nearCacheWriteback cluster line => Sys2Proof.Machine.execNearCacheWriteback cluster line s
  | .nearCacheDrop cluster loc => Sys2Proof.Machine.execNearCacheDrop cluster loc s
  | .send src => Sys2Proof.Machine.execSend src s
  | .deliver src home => Sys2Proof.Machine.execDeliver src home s
  | .strip src home => Sys2Proof.Machine.execStrip src home s
  | .merge core line => Sys2Proof.Machine.execMerge core line s
  | .hostWrite package berth va bytes kind => Sys2Proof.Machine.execHostWrite package berth va bytes kind s
  | .hostRead package berth va len => Sys2Proof.Machine.execHostRead package berth va len s
  | .fcopy h hn req follow => Sys2Proof.Machine.execFcopy h hn req follow s
  | .fcopyTry h hn req follow => Sys2Proof.Machine.execFcopyTry h hn req follow s
  | .fcopyOn h hn req trig follow => Sys2Proof.Machine.execFcopyOn h hn req trig follow s
  | .hwait p on => Sys2Proof.Machine.execHwait p on s
  | .htest p hn tok => Sys2Proof.Machine.execHtest p hn tok s
  | .hcancel p hn => Sys2Proof.Machine.execHcancel p hn s
  | .fmark p ch => Sys2Proof.Machine.execFmark p ch s
  | .landInit h word value => Sys2Proof.Machine.execLandInit h word value s
  | .landWait h word gen => Sys2Proof.Machine.execLandWait h word gen s
  | .shapeFence p => Sys2Proof.Machine.execShapeFence p s
  | .ferryTakeRequest cluster => Sys2Proof.Machine.execFerryTakeRequest cluster s
  | .ferryBeat cluster chan tid beat => Sys2Proof.Machine.execFerryBeat cluster chan tid beat s
  | .ferryBeatCount cluster chan tid beat => Sys2Proof.Machine.execFerryBeatCount cluster chan tid beat s
  | .followOnIssue cluster chan tid => Sys2Proof.Machine.execFollowOnIssue cluster chan tid s
  | .beatHoldTimeout cluster chan tid beat => Sys2Proof.Machine.execBeatHoldTimeout cluster chan tid beat s
  | .remoteTimeout who performed => Sys2Proof.Machine.execRemoteTimeout who performed s
  | .ringInit h ring src => Sys2Proof.Machine.execRingInit h ring src s
  | .ringArrive p ring nw => Sys2Proof.Machine.execRingArrive p ring nw s
  | .ringStat p ring => Sys2Proof.Machine.execRingStat p ring s
  | .barInit p bar src => Sys2Proof.Machine.execBarInit p bar src s
  | .barArrive p bar => Sys2Proof.Machine.execBarArrive p bar s
  | .barWait p bar src => Sys2Proof.Machine.execBarWait p bar src s
  | .podbar h mode site => Sys2Proof.Machine.execPodbar h mode site s
  | .podBarrierComplete grid => Sys2Proof.Machine.execPodBarrierComplete grid s
  | .mw h hn rec => Sys2Proof.Machine.execMw h hn rec s
  | .mx h hn rec => Sys2Proof.Machine.execMx h hn rec s
  | .mxg p hn rec table => Sys2Proof.Machine.execMxg p hn rec table s
  | .mxgAdd p arr run => Sys2Proof.Machine.execMxgAdd p arr run s
  | .mxgClose p arr => Sys2Proof.Machine.execMxgClose p arr s
  | .mchain p hn cfg => Sys2Proof.Machine.execMchain p hn cfg s
  | .mchainLink cluster first => Sys2Proof.Machine.execMchainLink cluster first s
  | .mq p arr hi => Sys2Proof.Machine.execMq p arr hi s
  | .mstat p arr => Sys2Proof.Machine.execMstat p arr s
  | .matrixPassBoundary cluster head => Sys2Proof.Machine.execMatrixPassBoundary cluster head s
  | .matrixOpComplete cluster head => Sys2Proof.Machine.execMatrixOpComplete cluster head s
  | .pairMatch cluster => Sys2Proof.Machine.execPairMatch cluster s
  | .pairingTimeout cluster head => Sys2Proof.Machine.execPairingTimeout cluster head s
  | .mxgCloseTimeout cluster head => Sys2Proof.Machine.execMxgCloseTimeout cluster head s
  | .xclr h tile sc => Sys2Proof.Machine.execXclr h tile sc s
  | .xadd h ty tile pos src => Sys2Proof.Machine.execXadd h ty tile pos src s
  | .xrd h ty dst tile pos sr => Sys2Proof.Machine.execXrd h ty dst tile pos sr s
  | .xscale p tile sc => Sys2Proof.Machine.execXscale p tile sc s
  | .xrankInit p tile arg => Sys2Proof.Machine.execXrankInit p tile arg s
  | .xrankIns h tile row src => Sys2Proof.Machine.execXrankIns h tile row src s
  | .xrankMerge h tile row src => Sys2Proof.Machine.execXrankMerge h tile row src s
  | .xrankRd h dst tile row => Sys2Proof.Machine.execXrankRd h dst tile row s
  | .xthr p sel => Sys2Proof.Machine.execXthr p sel s
  | .mfPatch h mf word src => Sys2Proof.Machine.execMfPatch h mf word src s
  | .mfArm p mf off => Sys2Proof.Machine.execMfArm p mf off s
  | .launch h mf qov q => Sys2Proof.Machine.execLaunch h mf qov q s
  | .launchInd h mf cnt => Sys2Proof.Machine.execLaunchInd h mf cnt s
  | .launchTimeout thread ordered => Sys2Proof.Machine.execLaunchTimeout thread ordered s
  | .gcancel p => Sys2Proof.Machine.execGcancel p s
  | .gabort p => Sys2Proof.Machine.execGabort p s
  | .gstat p own sel => Sys2Proof.Machine.execGstat p own sel s
  | .launchOrder head => Sys2Proof.Machine.execLaunchOrder head s
  | .dependenceSatisfied grid => Sys2Proof.Machine.execDependenceSatisfied grid s
  | .indirectCountRead grid => Sys2Proof.Machine.execIndirectCountRead grid s
  | .dealingStart grid => Sys2Proof.Machine.execDealingStart grid s
  | .dealRound grid => Sys2Proof.Machine.execDealRound grid s
  | .dealReclaim grid => Sys2Proof.Machine.execDealReclaim grid s
  | .groupPlace package part => Sys2Proof.Machine.execGroupPlace package part s
  | .forkSteal thread => Sys2Proof.Machine.execForkSteal thread s
  | .groupRetire group => Sys2Proof.Machine.execGroupRetire group s
  | .faultReportArrival index => Sys2Proof.Machine.execFaultReportArrival index s
  | .gridComplete grid => Sys2Proof.Machine.execGridComplete grid s
  | .gridAbortDelivery grid package => Sys2Proof.Machine.execGridAbortDelivery grid package s
  | .gridAdrift grid => Sys2Proof.Machine.execGridAdrift grid s
  | .preemption group => Sys2Proof.Machine.execPreemption group s
  | .drainLimitExpiry group => Sys2Proof.Machine.execDrainLimitExpiry group s
  | .groupRestore group cluster => Sys2Proof.Machine.execGroupRestore group cluster s
  | .wsel p slot nvM1 disp => Sys2Proof.Machine.execWsel p slot nvM1 disp s
  | .wbr p slot thr disp => Sys2Proof.Machine.execWbr p slot thr disp s
  | .wpf p slot tgt n m unit => Sys2Proof.Machine.execWpf p slot tgt n m unit s
  | .wunr p ty src w slot umax => Sys2Proof.Machine.execWunr p ty src w slot umax s
  | .wrd p slot => Sys2Proof.Machine.execWrd p slot s
  | .wnote p ty kind src slot => Sys2Proof.Machine.execWnote p ty kind src slot s
  | .wakeUpdatePerform cluster => Sys2Proof.Machine.execWakeUpdatePerform cluster s
  | .wakeDropFlush cluster copy => Sys2Proof.Machine.execWakeDropFlush cluster copy s
  | .wakeReadFill thread => Sys2Proof.Machine.execWakeReadFill thread s
  | .trap p n => Sys2Proof.Machine.execTrap p n s
  | .eret p => Sys2Proof.Machine.execEret p s
  | .rdsr p dst num => Sys2Proof.Machine.execRdsr p dst num s
  | .wrsr p num src => Sys2Proof.Machine.execWrsr p num src s
  | .crtailDoorbell package fn tail hostWrites => Sys2Proof.Machine.execCrtailDoorbell package fn tail hostWrites s
  | .erheadWrite package fn head => Sys2Proof.Machine.execErheadWrite package fn head s
  | .bar0RegisterWrite package fn offset value => Sys2Proof.Machine.execBar0RegisterWrite package fn offset value s
  | .identify c buffer => Sys2Proof.Machine.execIdentify c buffer s
  | .attest c nonce buffer => Sys2Proof.Machine.execAttest c nonce buffer s
  | .partCreate c slice => Sys2Proof.Machine.execPartCreate c slice s
  | .partDestroy c number => Sys2Proof.Machine.execPartDestroy c number s
  | .berthBind c berth part region trust cls => Sys2Proof.Machine.execBerthBind c berth part region trust cls s
  | .setLimits c part drain delay => Sys2Proof.Machine.execSetLimits c part drain delay s
  | .fabricConfig c arg => Sys2Proof.Machine.execFabricConfig c arg s
  | .regionWrite c rcb => Sys2Proof.Machine.execRegionWrite c rcb s
  | .regionRemove c region => Sys2Proof.Machine.execRegionRemove c region s
  | .map c req => Sys2Proof.Machine.execMap c req s
  | .unmap c va pages keepRd keepWr => Sys2Proof.Machine.execUnmap c va pages keepRd keepWr s
  | .mfBuild c words => Sys2Proof.Machine.execMfBuild c words s
  | .mfRemove c mf => Sys2Proof.Machine.execMfRemove c mf s
  | .launchCommand c mf => Sys2Proof.Machine.execLaunchCommand c mf s
  | .cancel c grid => Sys2Proof.Machine.execCancel c grid s
  | .imageLoad c address length => Sys2Proof.Machine.execImageLoad c address length s
  | .imageUnload c handle => Sys2Proof.Machine.execImageUnload c handle s
  | .copy c toDevice host va len => Sys2Proof.Machine.execCopy c toDevice host va len s
  | .deckLoad c address length => Sys2Proof.Machine.execDeckLoad c address length s
  | .unknownCommand c opc => Sys2Proof.Machine.execUnknownCommand c opc s
  | .frameFree part frame => Sys2Proof.Machine.execFrameFree part frame s
  | .errDomain part region cause => Sys2Proof.Machine.execErrDomain part region cause s
  | .functionLevelReset package berth => Sys2Proof.Machine.execFunctionLevelReset package berth s
  | .powerOn package => Sys2Proof.Machine.execPowerOn package s
  | .packageReset package => Sys2Proof.Machine.execPackageReset package s
  | .trainingEnd package => Sys2Proof.Machine.execTrainingEnd package s
  | .powerSample package => Sys2Proof.Machine.execPowerSample package s
  | .thermalTrip package => Sys2Proof.Machine.execThermalTrip package s
  | .pageRetire package frame => Sys2Proof.Machine.execPageRetire package frame s
  | .deckWatchdog package => Sys2Proof.Machine.execDeckWatchdog package s
  | .deckHint package waiting victim => Sys2Proof.Machine.execDeckHint package waiting victim s
  | .pldmMonitoring package sensor => Sys2Proof.Machine.execPldmMonitoring package sensor s
  | .pldmFirmwareUpdate package deck bytes => Sys2Proof.Machine.execPldmFirmwareUpdate package deck bytes s

end Sys2Proof.Machine
end

