-- ==== Sys2Proof/Machine/Turn.lean ====
section
/-! DEFINITION. Who takes the next step (log 2), and the fetch of a thread's instruction (R19 to R21, R219, R222). -/
namespace Sys2Proof.Machine

/-- Whether a row of the opcode table is an internal or host step, which no thread fetches. -/
def isEvent (i : Instr) : Bool :=
  match i with
  | .prefetchLineLookup _ | .bankSwitchComplete _ _ | .walkStart _ _ | .walkComplete _ _ _ | .l1Drop _ _
  | .nearCacheAccept _ | .nearCacheRead _ | .nearCacheWriteback _ _ | .nearCacheDrop _ _ | .send _ | .deliver _ _
  | .strip _ _ | .merge _ _ | .hostWrite _ _ _ _ _ | .hostRead _ _ _ _ | .ferryTakeRequest _ | .ferryBeat _ _ _ _
  | .ferryBeatCount _ _ _ _ | .followOnIssue _ _ _ | .beatHoldTimeout _ _ _ _ | .remoteTimeout _ _
  | .podBarrierComplete _ | .mchainLink _ _ | .matrixPassBoundary _ _ | .matrixOpComplete _ _ | .pairMatch _
  | .pairingTimeout _ _ | .mxgCloseTimeout _ _ | .launchTimeout _ _ | .launchOrder _ | .dependenceSatisfied _
  | .indirectCountRead _ | .dealingStart _ | .dealRound _ | .dealReclaim _ | .groupPlace _ _ | .forkSteal _
  | .groupRetire _ | .faultReportArrival _ | .gridComplete _ | .gridAbortDelivery _ _ | .gridAdrift _
  | .preemption _ | .drainLimitExpiry _ | .groupRestore _ _ | .wakeUpdatePerform _ | .wakeDropFlush _ _
  | .wakeReadFill _ | .crtailDoorbell _ _ _ _ | .erheadWrite _ _ _ | .bar0RegisterWrite _ _ _ _ | .identify _ _
  | .attest _ _ _ | .partCreate _ _ | .partDestroy _ _ | .berthBind _ _ _ _ _ _ | .setLimits _ _ _ _
  | .fabricConfig _ _ | .regionWrite _ _ | .regionRemove _ _ | .map _ _ | .unmap _ _ _ _ _ | .mfBuild _ _
  | .mfRemove _ _ | .launchCommand _ _ | .cancel _ _ | .imageLoad _ _ _ | .imageUnload _ _ | .copy _ _ _ _ _
  | .deckLoad _ _ _ | .unknownCommand _ _ | .frameFree _ _ | .errDomain _ _ _ | .functionLevelReset _ _
  | .powerOn _ | .packageReset _ | .trainingEnd _ | .powerSample _ | .thermalTrip _ | .pageRetire _ _
  | .deckWatchdog _ | .deckHint _ _ _ | .pldmMonitoring _ _ | .pldmFirmwareUpdate _ _ _ => true
  | _ => false


/-- Whether a thread is in the middle of its instruction, or its tow is. -/
def State.midway (s : State) (k : Nat) : Bool :=
  let t := s.thr k
  !t.got.isEmpty || t.sent.isSome || t.drawn.isSome || t.freed ||
    (match s.towOf k with
      | some w => !w.done.isEmpty || w.begun
      | none => false)

/-- Whether the group of a thread lets it issue: it is placed; while it is being saved, instructions under way complete
(R234). -/
def State.groupIssues (s : State) (k : Nat) : Bool :=
  let g := s.grp ((s.thr k).group.getD 0)
  g.st == .placed || (g.st == .saving && s.midway k)

/-- Whether a thread may issue: it runs, it is not moored, a `yield` does not hold it back (R51, R58), and in a running
tow it is its turn (R71). A stalled thread issues its instruction again. -/
def State.canIssue (s : State) (k : Nat) : Bool :=
  let t := s.thr k
  t.live && s.groupIssues k &&
    (match t.wait with
      | .moored _ _ _ _ _ => false
      | _ => true) &&
    (match t.yielding with
      | some (ks, e) => ks.isEmpty || decide (e ≤ s.now)
      | none => true) &&
    (match s.towOf k with
      | some w => w.frozen.isSome || (!w.done.contains k && (w.tug == k || w.begun))
      | none => true)

/-- Without an agenda the threads take turns, in key order after the last one (log 2). -/
def State.defaultThread (s : State) : Option Nat :=
  let ks := (s.threads.map (·.1)).filter (fun k => s.canIssue k)
  let low (xs : List Nat) : Option Nat := xs.foldl (fun m x => match m with | none => some x | some y => some (min x y)) none
  match low (ks.filter (fun k => decide (s.cur < k))) with
  | some k => some k
  | none => low ks

/-- A thread has issued: no `yield` of its core waits for it (R58). -/
def State.noteIssue (s : State) (k : Nat) : State :=
  { s with
    threads := s.threads.map (fun e =>
      match e.2.yielding with
      | some (ks, c) => if coreOf e.1 == coreOf k then (e.1, { e.2 with yielding := some (ks.filter (· != k), c) }) else e
      | none => e) }

/-- The address of the fetch block of an address (R19). -/
def blockOf (pc : Addr) : Addr := pc - BitVec.ofNat 56 (pc.toNat % 32)

/-- The bytes of a block from an address on, at most 16. -/
def blockFrom (block : List Byte) (pc : Addr) : List Byte := (block.drop (pc.toNat % 32)).take 16

/-- Whose fetch buffer an instruction comes from: in a running tow the tug's (R71). -/
def State.fetcher (s : State) (k : Nat) : Nat :=
  match s.towOf k with
  | some w => if w.frozen.isNone then w.tug else k
  | none => k

/-- A line as the L1 keeps it. -/
def State.lineAt (s : State) (line : Nat) : Line := BitVec.ofNat 1024 (leVal (memBytes s.mem (line * 128) 128))

/-- The fetch block of an address whose bytes begin at a location: the buffer's, else from the code line that the core's L1 holds or
fetches (R21), with the state that buffers it; `none` for an uncorrectable error in a line that is fetched (R226). -/
def State.fetchBlock (s : State) (k : Nat) (pc : Addr) (loc : Nat) : Option (List Byte × State) :=
  let read (l : Line) (s : State) : List Byte × State :=
    let bs := lineBytes l (loc % 128 - loc % 32) 32
    (bs, s.modThr k (fun t => { t with block := some (blockOf pc, bs) }))
  match (s.thr (s.fetcher k)).block with
  | some (b, bs) => if b = blockOf pc then some (bs, s.modThr k (fun t => { t with block := some (b, bs) })) else line read
  | none => line read
where
  line (read : Line → State → List Byte × State) : Option (List Byte × State) :=
    match (s.core (coreOf k)).codeLines.find? (fun e => e.1 == lineOf loc) with
    | some e => some (read e.2 s)
    | none =>
      if s.flaws.any (fun f => lineOf f == lineOf loc) then none
      else
        let l := s.lineAt (lineOf loc)
        some (read l (s.modCore (coreOf k) (fun c => { c with codeLines := tset c.codeLines (lineOf loc) l })))

/-- The tug of a running tow issues: its followers issue the same instruction (R71). -/
def State.towBegins (s : State) (k : Nat) : State :=
  match s.towOf k with
  | some w => if w.frozen.isNone && w.tug == k then s.setTow { w with begun := true } else s
  | none => s

/-- What a turn comes to before the instruction's own effect. -/
inductive Ready where
  | stop (o : Host.Outcome State Fault Refusal)
  | run (i : Instr) (s : State)

/-- A thread's turn: the instruction at its pc. A platform error in the code line comes before a page that is not mapped
executable (R219). -/
def State.fetch (s : State) (k : Nat) (eager : Bool) : Ready :=
  let t := s.thr k
  let g := t.group.getD 0
  let s := { (s.noteIssue k).towBegins k with cur := k, eager := eager, cursor := 0 }
  match s.codeAt g t.pc with
  | none => .stop (.next (s.takeTrap k 0x107 0 (some t.pc) (some (t.pc.setWidth 64)) 0x80))
  | some m =>
    match s.fetchBlock k t.pc (m.frame + (t.pc.toNat - m.va)) with
    | none => .stop (.next (s.takeTrap k 0x381 3 (some t.pc) none 0x80))
    | some (b, s) =>
      match decode (blockFrom b t.pc) with
      | .error _ => .stop (.fault (.nonInstruction k))
      | .ok (i, _) => .run i s

/-- A link of a list of links, in either direction, there or not. -/
def setLink (ls : List (Nat × Nat)) (a b : Nat) (there : Bool) : List (Nat × Nat) :=
  let rest := ls.filter (fun e => e != (a, b) && e != (b, a))
  if there then (a, b) :: rest else rest

/-- A line's writeback or merge has met an uncorrectable error (R226); where its group is there no more, no thread can be told (R441). -/
def State.poisonLine (s : State) (line : Nat) (group : Option Nat) : State :=
  let s := { s with poison := tset s.poison line (BitVec.allOnes 128) }
  match group with
  | some g => if (s.grp g).present then s else s.untell g 0x382
  | none => s

/-- A turn of the agenda. One that is not enabled has no effect (log 3). -/
def State.takeTurn (s : State) (t : Turn) : Ready :=
  match t with
  | .thread k eager => if s.canIssue k then s.fetch k eager else .stop (.next s)
  | .event i => if isEvent i then .run i { s with eager := true } else .stop (.next s)
  | .lazy i => if isEvent i then .run i { s with eager := false } else .stop (.next s)
  | .upset loc => .stop (.next { s with flaws := loc :: s.flaws })
  | .operand ck hd hi i run x n => .stop (.next (s.fetchOperand ck hd hi i run x n))
  | .poison line g => .stop (.next (s.poisonLine line g))
  | .corrected loc => .stop (.next (s.correct loc))
  | .boots p => .stop (.next (s.boots p))
  | .route a b up => .stop (.next { s with noRoute := setLink s.noRoute a b (!up) })
  | .mute a b on => .stop (.next { s with mute := setLink s.mute a b on })

/-- Counts of dropped wake updates reach their copies once in every 2^16 cycles (R410). -/
def State.flushEvery (s : State) (before : Nat) : State :=
  if before / 2 ^ 16 < s.now / 2 ^ 16 then
    s.clusters.foldl (fun s c => c.2.wakeDrops.foldl (fun s d => s.flushDrops c.1 d.1) s) s
  else s

/-- What happens when its time has come, whoever takes the next turn: moored threads sample a set abort (R303), a launch that has had no
reply for 2^20 cycles ends (R471), dropped wake updates are counted (R410), packages are measured (R463), and slack-water grids whose
drain limit has passed are cancelled (R469). -/
def State.punctual (s : State) (before : Nat) : State :=
  let s := (s.sampleMoored (fun _ => true)).expireLate.flushEvery before
  (s.packages.map (·.1)).foldl (fun s p =>
    let s := match (s.pkg p).trainedAt with | some t => if s.draining p then s.cancelDrained p t else s | none => s
    if s.measureDue p then s.measure p else s) s

/-- The cycles that pass before a turn. -/
def State.pass (s : State) (dt : Nat) : State := { s with now := s.now + dt }.punctual s.now

/-- The next turn: the agenda's first, after the cycles that pass before it; without an agenda the next thread's. -/
def State.prepare (s : State) : Ready :=
  match s.agenda with
  | (dt, t) :: rest => ({ s with agenda := rest }.pass dt).takeTurn t
  | [] =>
    let s := s.pass 4
    match s.defaultThread with
    | some k => s.fetch k true
    | none => .stop (.next s)

/-- Thread 0 placed so that the next turn is its own: in a group on cluster 0 where it has none, ready, its pc at the
start of an executable page that holds the bytes (log 9). -/
def State.placeProgram (s : State) (bytes : List Byte) : State :=
  let va : Nat := 0x0000001000000000
  let frame : Nat := 0x3FFF0000
  let g := (s.thr 0).group.getD 1
  let s := if (s.thr 0).group.isSome then s else s.setGrp g { slots := [0], cluster := 0 }
  let root := s.rootOf g
  let s := s.modThr 0 (fun t =>
    { t.settled with group := some g, live := true, pc := BitVec.ofNat 56 va, yielding := none, block := none })
  let s := s.modCore 0 (fun c => { c with codeLines := tdel c.codeLines (lineOf frame) })
  { s with
    codeMaps := { root := root, va := va, size := 16, frame := frame, first := 0, starts := [0] } :: s.codeMaps
    mem := memWrite s.mem frame bytes
    tows := s.tows.filter (fun w => !(w.tug == 0 || w.followers.contains 0))
    flaws := s.flaws.filter (fun f => lineOf f != lineOf frame)
    agenda := (0, .thread 0 true) :: s.agenda }

end Sys2Proof.Machine
end

