-- ==== Sys2Proof/Machine/Step.lean ====
section
/-! DEFINITION. One step of the machine. -/
namespace Sys2Proof.Machine

/-- One step: the next turn, and the effect of the instruction or step that it takes. -/
def step (s : State) : Host.Outcome State Fault Refusal :=
  match s.prepare with
  | .stop o => o
  | .run i s' => exec i s'

/-- s with an instruction stored where the next step fetches (log 9): its low nbits are those of w, the others 0. -/
def State.withFetchWord (s : State) (nbits w : Nat) : State := s.placeProgram (bytesOfBits (w % 2 ^ nbits) 16)

end Sys2Proof.Machine
end

