-- ==== Sys2Proof/Safety.lean ====
section
/-! DEFINITION. Safe runs, and the terms in which a claim speaks of one instruction. -/
namespace Sys2Proof

/-- A step that goes on. -/
def StepsTo (s t : Machine.State) : Prop := Machine.step s = .next t

/-- t is reached from s by steps that go on. -/
inductive Reaches : Machine.State → Machine.State → Prop where
  | refl (s : Machine.State) : Reaches s s
  | tail {s t u : Machine.State} : Reaches s t → StepsTo t u → Reaches s u

/-- A state from which no run stops: no fault, no refusal. -/
def Safe (s : Machine.State) : Prop := ∀ t, Reaches s t → ∃ u, StepsTo t u

namespace Machine

/-- `m`, begun in s, comes to its end in t with the value v. -/
def Does {α : Type} (m : Exec α) (s : State) (v : α) (t : State) : Prop := m.run s = .ok (v, t)

/-- `m`, begun in s, traps with a cause and the address for sys.eaddr, none where the spec names none. -/
def Traps {α : Type} (m : Exec α) (s : State) (c : BitVec 10) (x : Option Word) : Prop :=
  ∃ epc info, m.run s = .error (.trap c (originOf c) epc x info)

/-- The predicate of an instruction that is no control transfer lets the executing thread execute it. -/
def State.lets (s : State) (p : Pred) : Prop := predHolds p s.me.f = true

/-- The executing thread is in no running tow. -/
def State.alone (s : State) : Prop := s.towOf s.cur = none

/-- The next step is a turn of thread k, which begins in s0, after the cycles that pass before it (log 2). -/
def State.turns (s : State) (k : Nat) (eager : Bool) (s0 : State) : Prop :=
  (∃ dt rest, s.agenda = (dt, .thread k eager) :: rest ∧ s0 = State.pass { s with agenda := rest } dt ∧ s0.canIssue k = true) ∨
    (s.agenda = [] ∧ eager = true ∧ s0 = s.pass 4 ∧ s0.defaultThread = some k)

/-- No write waits for a stage of a ring (R292). -/
def State.noneAhead (s : State) : Prop :=
  (∀ e ∈ s.threads, ∀ o v c i, e.2.wait ≠ .moored 7 o v c i) ∧
    ∀ e ∈ s.clusters, ∀ c ∈ e.2.channels, ∀ x ∈ c.2.xfers, ∀ b ∈ x.beats, b.st ≠ .ahead

/-- New flags of the executing thread. -/
def State.withFlags (s : State) (f : Flags → Flags) : State := s.modThr s.cur (fun t => { t with f := f t.f })

/-- Z and N of a result r of w bits, with C and V. -/
def State.flagged (s : State) (w r : Nat) (c v : Bool) : State :=
  s.withFlags (fun f => { f with z := decide (r = 0), n := r.testBit (w - 1), c := c, v := v })

/-- Exceptions enter sys.fstat of the executing thread's group. -/
def State.raising (s : State) (x : BitVec 5) : State :=
  if x = 0 then s else s.modGrp s.myGrp (fun g => { g with fstat := g.fstat ||| x })

/-- The executing thread's `a`. -/
def State.withA (s : State) (v : Word) : State := s.modThr s.cur (fun t => { t with a := v })

/-- The executing thread's `va`. -/
def State.withVa (s : State) (v : BitVec 1024) : State := s.modThr s.cur (fun t => { t with va := v })

/-- The executing thread's pointer n. -/
def State.withPtr (s : State) (n : BitVec 3) (v : Word) : State := s.modThr s.cur (fun t => t.setPtr n v)

/-- The flags of a floating-point result r of type ty (R97). -/
def State.floated (s : State) (ty : Ty) (r : Nat) : State :=
  let v := (Fmt.ofTy ty).decode r
  s.withFlags (fun f => { f with z := v.isZero, n := v.isNeg && !v.isNan, c := false, v := v.isNan })

/-- The update of a wake site, where the instruction names one (R405). -/
def State.noted (s : State) (site : BitVec 16) (o : WakeObs) : State :=
  if site = 0 then s else s.wakeSend s.cur site o

/-- Handle register n of a thread. -/
def State.handleOf (s : State) (k n : Nat) : Handle := (s.thr k).handle (BitVec.ofNat 3 n)

/-- The register of an operation (group, thread, handle number, SEQ) still holds it, pending: its end will be seen. -/
def State.sees (s : State) (g k n : Nat) (seq : W32) : Prop :=
  (s.thr k).group = some g ∧ (s.handleOf k n).seq = seq ∧ (s.handleOf k n).st = .pending

/-- The operands of r := x op y have been read (R86): destination, x, y. -/
def ReadsTwo (h : Hdr) (ty : Ty) (dst src : Opnd) (s : State) (d : Dest) (x y : Word) (t : State) : Prop :=
  Does (operands h.pred (specStep dst (tyBytes ty) (tyBytes ty))
    (do
      let d ← openDest dst (tyBytes ty) ⟨true, true⟩ false opA
      let x ← readDest d (tyBytes ty) opA
      pure (d, x))
    (readSrc src (tyBytes ty) opB) ty) s.issued (some ((d, x), y)) t

/-- The operands of r := op y have been read: destination, y. -/
def ReadsOne (h : Hdr) (ty sty : Ty) (dst src : Opnd) (s : State) (d : Dest) (y : Word) (t : State) : Prop :=
  Does (operands h.pred (specStep dst (tyBytes ty) (tyBytes ty)) (openDest dst (tyBytes ty) ⟨false, true⟩ false opA)
    (readSrc src (tyBytes sty) opB) sty) s.issued (some (d, y)) t

/-- Two sources have been read. -/
def ReadsBoth (h : Hdr) (ty : Ty) (s1 s2 : Opnd) (s : State) (x y : Word) (t : State) : Prop :=
  Does (operands h.pred (specStep s1 (tyBytes ty) (tyBytes ty)) (readSrc s1 (tyBytes ty) opA)
    (readSrc s2 (tyBytes ty) opB) ty) s.issued (some (x, y)) t

/-- In s, instruction i, its operands read in u, leaves r in d with the flags of a result of type ty. -/
def Yields (i : Instr) (s u : State) (f : Form) (d : Dest) (ty : Ty) (r : Nat) (c v : Bool) : Prop :=
  ∀ t, Does (writeDest d ty r opA) u () t → exec i s = .next ((t.flagged ty.bits r c v).complete f.bytes none)

/-- The places of the entries that a walk of an address reads, from a table on (R171, R172). -/
def entriesRead (m : Memory) (va : Nat) : List Level → Nat → List Nat
  | [], _ => []
  | l :: ls, table =>
    let place := table + 8 * (va / 2 ^ l.shift % 2 ^ l.bits)
    let e := leWord (memBytes m place 8)
    place :: if !e.getLsbD 0 || badEntry e l || e.getLsbD 1 then [] else entriesRead m va ls (e.toNat % 2 ^ 52 / 2 ^ 12 * 2 ^ 12)

/-- The places of the entries that the walk of an address reads in a berth's tables on a package. -/
def State.walkReads (s : State) (bk va p : Nat) : List Nat :=
  match s.roots.find? (fun e => e.1 == rootKey bk p) with
  | none => []
  | some e => entriesRead s.mem (va % 2 ^ 55) levels e.2

/-- On each of some packages a berth has the tables for pages of 64 KiB at an address, and no entry of these walks is part of
another. -/
def State.tablesApart (s : State) (bk va : Nat) (pkgs : List Nat) : Prop :=
  (∀ p ∈ pkgs, (s.walkReads bk va p).length = 5) ∧
    (pkgs.flatMap (s.walkReads bk va)).Pairwise (fun a b => a + 8 ≤ b ∨ b + 8 ≤ a)

/-- The entries of these walks lie in frames that Keel holds, and in no page that the address is mapped to. -/
def State.tablesHeld (s : State) (bk va : Nat) (pkgs : List Nat) : Prop :=
  ∀ a ∈ pkgs.flatMap (s.walkReads bk va), ∃ f ∈ s.frames, f.loc ≤ a ∧ a + 8 ≤ f.loc + 2 ^ f.size ∧
    ∀ p ∈ pkgs, ∀ l, s.leafAt bk p va = some l → l.pa ≠ f.loc ∧ (a + 8 ≤ l.pa ∨ l.pa + 2 ^ l.size ≤ a)

/-- A command of an opcode is the next that Keel performs, and its issuer may issue it (R447, R448); the memories are in their
canonical form. -/
def State.takes (s : State) (c : Cmd) (opc : BitVec 8) (who : Issuer) : Prop :=
  Memory.wf s.mem = true ∧ Memory.wf s.hostMem = true ∧ s.silent c.package = false ∧
    s.cmdReady c (· == opc) = true ∧ s.refusal c who = none

/-- In t the command is complete: CRHEAD has passed it, and the next entry of the event ring holds its TAG, kind 0 and STATUS
(R447). -/
def State.answers (s : State) (c : Cmd) (status : BitVec 8) (t : State) : Prop :=
  let b := s.berth (cmdKey c)
  let e := t.berth (cmdKey c)
  let w := memBytes t.hostMem (b.erbase.toNat + 16 * b.ertail) 16
  e.crhead = (b.crhead + 1) % ringLen b.crsize 4 12 ∧ e.ertail = (b.ertail + 1) % ringLen b.ersize 4 14 ∧ e.events = [] ∧
    leVal (w.take 2) = c.tag.toNat ∧ w.getD 2 0 = 0 ∧ w.getD 3 0 = status

/-- RESULT of the command's completion in t. -/
def State.resultIn (s : State) (c : Cmd) (t : State) : Word :=
  let b := s.berth (cmdKey c)
  leWord (memBytes t.hostMem (b.erbase.toNat + 16 * b.ertail + 8) 8)

end Machine
end Sys2Proof
end

