-- ==== Sys2Proof/Certificates/Slice0/Obligations.lean ====
section
/-! DEFINITION. The statements about the model, for the provers. -/
open Sys2Proof Sys2Proof.Machine

/-- R91: the result and the flags of the two-operand integer instructions, whatever their operands are, and the trap of `div` and `rem`
on a zero divisor. -/
def Obligations.IntegerTwoOperandResults : Prop :=
  (∀ (h : Hdr) (ty : Ty) (dst src : Opnd) (s u : State) (d : Dest) (x y : Word),
    ty.isInt = true → s.lets h.pred → ReadsTwo h ty dst src s d x y u →
    let w := ty.bits
    let X := lowOf ty x
    let Y := lowOf ty y
    let k := Y % w
    let fits (z : Int) : Bool := decide (-(2 ^ (w - 1) : Int) ≤ z) && decide (z < (2 ^ (w - 1) : Int))
    let holds (z : Int) : Bool :=
      if Ty.signedInt ty then fits z else decide (0 ≤ z) && decide (z < (2 ^ w : Int))
    Yields (.add h ty dst src) s u h.form d ty ((X + Y) % 2 ^ w) (decide (2 ^ w ≤ X + Y)) (!fits (sval w X + sval w Y)) ∧
    Yields (.sub h ty dst src) s u h.form d ty ((2 ^ w + X - Y) % 2 ^ w) (decide (X < Y)) (!fits (sval w X - sval w Y)) ∧
    Yields (.mul h ty dst src) s u h.form d ty (X * Y % 2 ^ w) (!holds (tval ty X * tval ty Y))
      (!holds (tval ty X * tval ty Y)) ∧
    Yields (.mulh h ty dst src) s u h.form d ty ((tval ty X * tval ty Y / (2 ^ w : Int)) % (2 ^ w : Int)).toNat false false ∧
    Yields (.and h ty dst src) s u h.form d ty (X &&& Y) false false ∧
    Yields (.or h ty dst src) s u h.form d ty (X ||| Y) false false ∧
    Yields (.xor h ty dst src) s u h.form d ty (X ^^^ Y) false false ∧
    Yields (.shl h ty dst src) s u h.form d ty (X * 2 ^ k % 2 ^ w) (decide (k ≠ 0) && X.testBit (w - k)) false ∧
    Yields (.shr h ty dst src) s u h.form d ty (X / 2 ^ k) (decide (k ≠ 0) && X.testBit (k - 1)) false ∧
    Yields (.sar h ty dst src) s u h.form d ty ((sval w X / (2 ^ k : Int)) % (2 ^ w : Int)).toNat
      (decide (k ≠ 0) && X.testBit (k - 1)) false ∧
    Yields (.min h ty dst src) s u h.form d ty (if tval ty X ≤ tval ty Y then X else Y) false false ∧
    Yields (.max h ty dst src) s u h.form d ty (if tval ty X ≤ tval ty Y then Y else X) false false) ∧
  (∀ (h : Hdr) (ty : Ty) (dst src : Opnd) (s u : State) (d : Dest) (x y : Word),
    ty.isInt = true → s.lets h.pred → ReadsTwo h ty dst src s d x y u →
    let w := ty.bits
    let X := tval ty (lowOf ty x)
    let Y := tval ty (lowOf ty y)
    let big : Bool := Ty.signedInt ty && decide (X = -(2 ^ (w - 1) : Int)) && decide (Y = -1)
    (Y ≠ 0 →
      Yields (.div h ty dst src) s u h.form d ty ((X.tdiv Y) % (2 ^ w : Int)).toNat false big ∧
      Yields (.rem h ty dst src) s u h.form d ty ((X - Y * X.tdiv Y) % (2 ^ w : Int)).toNat false big) ∧
    (Y = 0 →
      exec (.div h ty dst src) s = .next (s.issued.takeTrap s.cur 0x020 0 none none 0) ∧
      exec (.rem h ty dst src) s = .next (s.issued.takeTrap s.cur 0x020 0 none none 0)))

/-- R92. -/
def Obligations.IntegerOneOperandResults : Prop :=
  ∀ (h : Hdr) (ty : Ty) (dst src : Opnd) (s u : State) (d : Dest) (y : Word),
    ty.isInt = true → s.lets h.pred → ReadsOne h ty ty dst src s d y u →
    let w := ty.bits
    let Y := lowOf ty y
    Yields (.neg h ty dst src) s u h.form d ty ((2 ^ w - Y) % 2 ^ w) (decide (Y ≠ 0)) (decide (Y = 2 ^ (w - 1))) ∧
    Yields (.not h ty dst src) s u h.form d ty (2 ^ w - 1 - Y) false false ∧
    Yields (.clz h ty dst src) s u h.form d ty (w - Nat.size Y) false false ∧
    Yields (.popc h ty dst src) s u h.form d ty ((List.range w).countP (fun i => Y.testBit i)) false false

/-- R93, R94, R95: the compares write flags only; `sel` writes `a` and no flag; `ext` writes both. P after a compare says how the two
operands compare, as signed numbers for lt, ge, le and gt and as unsigned numbers for ltu, geu, leu and gtu. -/
def Obligations.CompareSelectExtendResults : Prop :=
  ((∀ (h : Hdr) (ty : Ty) (c : BitVec 4) (s1 s2 : Opnd) (s u : State) (x y : Word),
    ty.isInt = true → s.lets h.pred → ReadsBoth h ty s1 s2 s x y u →
    let w := ty.bits
    let X := lowOf ty x
    let Y := lowOf ty y
    let v := !(decide (-(2 ^ (w - 1) : Int) ≤ sval w X - sval w Y) && decide (sval w X - sval w Y < (2 ^ (w - 1) : Int)))
    exec (.cmp h ty c s1 s2) s =
      .next (((u.flagged w ((2 ^ w + X - Y) % 2 ^ w) (decide (X < Y)) v).withFlags
        (fun f => { f with p := condHolds c f })).complete h.form.bytes none) ∧
    exec (.tst h ty c s1 s2) s =
      .next (((u.flagged w (X &&& Y) false false).withFlags (fun f => { f with p := condHolds c f })).complete
        h.form.bytes none) ∧
    exec (.sel h ty s1 s2) s =
      .next ((u.withA (extendTo ty (if u.me.f.p then X else Y))).complete h.form.bytes none)) ∧
  (∀ (h : Hdr) (ty : Ty) (src : Opnd) (s u : State) (y : Word),
    ty.isInt = true → s.lets h.pred → Does (readSrc src (tyBytes ty) opA) s.issued y u →
    exec (.ext h ty src) s =
      .next (((u.withA (extendTo ty (lowOf ty y))).flagged ty.bits (lowOf ty y) false false).complete h.form.bytes none))) ∧
  (∀ (h : Hdr) (ty : Ty) (c : BitVec 4) (s1 s2 : Opnd) (s u t : State) (x y : Word),
    ty.isInt = true → s.lets h.pred → u.alone → ReadsBoth h ty s1 s2 s x y u →
    exec (.cmp h ty c s1 s2) s = .next t →
    let X := lowOf ty x
    let Y := lowOf ty y
    let a := sval ty.bits X
    let b := sval ty.bits Y
    let p := (t.thr u.cur).f.p
    (c = 0x0 → p = decide (X = Y)) ∧ (c = 0x1 → p = decide (X ≠ Y)) ∧ (c = 0x2 → p = decide (a < b)) ∧
    (c = 0x3 → p = decide (b ≤ a)) ∧ (c = 0x4 → p = decide (a ≤ b)) ∧ (c = 0x5 → p = decide (b < a)) ∧
    (c = 0x6 → p = decide (X < Y)) ∧ (c = 0x7 → p = decide (Y ≤ X)) ∧ (c = 0x8 → p = decide (X ≤ Y)) ∧
    (c = 0x9 → p = decide (Y < X)))

/-- R90, R79: `lda` leaves the value in `a` and, with an integer type, its flags; `sta` stores the low bytes. -/
def Obligations.LoadAndStoreAccumulator : Prop :=
  (∀ (h : Hdr) (ty : Ty) (q : Qual) (src : Opnd) (site : BitVec 16) (s u t : State) (v : Word) (port : Option Nat),
    s.lets h.pred → Does (readWin src (tyBytes ty) (windowOk ty) q opB) s.issued (v, port) u →
    (h.pred = .th → belowTh u.thHeld.1 ty (lowOf ty v) = false) →
    let e := if h.pred = .th then u.withFlags (fun f => { f with t := false }) else u
    let l := e.withA (extendTo ty (lowOf ty v))
    let l := if ty.isInt then l.flagged ty.bits (lowOf ty v) false false else l
    Does (match port with | some p => freeHead p | none => pure ()) l () t →
    ∃ o, exec (.lda h ty q src site) s = .next ((t.noted site o).complete h.form.bytes none)) ∧
  (∀ (h : Hdr) (ty : Ty) (q : Qual) (dst src : Opnd) (s u t : State) (d : Dest) (y : Word),
    s.lets h.pred →
    Does (operands h.pred (specStep dst (tyBytes ty) (tyBytes ty))
      (openDest dst (tyBytes ty) ⟨false, true⟩ (windowOk ty) opA) (readSrc src (tyBytes ty) opB) ty) s.issued (some (d, y)) u →
    Does (match d with
      | .mem loc uc x => storeQ q loc uc x (leBytes (lowOf ty y) (tyBytes ty)) 0 opA
      | d => do
        relPart q
        writeDest d ty (lowOf ty y) opA) u () t →
    exec (.sta h ty q dst src) s = .next (t.complete h.form.bytes none))

/-- R97: one rounding to nearest even of the operation's value, the flags of the result, and its exceptions. That N is set for a
result of -0 (`State.floated`) is the model's reading, log 47; so is when a result counts as tiny, log 68. -/
def Obligations.FloatResults : Prop :=
  (∀ (h : Hdr) (ty : Ty) (dst src : Opnd) (s u : State) (d : Dest) (x y : Word),
    ty.fp = true → s.lets h.pred → ReadsTwo h ty dst src s d x y u →
    let F := Fmt.ofTy ty
    let X := F.decode (lowOf ty x)
    let Y := F.decode (lowOf ty y)
    let ends (i : Instr) (v : FVal × BitVec 5) : Prop :=
      let r := F.finish .rne v
      ∀ t, Does (writeDest d ty r.1 opA) u () t →
        exec i s = .next (((t.floated ty r.1).raising r.2).complete h.form.bytes none)
    ends (.fadd h ty dst src) (fAdd X Y) ∧ ends (.fsub h ty dst src) (fAdd X Y.neg) ∧ ends (.fmul h ty dst src) (fMul X Y) ∧
    ends (.fdiv h ty dst src) (fDiv X Y) ∧ ends (.fmin h ty dst src) (fMinNum X Y) ∧
    ends (.fmax h ty dst src) (fMaxNum X Y)) ∧
  (∀ (h : Hdr) (ty : Ty) (dst src : Opnd) (s u t : State) (d : Dest) (y : Word),
    ty.fp = true → s.lets h.pred → ReadsOne h ty ty dst src s d y u →
    let r := (Fmt.ofTy ty).finish .rne (fSqrt ((Fmt.ofTy ty).decode (lowOf ty y)))
    Does (writeDest d ty r.1 opA) u () t →
    exec (.fsqrt h ty dst src) s = .next (((t.floated ty r.1).raising r.2).complete h.form.bytes none)) ∧
  (∀ (h : Hdr) (ty : Ty) (s1 s2 : Opnd) (s u : State) (x y : Word),
    ty.fp = true → s.lets h.pred → ReadsBoth h ty s1 s2 s x y u →
    let F := Fmt.ofTy ty
    let r := F.finish .rne (fMulAdd (F.decode (lowOf ty x)) (F.decode (lowOf ty y)) (F.decode (lowOf ty u.me.a)))
    exec (.ffma h ty s1 s2) s =
      .next ((((u.withA (extendTo ty r.1)).floated ty r.1).raising r.2).complete h.form.bytes none))

/-- R98 and R99: what a comparison and a conversion leave. That N is set for a converted -0 (`State.floated`) is the model's reading,
log 47; so is when a converted value counts as tiny, log 68. -/
def Obligations.FloatCompareAndConvert : Prop :=
  (∀ (h : Hdr) (ty : Ty) (c : BitVec 4) (s1 s2 : Opnd) (s u : State) (x y : Word),
    ty.fp = true → c.toNat < 8 → s.lets h.pred → ReadsBoth h ty s1 s2 s x y u →
    let X := (Fmt.ofTy ty).decode (lowOf ty x)
    let Y := (Fmt.ofTy ty).decode (lowOf ty y)
    let eq := fEq X Y
    let lt := fLt false X Y
    let gt := fLt false Y X
    let un := X.isNan || Y.isNan
    let p :=
      match c.toNat with
      | 0 => eq | 1 => !eq | 2 => lt | 3 => gt || eq | 4 => lt || eq | 5 => gt | 6 => un | _ => !un
    let invalid := X.sNan || Y.sNan || (un && decide (2 ≤ c.toNat) && decide (c.toNat ≤ 5))
    exec (.fcmp h ty c s1 s2) s =
      .next (((u.withFlags (fun f => { f with z := eq, n := lt, c := gt, v := un, p := p })).raising
        (if invalid then xInvalid else 0)).complete h.form.bytes none)) ∧
  (∀ (h : Hdr) (dty sty : Ty) (dst src : Opnd) (rm : Rm) (s u t : State) (d : Dest) (y : Word),
    s.lets h.pred → ReadsOne h dty sty dst src s d y u →
    let r := convert dty sty (.ofRm rm) (lowOf sty y)
    Does (writeDest d dty r.1 opA) u () t →
    exec (.fcvt h dty dst src sty rm) s =
      .next (((if dty.isInt then t.flagged dty.bits r.1 false r.2.2 else t.floated dty r.1).raising r.2.1).complete
        h.form.bytes none))

/-- R100, R86: OPA of `padd` is its pointer, read before OPB. -/
def Obligations.PointerResults : Prop :=
  (∀ (h : Hdr) (n : BitVec 3) (src : Opnd) (s u t : State) (v : Word) (port : Option Nat),
    s.lets h.pred → Does (readWin src 8 true ⟨.plain, .co⟩ opB) s.issued (v, port) u →
    Does (match port with | some p => freeHead p | none => pure ()) (u.withPtr n v) () t →
    exec (.lp h n src) s = .next (t.complete h.form.bytes none)) ∧
  (∀ (h : Hdr) (dst : Opnd) (n : BitVec 3) (s u t : State) (d : Dest),
    s.lets h.pred → Does (openDest dst 8 ⟨false, true⟩ true opA) s.issued d u →
    Does (writeDest d .ui64 (u.me.ptr n).toNat opA) u () t →
    exec (.stp h dst n) s = .next (t.complete h.form.bytes none)) ∧
  (∀ (h : Hdr) (n : BitVec 3) (src : Opnd) (s u : State) (v : Word),
    s.lets h.pred → Does (readSrc src 8 opB) s.issued v u →
    exec (.padd h n src) s =
      .next ((u.withPtr n (withAddr (u.me.ptr n) (ptrAddr (s.me.ptr n) + v.setWidth 56))).complete h.form.bytes none) ∧
    exec (.pset h n src) s = .next ((u.withPtr n v).complete h.form.bytes none)) ∧
  (∀ (p : Pred) (n m : BitVec 3) (s : State),
    s.lets p → exec (.pmov p n m) s = .next ((s.issued.withPtr n (s.me.ptr m)).complete 8 none))

/-- R20, R71: an instruction that completes in a thread outside a running tow sets that thread's pc to its target, or to
the next sequential address, and ends its wait; the other threads, the memory and every other record stay. -/
def Obligations.CompletionGoesOn : Prop :=
  ∀ (s : State) (len : Nat) (dest : Option Addr), s.alone →
    let t := s.complete len dest
    let x := s.me.pc + BitVec.ofNat 56 len
    let next := if x.toNat % 32 = 28 then x + 4 else x
    t.me.pc = dest.getD next ∧ t.me.wait = .ready ∧
    (t.me.a = s.me.a ∧ t.me.va = s.me.va ∧ t.me.vm = s.me.vm ∧ t.me.ptrs = s.me.ptrs ∧ t.me.lc = s.me.lc ∧ t.me.f = s.me.f ∧
      t.me.h = s.me.h ∧ t.me.trap = s.me.trap ∧ t.me.live = s.me.live ∧ t.me.group = s.me.group) ∧
    (∀ k, k ≠ s.cur → t.thr k = s.thr k) ∧
    { t with threads := s.threads } = s

/-- R79, R80, R85, R87: the address that each memory mode names, and the pointer that it leaves; what a register or immediate source
yields and what a register destination takes; an operand that is not naturally aligned raises 0x0C0 with its address. -/
def Obligations.OperandForms : Prop :=
  (∀ (n : BitVec 3) (e z : Nat) (s : State),
    let p := s.me.ptr n
    let a : Addr := p.extractLsb' 0 56
    let stride : BitVec 8 := p.extractLsb' 56 8
    let left (x : Addr) : State := s.withPtr n (stride ++ x)
    Does (specAddr n .ind e z) s a s ∧
    Does (specAddr n .postInc e z) s a (left (a + BitVec.ofNat 56 z)) ∧
    Does (specAddr n .postStride e z) s a (left (a + BitVec.ofInt 56 (stride.toInt * e))) ∧
    Does (specAddr n .preDec e z) s (a - BitVec.ofNat 56 z) (left (a - BitVec.ofNat 56 z)) ∧
    ∀ d : Word, Does (specAddr n (.disp d) e z) s (a + d.setWidth 56) s) ∧
  (∀ (ty : Ty) (z : Nat) (op : Word) (s : State) (n : BitVec 3) (v : Word) (r : Nat),
    Does (readSrc (.ptr n) z op) s (s.me.ptr n) s ∧ Does (readSrc (.imm v) z op) s v s ∧ Does (readSrc .a z op) s s.me.a s ∧
    (let x : Word := if Ty.signedInt ty then (BitVec.ofNat ty.bits r).signExtend 64 else (BitVec.ofNat ty.bits r).setWidth 64
     Does (writeDest .a ty r op) s () (s.withA x) ∧ Does (writeDest (.ptr n) ty r op) s () (s.withPtr n x))) ∧
  (∀ (n : BitVec 3) (m : MemMode) (z : Nat) (op : Word) (s u : State) (x : Addr),
    Does (specAddr n m z z) s x u → x.toNat % z ≠ 0 →
    Traps (readSrc (.mem n m) z op) s 0x0C0 (some (x.setWidth 64)) ∧
    ∀ nd win, Traps (openDest (.mem n m) z nd win op) s 0x0C0 (some (x.setWidth 64)))

/-- R28, R82: an instruction whose predicate fails goes on at the next sequential address and does nothing else; scalar instructions
without `.th`, loads, stores, pointers, fences, traps and handles, by name. Under `.th` an executed instruction clears T before
its other effects, and one whose bound is below sys.th, tested before it has made an access beyond its operands, sets T and goes
on with nothing else changed; the bound is OPB's value at the type. Where it is below sys.th and not below an older value that the
thread may still see (R351), either occurs. Which values those are, and that a
skipped instruction makes no access and raises no fault of OPA, are the readings of log 19 and log 20. -/
def Obligations.Predicates : Prop :=
  (∀ (h : Hdr) (p : Pred) (ty ty2 : Ty) (q : Qual) (d x : Opnd) (c : BitVec 4) (n m : BitVec 3) (rm : Rm) (w : BitVec 16)
    (num : BitVec 9) (b : BitVec 5) (s : State),
    let skip (i : Instr) (p : Pred) (f : Form) : Prop := ¬ s.lets p → exec i s = .next (s.issued.complete f.bytes none)
    (∀ i ∈ ([.enq h ty 0 x, .deq h ty d 0, .fork h 0 n w, .join h n 0 w, .ldlc h ty x, .lda h ty q x w, .sta h ty q d x,
        .add h ty d x, .sub h ty d x, .mul h ty d x, .mulh h ty d x, .div h ty d x, .rem h ty d x, .and h ty d x,
        .or h ty d x, .xor h ty d x, .shl h ty d x, .shr h ty d x, .sar h ty d x, .min h ty d x, .max h ty d x,
        .neg h ty d x, .not h ty d x, .clz h ty d x, .popc h ty d x, .cmp h ty c d x, .tst h ty c d x, .sel h ty d x,
        .ext h ty x, .fadd h ty d x, .fsub h ty d x, .fmul h ty d x, .fdiv h ty d x, .fsqrt h ty d x, .ffma h ty d x,
        .fmin h ty d x, .fmax h ty d x, .fcmp h ty c d x, .fcvt h ty d x ty2 rm, .lp h n x, .stp h d n, .padd h n x,
        .pset h n x, .vadd h ty d x, .vld h ty q x w, .vst h ty q d true, .ldq h q x, .stq h q d,
        .amoAdd h ty q d x, .cas64 h q d x, .cas128 h q d] : List Instr), skip i h.pred h.form) ∧
    (∀ i ∈ ([.yield p, .halt p, .qlink p 0 b, .pmov p n m, .ifence p, .hwait p (.handle n), .htest p n true, .hcancel p n,
        .ringArrive p n true, .ringStat p n, .barInit p b x, .barArrive p b, .barWait p b x, .trap p c, .eret p,
        .rdsr p d num, .wrsr p num x] : List Instr), skip i p .S)) ∧
  (∀ (f : Form) (ty : Ty) (dst src : Opnd) (s u : State) (d : Dest) (x y : Word),
    let h : Hdr := ⟨f, .th⟩
    (do
      let d ← openDest dst (tyBytes ty) ⟨true, true⟩ false opA
      let x ← readDest d (tyBytes ty) opA
      let y ← readSrc src (tyBytes ty) opB
      pure (d, x, y) : Exec (Dest × Word × Word)).run s.issued = .ok ((d, x, y), u) →
    (belowTh u.thHeld.1 ty (lowOf ty y) = false → ReadsTwo h ty dst src s d x y (u.withFlags (fun g => { g with t := false }))) ∧
    (belowTh u.thHeld.1 ty (lowOf ty y) = true → u.me.got.length ≤ u.cursor →
      let skips (u : State) : Prop := exec (.add h ty dst src) s =
        .next ((u.modThr u.cur (fun _ => { s.issued.me with f := { s.me.f with t := true } })).complete f.bytes none)
      let old := u.thHeld.2
      ((∀ w ∈ old, belowTh w ty (lowOf ty y) = true) → skips u) ∧
      ((∃ w ∈ old, belowTh w ty (lowOf ty y) = false) →
        let u' := { u with tick := u.tick + 1 }
        skips u' ∨ ReadsTwo h ty dst src s d x y (u'.withFlags (fun g => { g with t := false })))))

/-- R101 to R105, R35: where branches, `call`, `ret`, `jmp` and `loop` lead in a thread outside a running tow; `call` stores the next
sequential address below the link pointer and lowers it, `ldlc` sets `lc`; a taken transfer whose target is no instruction start
traps with 0x0A1 and has no effect; a wake clause records the branch's outcome. That a target is
tested only where the transfer is taken is the reading of log 51. -/
def Obligations.ControlTransfers : Prop :=
  (∀ (h : Hdr) (back : Bool) (disp : BitVec 34) (site : BitVec 16) (c : BitVec 4) (s : State),
    s.alone → s.lets h.pred → s.abortSet s.cur = false →
    let t : Addr := s.me.pc + BitVec.ofInt 56 (4 * disp.toInt)
    s.startOk s.myGrp t = true →
    let goes (i : Instr) (u : State) (dest : Option Addr) : Prop := exec i s = .next (u.complete h.form.bytes dest)
    goes (.br h back disp site) (s.issued.noted site (.branch true)) (some t) ∧
    goes (.bc h c back disp site) (s.issued.noted site (.branch (condHolds c s.me.f))) (if condHolds c s.me.f then some t else none) ∧
    (s.me.lc.toNat ≤ 1 →
      goes (.loop h back disp site) ((s.issued.modThr s.cur (fun x => { x with lc := 0 })).noted site .fell) none) ∧
    (1 < s.me.lc.toNat →
      goes (.loop h back disp site) ((s.issued.modThr s.cur (fun x => { x with lc := x.lc - 1 })).noted site .taken) (some t))) ∧
  (∀ (h : Hdr) (back : Bool) (disp : BitVec 34) (site : BitVec 16) (n : BitVec 3) (x : Word) (c : BitVec 4) (s : State),
    s.alone → s.lets h.pred →
    let t : Addr := s.me.pc + BitVec.ofInt 56 (4 * disp.toInt)
    let trapTo (a : Addr) : Host.Outcome State Fault Refusal :=
      .next (s.issued.takeTrap s.cur 0x0A1 0 none (some (a.setWidth 64)) 0)
    (s.startOk s.myGrp t = false →
      exec (.br h back disp site) s = trapTo t ∧ (condHolds c s.me.f = true → exec (.bc h c back disp site) s = trapTo t) ∧
      (1 < s.me.lc.toNat → exec (.loop h back disp site) s = trapTo t)) ∧
    (s.startOk s.myGrp (ptrAddr (s.me.ptr n)) = false → exec (.jmp h (.ptr n)) s = trapTo (ptrAddr (s.me.ptr n))) ∧
    (s.startOk s.myGrp (x.setWidth 56) = false → exec (.jmp h (.abs x)) s = trapTo (x.setWidth 56)) ∧
    (s.me.trap.h = true → s.startOk s.myGrp (s.me.trap.epc.setWidth 56) = false →
      exec (.eret h.pred) s = trapTo (s.me.trap.epc.setWidth 56))) ∧
  ((∀ (h : Hdr) (tgt : CallTgt) (link : BitVec 3) (s u1 u2 u3 : State) (loc : Nat) (uc : Bool) (d : Addr),
    s.alone → s.lets h.pred → u2.following = false →
    let x := ptrAddr (s.me.ptr link) - 8
    x.toNat % 8 = 0 → Does (locate x 8 ⟨false, true⟩ opA) s.issued (loc, uc) u1 → Does (callTarget tgt) u1 d u2 →
    u2.startOk u2.myGrp d = true →
    Does (storeAt loc uc x (leBytes (nextPc s.me.pc h.form.bytes).toNat 8) opA) u2 () u3 →
    exec (.call h tgt link) s = .next ((u3.withPtr link (withAddr (u3.me.ptr link) x)).complete h.form.bytes (some d))) ∧
  (∀ (p : Pred) (link : BitVec 3) (s u : State) (v : Word),
    s.alone → s.lets p → u.following = false → Does (readSrc (.mem link .postInc) 8 opA) s.issued v u →
    u.startOk u.myGrp (v.setWidth 56) = true →
    exec (.ret p link) s = .next (u.complete 8 (some (v.setWidth 56)))) ∧
  (∀ (h : Hdr) (n : BitVec 3) (m : MemMode) (x v : Word) (s u : State),
    s.alone → s.lets h.pred →
    (s.startOk s.myGrp (ptrAddr (s.me.ptr n)) = true →
      exec (.jmp h (.ptr n)) s = .next (s.issued.complete h.form.bytes (some (ptrAddr (s.me.ptr n))))) ∧
    (s.startOk s.myGrp (x.setWidth 56) = true →
      exec (.jmp h (.abs x)) s = .next (s.issued.complete h.form.bytes (some (x.setWidth 56)))) ∧
    (Does (readSrc (.mem n m) 8 opA) s.issued v u → u.following = false → u.startOk u.myGrp (v.setWidth 56) = true →
      exec (.jmp h (.mem n m)) s = .next (u.complete h.form.bytes (some (v.setWidth 56))))) ∧
  (∀ (h : Hdr) (ty : Ty) (src : Opnd) (s u : State) (v : Word),
    s.lets h.pred → Does (readSrc src (tyBytes ty) opA) s.issued v u →
    exec (.ldlc h ty src) s =
      .next ((u.modThr u.cur (fun t => { t with lc := (extendTo ty (lowOf ty v)).setWidth 32 })).complete h.form.bytes none)))

/-- R57, R58, R59, R69, R70, R73, R74: `nop`, `yield` and a `cast` without a tow change no register; `halt` ends the thread and its
slot stays allotted; `tow #0` moors a slot 0 outside any tow's range; a tug whose followers have all boarded starts the tow, and every
member goes on after its `tow`. A tug's `cast` ends its tow: in a running one every member goes on after the `cast`; in one that a trap
has frozen the tug goes on after it, a follower that had completed the faulting instruction after that instruction, another at it. A
follower's own `cast` is complete with nothing done. -/
def Obligations.ThreadInstructions : Prop :=
  ((∀ (f : Form) (s : State), exec (.nop f) s = .next (s.issued.complete f.bytes none)) ∧
  (∀ (p : Pred) (s : State), s.lets p → s.alone →
    (∃ y, exec (.yield p) s = .next ((s.issued.modThr s.cur (fun t => { t with yielding := some y })).complete 8 none)) ∧
    ∃ t, exec (.halt p) s = .next t ∧ t.me.live = false ∧ t.me.group = s.me.group ∧ t.me.trap.h = false ∧
      (∀ k, k ≠ s.cur → t.thr k = s.thr k) ∧ { t with threads := s.threads, cursor := s.cursor, place := s.place } = s) ∧
  (∀ s : State, s.alone → exec .cast s = .next (s.issued.complete 8 none)) ∧
  (∀ s : State, s.alone → slotOf s.cur = 0 → (∀ w ∈ s.tows, ¬ s.cur ∈ w.followers) →
    ∃ t, exec (.tow 0) s = .next t ∧ t.me.wait = .moored 8 0 0 s.now s.moorings ∧ t.me.pc = s.me.pc ∧ t.me.a = s.me.a ∧
      t.me.ptrs = s.me.ptrs ∧ ∀ k, k ≠ s.cur → t.thr k = s.thr k)) ∧
  (∀ (s : State) (n : BitVec 4), s.alone → slotOf s.cur = 0 → n ≠ 0 → s.myCore % 16 + n.toNat ≤ 15 →
    let fs := (List.range n.toNat).map (fun i => (s.myCore + 1 + i) * 16)
    (∀ k ∈ fs, (s.thr k).live = true ∧ (s.thr k).group = s.me.group ∧ s.boarded k = true) →
    (∀ w ∈ s.tows, w.tug ≠ s.cur → ∀ k ∈ s.cur :: fs, k ∉ w.members) →
    ∃ t, exec (.tow n) s = .next t ∧ (∃ w, t.towOf s.cur = some w ∧ w.tug = s.cur ∧ w.followers = fs ∧ w.frozen = none) ∧
      (∀ k ∈ s.cur :: fs, (t.thr k).pc = nextPc s.me.pc 8 ∧ (t.thr k).wait = .ready) ∧
      ∀ k, k ∉ s.cur :: fs → t.thr k = s.thr k) ∧
  (∀ (s : State) (w : Tow), s.towOf s.cur = some w →
    let keeps (t : State) (k : Nat) : Prop :=
      (t.thr k).a = (s.thr k).a ∧ (t.thr k).ptrs = (s.thr k).ptrs ∧ (t.thr k).va = (s.thr k).va ∧ (t.thr k).f = (s.thr k).f ∧
        (t.thr k).wait = .ready
    (w.tug ≠ s.cur → exec .cast s = .next (s.issued.complete 8 none)) ∧
    (w.tug = s.cur → w.frozen = none → ∃ t, exec .cast s = .next t ∧ (∀ x ∈ t.tows, x.tug ≠ s.cur) ∧ t.mem = s.mem ∧
      (∀ k ∈ w.members, (t.thr k).pc = nextPc s.me.pc 8 ∧ keeps t k) ∧ ∀ k, k ∉ w.members → t.thr k = s.thr k) ∧
    (∀ pc, w.tug = s.cur → w.frozen = some pc → s.cur ∉ w.followers → (∀ x ∈ s.tows, x.tug ≠ s.cur → s.cur ∉ x.members) →
      ∃ t, exec .cast s = .next t ∧ (∀ x ∈ t.tows, x.tug ≠ s.cur) ∧ t.mem = s.mem ∧
        t.me.pc = nextPc s.me.pc 8 ∧ keeps t s.cur ∧
        (∀ k ∈ w.followers, keeps t k ∧
          (t.thr k).pc = if w.done.contains k then w.next.getD (s.followingPc s.myGrp pc) else pc) ∧
        ∀ k, k ∉ w.members → t.thr k = s.thr k))

/-- R61, R60: an `enq` to a port with room puts its value at the tail; a `deq` takes the filled head entry, into a register or to
memory; a port of another group raises 0x0B0. What `enq` reserves and fills at the tail of a port that holds only filled, unread
entries is what the `deq`s after it meet, in order. -/
def Obligations.QueueInstructions : Prop :=
  ((∀ (h : Hdr) (ty : Ty) (q : BitVec 2) (src : Opnd) (s u1 u2 u3 : State) (v : Word),
    s.lets h.pred → s.me.group.isSome = true → (s.port s.myCore q.toNat).group = s.me.group →
    Does (reserveTail q.toNat none 0) s.issued () u1 → Does (readSrc src (tyBytes ty) opA) u1 v u2 →
    Does (fillTail q.toNat (extendTo ty (lowOf ty v))) u2 () u3 →
    exec (.enq h ty q src) s = .next (u3.complete h.form.bytes none)) ∧
  (∀ (h : Hdr) (ty : Ty) (dst : Opnd) (q : BitVec 2) (s u1 u2 u3 u4 : State) (v : Word) (d : Dest),
    s.lets h.pred → s.me.group.isSome = true → (s.port s.myCore q.toNat).group = s.me.group →
    Does (reserveHead q.toNat none 0) s.issued v u1 → Does (openDest dst (tyBytes ty) ⟨false, true⟩ false opA) u1 d u2 →
    Does (writeDest d ty (lowOf ty v) opA) u2 () u3 → Does (freeHead q.toNat) u3 () u4 →
    exec (.deq h ty dst q) s = .next (u4.complete h.form.bytes none)) ∧
  (∀ (h : Hdr) (ty : Ty) (q : BitVec 2) (n : BitVec 3) (s : State),
    s.lets h.pred → (s.port s.myCore q.toNat).group ≠ s.me.group →
    exec (.enq h ty q (.ptr n)) s = .next (s.issued.takeTrap s.cur 0x0B0 0 none none 0) ∧
    exec (.deq h ty .a q) s = .next (s.issued.takeTrap s.cur 0x0B0 0 none none 0)) ∧
  (∀ (p : Pred) (q : BitVec 2) (b : BitVec 5) (s : State),
    s.lets p → s.me.group.isSome = true → (s.port s.myCore q.toNat).group = s.me.group →
    (s.port s.myCore q.toNat).link = none → b ≠ 0 → (s.bank s.myClus b.toNat).mode = .fifo →
    (s.bank s.myClus b.toNat).group = s.me.group → (s.bank s.myClus b.toNat).port = none → (s.bank s.myClus b.toNat).queue = [] →
    exec (.qlink p q b) s =
      .next (((s.issued.setBank s.myClus b.toNat { s.bank s.myClus b.toNat with port := some (s.myCore, q.toNat) }).setPort
        s.myCore q.toNat { s.port s.myCore q.toNat with link := some b.toNat }).complete 8 none))) ∧
  (∀ (q : BitVec 2) (s : State) (v : Word),
    let p := s.port s.myCore q.toNat
    let es : List PortEntry := p.entries ++ [{ val := v }]
    s.me.group.isSome = true → p.group = s.me.group → s.inFlight s.cur = false →
    (∀ e ∈ p.entries, e.filler = none ∧ e.reader = none) → p.entries.length < p.depth →
    ∃ u t, Does (reserveTail q.toNat none 0) s () u ∧ Does (fillTail q.toNat v) u () t ∧
      (t.port s.myCore q.toNat).entries = es ∧
      ∃ w x, Does (reserveHead q.toNat none 0) t (es.map (·.val)).head! w ∧
        Does (freeHead q.toNat) w () x ∧ (x.port s.myCore q.toNat).entries = es.tail)

/-- R66 and R68: a `fork` with room adds 1 to the counter's four bytes and pushes a record of its group with its target and registers,
with P set; with the deque full it clears P and does nothing else. A `join` takes 1 from the counter: the last arrival goes on at its
continuation, an earlier one ends its thread, whose slot stays allotted. No other byte of memory changes. Both are complete in one turn
where nothing of the thread or of its core is under way; turns are log 7's. The target of a `join` is tested for the last arrival only
(log 51). -/
def Obligations.ForkAndJoin : Prop :=
  ∀ (h : Hdr) (disp : BitVec 34) (ctr : BitVec 3) (site : BitVec 16) (s u1 : State) (loc : Nat) (x : Addr),
    s.lets h.pred → s.alone → Does (counterAt ctr) s.issued (loc, x) u1 →
    (64 ≤ (u1.core u1.myCore).deque.length →
      exec (.fork h disp ctr site) s =
        .next (((u1.withFlags (fun f => { f with p := false })).noted site (.branch false)).complete h.form.bytes none)) ∧
    ((u1.core u1.myCore).deque.length < 64 → ∀ old u2 u3,
      Does (releaseSteps .cl) u1 () u2 →
      Does (access { loc := loc, va := x, op := .rmw .add (leBytes 1 4), rel := some .cl, kind := 1 } opA) { u2 with eager := true } old u3 →
      ∃ t, exec (.fork h disp ctr site) s = .next t ∧ (t.thr u3.cur).f.p = true ∧ t.mem = u3.mem ∧
        ∃ r, (t.core u3.myCore).deque = (u3.core u3.myCore).deque ++ [r] ∧ r.group = u3.myGrp ∧ r.creator = u3.cur ∧
          r.pc = u3.me.pc + BitVec.ofInt 56 (4 * disp.toInt) ∧ r.a = u3.me.a ∧ r.ptrs = u3.me.ptrs) ∧
    (u1.me.got = [] → u1.inFlight u1.cur = false → u1.clear u1.myCore (u1.homeOf loc) = true → isBank loc = true →
      u1.readError loc 4 = none → u1.landings = [] → u1.locked loc = false → Memory.wf s.mem = true →
      let n := leVal (memBytes s.mem loc 4)
      let counts (t : State) (d : Nat) : Prop :=
        memBytes t.mem loc 4 = leBytes ((n + d) % 2 ^ 32) 4 ∧ ∀ a, a < loc ∨ loc + 4 ≤ a → memGet t.mem a = memGet s.mem a
      let cont := s.me.pc + BitVec.ofInt 56 (4 * disp.toInt)
      ((s.core s.myCore).deque.length < 64 →
        ∃ t, exec (.fork h disp ctr site) s = .next t ∧ counts t 1 ∧ (t.thr s.cur).f.p = true ∧
          (t.thr s.cur).pc = nextPc s.me.pc h.form.bytes ∧
          ∃ r, (t.core s.myCore).deque = (s.core s.myCore).deque ++ [r] ∧ r.group = s.myGrp ∧ r.creator = s.cur ∧ r.pc = cont ∧
            r.a = s.me.a ∧ r.ptrs = s.me.ptrs) ∧
      (n = 1 → s.startOk s.myGrp cont = true →
        ∃ t, exec (.join h ctr disp site) s = .next t ∧ counts t (2 ^ 32 - 1) ∧ (t.thr s.cur).pc = cont) ∧
      (n ≠ 1 →
        ∃ t, exec (.join h ctr disp site) s = .next t ∧ counts t (2 ^ 32 - 1) ∧ (t.thr s.cur).live = false ∧
          (t.thr s.cur).group = s.me.group)) ∧
    (∀ old u2 u3 u4,
      Does (releaseSteps .cl) u1 () u2 →
      let e : State := { u2 with eager := true }
      let cont := e.me.pc + BitVec.ofInt 56 (4 * disp.toInt)
      (leVal (memBytes e.mem loc 4) = 1 → e.startOk e.myGrp cont = true) →
      Does (access { loc := loc, va := x, op := .rmw .add (leBytes (2 ^ 32 - 1) 4), rel := some .cl, kind := 1 } opA) e old u3 →
      Does (acquireSteps .cl) u3 () u4 →
      (leVal old = 1 → exec (.join h ctr disp site) s =
        .next ((u4.noted site (.branch true)).complete h.form.bytes (some cont))) ∧
      (leVal old ≠ 1 → exec (.join h ctr disp site) s = .next ((u4.noted site (.branch false)).endThread u4.cur)))

/-- R220, R221, R77: what a delivered trap saves and where the thread goes, outside a running tow; every other register of the thread
and the memory stay, and every other thread but one that the reservation which the fault gives back releases. A fault while H is
set ends the thread and is reported as 0x0D3; with no vector the thread ends and its own cause is reported; the slot stays
allotted. -/
def Obligations.TrapEntry : Prop :=
  (∀ (s : State) (k : Nat) (c : BitVec 10) (o : BitVec 2) (epc : Option Addr) (x info : Word),
    s.towOf k = none → (s.thr k).trap.h = false → (s.man ((s.thr k).group.getD 0) 1).extractLsb' 0 56 ≠ 0 →
    let b := s.thr k
    let t := (s.takeTrap k c o epc (some x) info).thr k
    t.trap.cause = (0 : BitVec 52) ++ o ++ c ∧ t.trap.epc = (epc.getD b.pc).setWidth 64 ∧ t.trap.eaddr = x ∧
    t.trap.einfo = info ∧ t.trap.ea = b.a ∧ t.trap.ef = b.f ∧ t.trap.ep6 = b.ptrs[6] ∧ t.trap.ep7 = b.ptrs[7] ∧
    t.trap.h = true ∧ t.trap.ab = b.trap.ab ∧ t.f = {} ∧ t.pc = (s.man (b.group.getD 0) 1).extractLsb' 0 56 ∧
    t.ptrs[7] = ((s.man (b.group.getD 0) 4 + BitVec.ofNat 64 (256 * b.tid)).extractLsb' 0 56).setWidth 64 ∧
    (∀ i : Fin 7, t.ptrs[i.val] = b.ptrs[i.val]) ∧
    t.a = b.a ∧ t.va = b.va ∧ t.vm = b.vm ∧ t.lc = b.lc ∧ t.h = b.h ∧ t.live = b.live ∧ t.group = b.group ∧ t.tid = b.tid ∧
    (∀ j, j ≠ k → (s.takeTrap k c o epc (some x) info).thr j = s.thr j ∨
      (s.takeTrap k c o epc (some x) info).thr j = { s.thr j with wait := .ready, freed := true }) ∧
    ((∀ q < 4, ∀ e ∈ (s.port (coreOf k) q).entries, e.filler ≠ some k ∧ e.reader ≠ some k) →
      ∀ j, j ≠ k → (s.takeTrap k c o epc (some x) info).thr j = s.thr j) ∧
    (s.takeTrap k c o epc (some x) info).mem = s.mem ∧
    (s.takeTrap k c o epc (some x) info).groups = s.groups) ∧
  (∀ (s : State) (k : Nat) (c : BitVec 10) (o : BitVec 2) (epc : Option Addr) (x info : Word),
    s.towOf k = none →
    let t := s.takeTrap k c o epc (some x) info
    let g := s.grp ((s.thr k).group.getD 0)
    let ends (cause : BitVec 10) : Prop :=
      (t.thr k).live = false ∧ (t.thr k).group = (s.thr k).group ∧ (t.thr k).trap.h = false ∧
      t.reports = s.reports ++ [{ grid := g.grid, cause := cause, gid := g.gid, package := packageOf g.cluster }] ∧
      t.mem = s.mem ∧ ∀ j, j ≠ k → t.thr j = s.thr j ∨ t.thr j = { s.thr j with wait := .ready, freed := true }
    ((s.thr k).trap.h = true → ends 0x0D3) ∧
    ((s.thr k).trap.h = false → (s.man ((s.thr k).group.getD 0) 1).extractLsb' 0 56 = 0 → ends c))

/-- R230, R231, R220: `trap #n` takes cause 0x3F0 + n with ORIGIN 10, epc the next sequential address and eaddr 0; `eret` restores
`a`, `f`, p6 and p7, clears H and goes to sys.epc, in a thread outside a running tow; a handler that changes nothing returns to
the state that the trap left, but for the trap registers. -/
def Obligations.TrapAndReturn : Prop :=
  ((∀ (p : Pred) (n : BitVec 4) (s : State), s.lets p →
    exec (.trap p n) s =
      .next (s.issued.takeTrap s.cur (0x3F0 + n.setWidth 10) 2 (some (nextPc s.me.pc 8)) (some 0) 0)) ∧
  (∀ (p : Pred) (s : State), s.lets p → s.me.trap.h = false →
    exec (.eret p) s = .next (s.issued.takeTrap s.cur 0x0D2 0 none none 0)) ∧
  (∀ (p : Pred) (s : State), s.lets p → s.alone → s.me.trap.h = true →
    s.startOk s.myGrp (s.me.trap.epc.setWidth 56) = true →
    ∃ t, exec (.eret p) s = .next t ∧ t.me.a = s.me.trap.ea ∧ t.me.f = s.me.trap.ef ∧ t.me.ptrs[6] = s.me.trap.ep6 ∧
      t.me.ptrs[7] = s.me.trap.ep7 ∧ (∀ i : Fin 6, t.me.ptrs[i.val] = s.me.ptrs[i.val]) ∧ t.me.trap.h = false ∧
      t.me.trap.ab = s.me.trap.ab ∧ t.me.pc = s.me.trap.epc.setWidth 56 ∧ t.me.va = s.me.va ∧ t.me.vm = s.me.vm ∧
      t.me.lc = s.me.lc ∧ t.me.h = s.me.h ∧ (∀ j, j ≠ s.cur → t.thr j = s.thr j) ∧
      { t with threads := s.threads, cursor := s.cursor, place := s.place } = s) ∧
  (∀ (p : Pred) (n : BitVec 4) (s : State), (¬ s.lets p → exec (.trap p n) s = .next (s.issued.complete 8 none) ∧
      exec (.eret p) s = .next (s.issued.complete 8 none)) ∧
    (s.lets p → s.alone → s.me.trap.h = true → s.startOk s.myGrp (s.me.trap.epc.setWidth 56) = false →
      exec (.eret p) s = .next (s.issued.takeTrap s.cur 0x0A1 0 none (some ((s.me.trap.epc.setWidth 56 : Addr).setWidth 64)) 0)))) ∧
  (∀ (s : State) (k : Nat) (c : BitVec 10) (o : BitVec 2) (pc : Addr) (x info : Word) (p : Pred) (u : State),
    s.towOf k = none → (s.thr k).trap.h = false → (s.man ((s.thr k).group.getD 0) 1).extractLsb' 0 56 ≠ 0 →
    s.startOk ((s.thr k).group.getD 0) pc = true → (p = .always ∨ p = .nown) →
    u = { s.takeTrap k c o (some pc) (some x) info with cur := k } →
    ∃ t, exec (.eret p) u = .next t ∧ (t.thr k).a = (s.thr k).a ∧ (t.thr k).f = (s.thr k).f ∧
      (t.thr k).ptrs = (s.thr k).ptrs ∧ (t.thr k).va = (s.thr k).va ∧ (t.thr k).vm = (s.thr k).vm ∧
      (t.thr k).lc = (s.thr k).lc ∧ (t.thr k).h = (s.thr k).h ∧ (t.thr k).pc = pc ∧ (t.thr k).trap.h = false ∧
      t.mem = s.mem ∧ t.groups = s.groups ∧ ∀ j, j ≠ k → t.thr j = u.thr j)

/-- R232, R227, R82: `rdsr` yields the register's value; `wrsr` to an assigned RW register, or to an H register of a thread with H
set, writes it, and the fault of a write to another one is 0x0D1, of an unassigned number 0x0D0; sys.flags holds T, P, V, C, N and
Z in bits 5 to 0, and a written value comes back with its reserved bits zero. That `rdsr`
of sys.th gives the present value is the reading of log 19. -/
def Obligations.SystemRegisterAccess : Prop :=
  ((∀ (p : Pred) (dst : Opnd) (num : BitVec 9) (s u t : State) (d : Dest) (v : Word),
    s.lets p → Does (openDest dst 8 ⟨false, true⟩ false opA) s.issued d u → u.readSys num.toNat = some v →
    Does (writeDest d .ui64 v.toNat opA) u () t → exec (.rdsr p dst num) s = .next (t.complete 8 none)) ∧
  (∀ (p : Pred) (num : BitVec 9) (s : State), s.lets p → 0x019 < num →
    exec (.rdsr p .a num) s = .next (s.issued.takeTrap s.cur 0x0D0 0 none none 0)) ∧
  (∀ (p : Pred) (num : BitVec 9) (src : Opnd) (s u : State) (v : Word),
    s.lets p → Does (readSrc src 8 opA) s.issued v u →
    let done (f : Thread → Thread) : Prop := exec (.wrsr p num src) s = .next ((u.modThr u.cur f).complete 8 none)
    let group (f : Group → Group) : Prop := exec (.wrsr p num src) s = .next ((u.modGrp u.myGrp f).complete 8 none)
    let fails (c : BitVec 10) : Prop := exec (.wrsr p num src) s = .next (s.issued.takeTrap s.cur c 0 none none 0)
    let h := u.me.trap.h
    (num = 0x000 → done (fun t => { t with f := Flags.ofBits (v.setWidth 6) })) ∧
    (num = 0x001 → done (fun t => { t with lc := v.setWidth 32 })) ∧
    (num = 0x002 → done (fun t => { t with vm := v.setWidth 32 })) ∧
    (num = 0x00A → group (fun g => { g with fstat := v.setWidth 5 })) ∧
    (num = 0x00B → group (fun g => { g with rstat := v.getLsbD 0 })) ∧
    (num = 0x00C → group (fun g => { g with smiss := v.setWidth 32 })) ∧
    (num = 0x00E → (u.grp u.myGrp).tiles.contains (v.extractLsb' 7 4).toNat = true ∨ v.getLsbD 11 = false →
      exec (.wrsr p num src) s = .next ((u.selectTh (v.setWidth 12)).complete 8 none)) ∧
    (num = 0x00E → (u.grp u.myGrp).tiles.contains (v.extractLsb' 7 4).toNat = false → v.getLsbD 11 = true → fails 0x0F0) ∧
    (h = true → num = 0x010 → done (fun t => { t with trap := { t.trap with cause := v &&& 0xFFF } })) ∧
    (h = true → num = 0x011 → done (fun t => { t with trap := { t.trap with epc := v } })) ∧
    (h = true → num = 0x012 → done (fun t => { t with trap := { t.trap with eaddr := v } })) ∧
    (h = true → num = 0x013 → done (fun t => { t with trap := { t.trap with einfo := v &&& 0xFF00FC } })) ∧
    (h = true → num = 0x014 → done (fun t => { t with trap := { t.trap with ea := v } })) ∧
    (h = true → num = 0x015 → done (fun t => { t with trap := { t.trap with ef := Flags.ofBits (v.setWidth 6) } })) ∧
    (h = true → num = 0x016 → done (fun t => { t with trap := { t.trap with ep6 := v } })) ∧
    (h = true → num = 0x017 → done (fun t => { t with trap := { t.trap with ep7 := v } })) ∧
    (h = false → 0x010 ≤ num → num ≤ 0x017 → fails 0x0D1) ∧
    (num ∈ ([0x003, 0x004, 0x005, 0x006, 0x007, 0x008, 0x009, 0x00D, 0x00F, 0x018, 0x019] : List (BitVec 9)) → fails 0x0D1) ∧
    (0x019 < num → fails 0x0D0))) ∧
  ((∀ f : Flags, f.toBits.getLsbD 0 = f.z ∧ f.toBits.getLsbD 1 = f.n ∧ f.toBits.getLsbD 2 = f.c ∧ f.toBits.getLsbD 3 = f.v ∧
    f.toBits.getLsbD 4 = f.p ∧ f.toBits.getLsbD 5 = f.t ∧ Flags.ofBits f.toBits = f) ∧
  (∀ (p : Pred) (s u : State) (n : BitVec 3), s.lets p → s.alone → exec (.wrsr p 0x000 (.ptr n)) s = .next u →
    u.readSys 0x000 = some (s.me.ptr n &&& 0x3F)))

/-- R20, R21, R222, R219: a step whose turn falls to a thread that may issue, once the cycles before it have passed, runs the
instruction at its pc. The bytes are the fetch buffer's, where it holds the block of the pc; else those of the code line that the
core's L1 holds; else those of memory, from the executable page that its group sees there. The fetch leaves the block in the
buffer and the line in the L1. Turns are the agenda of log 2, executable pages the records of log 64. -/
def Obligations.StepRunsDecodedInstruction : Prop :=
  ∀ (s : State) (dt k : Nat) (eager : Bool) (rest : List (Nat × Turn)) (m : CodeMap) (i : Instr) (b bs : List Byte),
    s.agenda = (dt, .thread k eager) :: rest →
    let s0 : State := State.pass { s with agenda := rest } dt
    s0.canIssue k = true →
    s0.codeAt ((s0.thr k).group.getD 0) (s0.thr k).pc = some m →
    let pc := (s0.thr k).pc
    let loc := m.frame + (pc.toNat - m.va)
    let s1 : State := { (s0.noteIssue k).towBegins k with cur := k, eager := eager, cursor := 0 }
    let buffered (s : State) : State := s.modThr k (fun t => { t with block := some (blockOf pc, b) })
    decode (blockFrom b pc) = .ok (i, bs) →
    (s1.thr k).pc = pc ∧
    ((s1.thr (s1.fetcher k)).block = some (blockOf pc, b) → step s = exec i (buffered s1)) ∧
    ((∀ b', (s1.thr (s1.fetcher k)).block ≠ some (blockOf pc, b')) →
      (∀ l, (s1.core (coreOf k)).codeLines.find? (fun e => e.1 == lineOf loc) = some (lineOf loc, l) →
        b = lineBytes l (loc % 128 - loc % 32) 32 → step s = exec i (buffered s1)) ∧
      ((s1.core (coreOf k)).codeLines.find? (fun e => e.1 == lineOf loc) = none → (∀ f ∈ s1.flaws, lineOf f ≠ lineOf loc) →
        b = memBytes s1.mem (loc - loc % 32) 32 →
        step s = exec i (buffered (s1.modCore (coreOf k) (fun c =>
          { c with codeLines := tset c.codeLines (lineOf loc) (s1.lineAt (lineOf loc)) })))))

/-- R222, R219: the fetch faults: 0x107 on a page that is not mapped executable, with epc and eaddr the pc, and 0x381 with ORIGIN 11 for a
platform error in a code line that has to be fetched. R33, R32: a run stops only at the turn of a thread that fetches bytes that are no
instruction, which the scanner maps nowhere; no instruction and no internal or host step ever stops it. Turns are the agenda of log 2,
executable pages the records of log 64. -/
def Obligations.FetchOutcomes : Prop :=
  (∀ (s : State) (dt k : Nat) (eager : Bool) (rest : List (Nat × Turn)),
    s.agenda = (dt, .thread k eager) :: rest →
    let s0 : State := State.pass { s with agenda := rest } dt
    s0.canIssue k = true →
    let pc := (s0.thr k).pc
    let s1 : State := { (s0.noteIssue k).towBegins k with cur := k, eager := eager, cursor := 0 }
    (s0.codeAt ((s0.thr k).group.getD 0) pc = none →
      step s = .next (s1.takeTrap k 0x107 0 (some pc) (some (pc.setWidth 64)) 0x80)) ∧
    (∀ m f, s0.codeAt ((s0.thr k).group.getD 0) pc = some m →
      let loc := m.frame + (pc.toNat - m.va)
      (∀ b, (s1.thr (s1.fetcher k)).block ≠ some (blockOf pc, b)) →
      (∀ e ∈ (s1.core (coreOf k)).codeLines, e.1 ≠ lineOf loc) →
      f ∈ s1.flaws → lineOf f = lineOf loc → step s = .next (s1.takeTrap k 0x381 3 (some pc) none 0x80))) ∧
  ((∀ (i : Instr) (s : State), ∃ t, exec i s = .next t) ∧
  (∀ s : State, (∃ t, step s = .next t) ∨ ∃ (k : Nat) (eager : Bool) (m : CodeMap) (s0 s2 : State) (b : List Byte),
    s.turns k eager s0 ∧ step s = .fault (.nonInstruction k) ∧
    let pc := (s0.thr k).pc
    let s1 : State := { (s0.noteIssue k).towBegins k with cur := k, eager := eager, cursor := 0 }
    s1.codeAt ((s0.thr k).group.getD 0) pc = some m ∧ s1.fetchBlock k pc (m.frame + (pc.toNat - m.va)) = some (b, s2) ∧
    ∃ e, decode (blockFrom b pc) = .error e))

/-- R18 to R32: words written out from the encoding tables and the assembler's examples, of every group; two words that are no
instruction. -/
def Obligations.WordsDecode : Prop :=
  decodeTableWord 64 0x0000000000000005 = some (.yield .always) ∧
  decodeTableWord 64 0x000000000C16400D = some (.enq ⟨.S, .always⟩ .i64 1 (.mem 3 .postInc)) ∧
  decodeTableWord 96 0x00010001000000040000001A = some (.fork ⟨.M, .always⟩ 16 0 1) ∧
  decodeTableWord 64 0xFFFFFFFE8810002D = some (.bc ⟨.S, .always⟩ 2 true 0x3FFFFFFFA 0) ∧
  decodeTableWord 64 0xFFFFFFFF4861C109 = some (.add ⟨.S, .always⟩ .i32 .a (.imm 0xFFFFFFFFFFFFFFFD)) ∧
  decodeTableWord 96 0x3000000000000000087C0106 = some (.sta ⟨.M, .always⟩ .i32 ⟨.rel, .cl⟩ (.mem 6 .ind) .a) ∧
  decodeTableWord 64 0x000001908861C151 = some (.cmp ⟨.S, .always⟩ .i32 2 .a (.imm 100)) ∧
  decodeTableWord 64 0x000000002581F201 = some (.fadd ⟨.S, .th⟩ .f32 .a (.mem 3 .ind)) ∧
  decodeTableWord 64 0x000000026C71C225 = some (.fcvt ⟨.S, .always⟩ .bf16 .a .a .f32 .rne) ∧
  decodeTableWord 96 0x00000000000000020C435302 = some (.lp ⟨.M, .own⟩ 1 (.mem 0 (.disp 8))) ∧
  decodeTableWord 128 0x0080000000002000000000000C69430F = some (.pset ⟨.L, .always⟩ 4 (.imm 0x80000000002000)) ∧
  decodeTableWord 64 0x000000002512440D = some (.vfma ⟨.S, .always⟩ (.mem 1 .postInc) (.mem 2 .postInc)) ∧
  decodeTableWord 96 0x00060000000000003C93C502 = some (.vld ⟨.M, .always⟩ (.pb 3) ⟨.plain, .co⟩ (.mem 1 .postInc) 0) ∧
  decodeTableWord 64 0x00000004E473C515 = some (.vcmp ⟨.S, .always⟩ .f32 3 true .va .a) ∧
  decodeTableWord 64 0x4000004000060605 = some (.inv ⟨.S, .always⟩ .nc (.bytes 3 .ind (.nb 256))) ∧
  decodeTableWord 96 0x000200000000000B0000460E = some (.bank ⟨.M, .always⟩ 1 (.imm 1 12) true) ∧
  decodeTableWord 96 0x380000000000000002060662 = some (.cas64 ⟨.M, .always⟩ ⟨.ar, .cl⟩ (.mem 3 .ind) (.mem 4 .ind)) ∧
  decodeTableWord 128 0x0000000000000000000000400180070B = some (.fcopyOn ⟨.L, .always⟩ 0 (.mem 3 .ind) 256 0) ∧
  decodeTableWord 64 0x0000001000680741 = some (.landInit ⟨.S, .always⟩ (.mem 4 .ind) (.imm 64)) ∧
  decodeTableWord 96 0x000000000000001001C08806 = some (.mx ⟨.M, .always⟩ 2 (.mem 3 (.disp 64))) ∧
  decodeTableWord 64 0x0000000700600815 = some (.mchain .always 0 ⟨false, true, 3, 0⟩) ∧
  decodeTableWord 64 0xFFFFFFFB80610901 = some (.xclr ⟨.S, .always⟩ 4 (.imm 0xFFEE)) ∧
  decodeTableWord 64 0x0000002001008925 = some (.xrankIns ⟨.S, .always⟩ 2 .acc (.mem 2 .ind)) ∧
  decodeTableWord 128 0x0000122001000100000000000C600A03 = some (.ringInit ⟨.L, .always⟩ 0 (.imm 0x122001000100)) ∧
  decodeTableWord 64 0x0000000158318A21 = some (.barInit .always 3 (.imm 5)) ∧
  decodeTableWord 96 0x002A0000000000030001CB0A = some (.launch ⟨.M, .always⟩ (.imm 12) true 5) ∧
  decodeTableWord 96 0x000500020000000298018C0E = some (.wunr .always .ui32 (.imm 10) true 2 2) ∧
  decodeTableWord 64 0x000000040001CD09 = some (.rdsr .always .a 16) ∧
  decodeTableWord 64 0x0000000000000004 = none ∧
  decodeTableWord 64 0x0000000000000FFD = none

/-- R32: the decoder accepts a sequence of bytes exactly as the encoding of the instruction that it answers, so no two
sequences decode to one instruction and no bit of an accepted one is ignored. -/
def Obligations.AcceptedBytesAreTheEncoding : Prop :=
  ∀ (bs rest : List Byte) (i : Instr), decode bs = .ok (i, rest) → i.wf = true ∧ bs = encodeBytes i ++ rest

/-- R18 to R32: every well-formed instruction, with every operand at every value that its encoding admits, is what the
decoder reads from its encoding. -/
def Obligations.EncodeThenDecode : Prop :=
  ∀ (i : Instr) (rest : List Byte), i.wf = true → decode (encodeBytes i ++ rest) = .ok (i, rest)

/-- The model's form of a memory (log 4): every step keeps the locations strictly rising, with no entry equal to what an
unlisted location reads as, in the packages' memory and in the host's. -/
def Obligations.StepKeepsMemoryCanonical : Prop :=
  ∀ s t : State, Memory.wf s.mem = true → Memory.wf s.hostMem = true → step s = .next t →
    Memory.wf t.mem = true ∧ Memory.wf t.hostMem = true

/-- R467 and the model's choice (log 1, 4, 5): right after reset no package is powered, no thread runs, no group, grid or
mapping exists, nothing is in flight and every memory is in its canonical form. -/
def Obligations.ResetState : Prop :=
  Memory.wf State.reset.mem = true ∧ Memory.wf State.reset.hostMem = true ∧
  (∀ p, (State.reset.pkg p).phase = .off) ∧ (∀ k, (State.reset.thr k).live = false ∧ (State.reset.thr k).group = none) ∧
  (∀ k, (State.reset.thr k).vm = 0xFFFFFFFF ∧ (State.reset.thr k).f = {} ∧ (State.reset.thr k).a = 0) ∧
  State.reset.groups = [] ∧ State.reset.grids = [] ∧ State.reset.roots = [] ∧ State.reset.tows = [] ∧
  (∀ c, (State.reset.core c).path = [] ∧ (State.reset.clus c).outbox = [] ∧ (State.reset.clus c).channels = [] ∧
    (State.reset.clus c).wakeQ = [] ∧ (State.reset.pkg c).outbox = []) ∧
  State.reset.reports = [] ∧ State.reset.lost = [] ∧
  State.reset.codeMaps = [] ∧ State.reset.chans = [] ∧ State.reset.launches = [] ∧ State.reset.now = 0 ∧
  (∀ a, memGet State.reset.mem a = 0)

/-- The memory that a store writes (R79, R85: little-endian): what is read back is what was written, and every other
location reads as before; a cleared range reads as unlisted, which is 0 (log 4). -/
def Obligations.MemoryReadAfterWrite : Prop :=
  ∀ (m : Memory) (a : Nat) (bs : List Byte), Memory.wf m = true →
    Memory.wf (memWrite m a bs) = true ∧ memBytes (memWrite m a bs) a bs.length = bs ∧
    (∀ x, x < a ∨ a + bs.length ≤ x → memGet (memWrite m a bs) x = memGet m x) ∧
    (∀ n, Memory.wf (memClear m a n) = true ∧
      ∀ x, memGet (memClear m a n) x = if a ≤ x ∧ x < a + n then 0 else memGet m x) ∧
    (∀ v n, leVal (leBytes v n) = v % 2 ^ (8 * n))

/-- R188, R189: what one access of an instruction does, in the two kinds of turn that the model distinguishes (log 7, its own choice): a
lazy store enters the end of its core's path and changes no byte; an eager access of a scratchpad byte reads it, or changes
exactly the bytes that it names; a store that the near cache accepts stands there and not in memory. No other thread changes. -/
def Obligations.AccessEffects : Prop :=
  ∀ (a : Acc) (op : Word) (s t : State) (bs : List Byte), s.me.got[s.cursor]? = none → a.rel = none → Does (access a op) s bs t →
    (∀ k, k ≠ s.cur → isBank a.loc = true ∨ s.eager = false → a.near = false → t.thr k = s.thr k) ∧
    (s.eager = false → (∀ n, a.op ≠ .read n) → bs = [] ∧ t.mem = s.mem ∧
      ∃ m : Msg, (t.core s.myCore).path = (s.core s.myCore).path ++ [m] ∧ m.loc = a.loc ∧ m.op = a.op ∧ m.rel = none ∧
        m.thread = some s.cur) ∧
    (s.eager = true → isBank a.loc = true → a.near = false → s.landings = [] → s.locked a.loc = false → Memory.wf s.mem = true →
      let kept (n : Nat) : Prop := ∀ x, x < a.loc ∨ a.loc + n ≤ x → memGet t.mem x = memGet s.mem x
      (∀ n, a.op = .read n → bs = memBytes s.mem a.loc n ∧ t.mem = s.mem) ∧
      (∀ v, a.op = .write v → bs = [] ∧ memBytes t.mem a.loc v.length = v ∧ kept v.length) ∧
      (∀ f v, a.op = .rmw f v → bs = memBytes s.mem a.loc v.length ∧
        memBytes t.mem a.loc (f.apply bs v).length = f.apply bs v ∧ kept (f.apply bs v).length)) ∧
    (∀ v, a.op = .write v → s.eager = true → a.near = true → s.hasWay s.myClus = true → v ≠ [] → a.loc % 128 + v.length ≤ 128 →
      thas (s.core s.myCore).upd (lineOf a.loc) = false → t.mem = s.mem ∧
      lineBytes (t.near s.myClus (lineOf a.loc)).data (a.loc % 128) v.length = v)

/-- R137, R138, R133: the lane results of the two-operand vector instructions, in `va` or in memory; the exceptions of the active lanes
enter sys.fstat. A destination that is `va` takes the active lanes and keeps the inactive ones. When a result counts as tiny is the
reading of log 68. -/
def Obligations.VectorTwoOperandResults : Prop :=
  (∀ (h : Hdr) (ty : Ty) (dst src : Opnd) (s u1 u2 u3 : State) (d : VDest) (x y : Nat → W32),
    s.lets h.pred → Does (openVec dst s.me.vm ⟨true, true⟩ opA) s.issued d u1 → Does (readVDest d opA) u1 x u2 →
    Does (vecSrc src s.me.vm opB) u2 y u3 →
    let ends (i : Instr) (r : Nat → W32) (e : Nat → BitVec 5) : Prop :=
      ∀ t, Does (writeVDest d r opA) u3 () t →
        exec i s = .next ((t.raising (lanesExc s.me.vm e)).complete h.form.bytes none)
    let int (i : Instr) (r : W32 → W32 → W32) : Prop := ends i (fun j => r (x j) (y j)) (fun _ => 0)
    let fp (i : Instr) (f : FVal → FVal → FVal × BitVec 5) : Prop :=
      let v (j : Nat) : Nat × BitVec 5 := fmtF32.finish .rne (f (fmtF32.decode (x j).toNat) (fmtF32.decode (y j).toNat))
      ends i (fun j => BitVec.ofNat 32 (v j).1) (fun j => (v j).2)
    (ty.laneInt = true →
      int (.vadd h ty dst src) (· + ·) ∧ int (.vsub h ty dst src) (· - ·) ∧ int (.vmul h ty dst src) (· * ·) ∧
      int (.vand h ty dst src) (· &&& ·) ∧ int (.vor h ty dst src) (· ||| ·) ∧ int (.vxor h ty dst src) (· ^^^ ·) ∧
      int (.vshl h ty dst src) (fun a b => a <<< (b.toNat % 32))) ∧
    (ty = .i32 →
      int (.vmin h ty dst src) (fun a b => if b.slt a then b else a) ∧
      int (.vmax h ty dst src) (fun a b => if a.slt b then b else a) ∧
      int (.vshr h ty dst src) (fun a b => a.sshiftRight (b.toNat % 32))) ∧
    (ty = .ui32 →
      int (.vmin h ty dst src) (fun a b => if b < a then b else a) ∧
      int (.vmax h ty dst src) (fun a b => if a < b then b else a) ∧
      int (.vshr h ty dst src) (fun a b => a >>> (b.toNat % 32))) ∧
    (ty = .f32 →
      fp (.vadd h ty dst src) fAdd ∧ fp (.vsub h ty dst src) (fun a b => fAdd a b.neg) ∧ fp (.vmul h ty dst src) fMul ∧
      fp (.vmin h ty dst src) fMinNum ∧ fp (.vmax h ty dst src) fMaxNum)) ∧
  (∀ (s : State) (f : Nat → W32) (op : Word), ∃ t, Does (writeVDest .va f op) s () t ∧
    (∀ i, i < 32 → lane t.me.va i = if s.me.vm.getLsbD i then f i else lane s.me.va i) ∧
    t.me.a = s.me.a ∧ t.me.vm = s.me.vm ∧ t.me.f = s.me.f ∧ t.me.ptrs = s.me.ptrs ∧ { t with threads := s.threads } = s)

/-- R137, R138, R146, R148: the lane results of the one-operand vector instructions, and the special inputs of `vrcp`, `vrsq`, `vexp2`
and `vlog2` on ±0, ±∞, NaN and 1, with their exceptions. When a result counts as tiny is the reading of log 68. -/
def Obligations.VectorOneOperandResults : Prop :=
  (∀ (h : Hdr) (ty dty : Ty) (dst src : Opnd) (rm : Rm) (s u1 u2 : State) (d : VDest) (y : Nat → W32),
    s.lets h.pred → Does (openVec dst s.me.vm ⟨false, true⟩ opA) s.issued d u1 → Does (vecSrc src s.me.vm opB) u1 y u2 →
    let ends (i : Instr) (r : Nat → W32) (e : Nat → BitVec 5) : Prop :=
      ∀ t, Does (writeVDest d r opA) u2 () t →
        exec i s = .next ((t.raising (lanesExc s.me.vm e)).complete h.form.bytes none)
    let fp (i : Instr) (f : FVal → FVal × BitVec 5) : Prop :=
      let v (j : Nat) : Nat × BitVec 5 := fmtF32.finish .rne (f (fmtF32.decode (y j).toNat))
      ends i (fun j => BitVec.ofNat 32 (v j).1) (fun j => (v j).2)
    ends (.vmov h ty dst src) y (fun _ => 0) ∧
    ends (.vabs h .i32 dst src) (fun j => if (y j).msb then 0 - y j else y j) (fun _ => 0) ∧
    ends (.vneg h .i32 dst src) (fun j => 0 - y j) (fun _ => 0) ∧
    ends (.vabs h .f32 dst src) (fun j => y j &&& 0x7FFFFFFF) (fun _ => 0) ∧
    ends (.vneg h .f32 dst src) (fun j => y j ^^^ 0x80000000) (fun _ => 0) ∧
    fp (.vrcp h dst src) (fDiv (.fin false 1 1)) ∧ fp (.vrsq h dst src) fRsq ∧ fp (.vexp2 h dst src) fExp2 ∧
    fp (.vlog2 h dst src) fLog2 ∧
    (let v (j : Nat) : Nat × BitVec 5 × Bool := convert dty ty (.ofRm rm) (y j).toNat
     ends (.vcvt h dty dst src ty rm)
       (fun j => if dty.isInt then BitVec.ofNat 32 (v j).1 else widenLane dty (v j).1) (fun j => (v j).2.1))) ∧
  (let f (g : FVal → FVal × BitVec 5) (b : W32) : W32 × BitVec 5 := laneFun g b
  (f fRcp 0x00000000 = (0x7F800000, xDivZero) ∧ f fRcp 0x80000000 = (0xFF800000, xDivZero) ∧
    f fRcp 0x7F800000 = (0, 0) ∧ f fRcp 0xFF800000 = (0x80000000, 0) ∧ f fRcp 0x7FC00000 = (0x7FC00000, 0) ∧
    f fRcp 0x7F800001 = (0x7FC00000, xInvalid)) ∧
  (f fRsq 0x00000000 = (0x7F800000, xDivZero) ∧ f fRsq 0x80000000 = (0xFF800000, xDivZero) ∧
    f fRsq 0x7F800000 = (0, 0) ∧ f fRsq 0xFF800000 = (0x7FC00000, xInvalid) ∧ f fRsq 0xBF800000 = (0x7FC00000, xInvalid)) ∧
  (f fExp2 0x00000000 = (0x3F800000, 0) ∧ f fExp2 0x80000000 = (0x3F800000, 0) ∧ f fExp2 0x7F800000 = (0x7F800000, 0) ∧
    f fExp2 0xFF800000 = (0, 0)) ∧
  (f fLog2 0x00000000 = (0xFF800000, xDivZero) ∧ f fLog2 0x80000000 = (0xFF800000, xDivZero) ∧
    f fLog2 0x7F800000 = (0x7F800000, 0) ∧ f fLog2 0xFF800000 = (0x7FC00000, xInvalid) ∧
    f fLog2 0xBF800000 = (0x7FC00000, xInvalid) ∧ f fLog2 0x3F800000 = (0, 0)))

/-- R137, R144, R145, R147, R149, R150: the vector instructions that read lanes and write `va`, `vm`, `a` or flags. That N is set for a
result of -0 (`State.floated`) is the reading of log 47, and when a result counts as tiny that of log 68. -/
def Obligations.VectorMaskAndReductionResults : Prop :=
  (∀ (h : Hdr) (s1 s2 : Opnd) (s u1 u2 : State) (x y : Nat → W32),
    s.lets h.pred → Does (vecSrc s1 s.me.vm opA) s.issued x u1 → Does (vecSrc s2 s.me.vm opB) u1 y u2 →
    let v (i : Nat) : Nat × BitVec 5 :=
      fmtF32.finish .rne (fMulAdd (fmtF32.decode (x i).toNat) (fmtF32.decode (y i).toNat) (fmtF32.decode (lane s.me.va i).toNat))
    exec (.vfma h s1 s2) s =
      .next (((u2.withVa (mergeLanes u2.me.vm u2.me.va (fun i => BitVec.ofNat 32 (v i).1))).raising
        (lanesExc s.me.vm (fun i => (v i).2))).complete h.form.bytes none)) ∧
  (∀ (h : Hdr) (ty : Ty) (c : BitVec 4) (set : Bool) (s1 s2 : Opnd) (s u1 u2 : State) (x y : Nat → W32),
    ty.laneInt = true → c.toNat < 6 → s.lets h.pred →
    Does (vecSrc s1 (if set then 0xFFFFFFFF else s.me.vm) opA) s.issued x u1 →
    Does (vecSrc s2 (if set then 0xFFFFFFFF else s.me.vm) opB) u1 y u2 →
    ∃ vm : W32,
      (∀ i, i < 32 → vm.getLsbD i = ((set || s.me.vm.getLsbD i) &&
        (match c.toNat with
          | 0 => decide (laneVal ty (x i) = laneVal ty (y i)) | 1 => decide (laneVal ty (x i) ≠ laneVal ty (y i))
          | 2 => decide (laneVal ty (x i) < laneVal ty (y i)) | 3 => decide (laneVal ty (x i) ≥ laneVal ty (y i))
          | 4 => decide (laneVal ty (x i) ≤ laneVal ty (y i)) | _ => decide (laneVal ty (x i) > laneVal ty (y i))))) ∧
      exec (.vcmp h ty c set s1 s2) s =
        .next ((u2.modThr u2.cur (fun t =>
          { t with vm := vm, a := vm.setWidth 64, f := { t.f with z := decide (vm = 0), p := decide (vm ≠ 0) } })).complete
          h.form.bytes none)) ∧
  (∀ (h : Hdr) (c : BitVec 4) (set : Bool) (s1 s2 : Opnd) (s u1 u2 : State) (x y : Nat → W32),
    c.toNat < 8 → s.lets h.pred →
    Does (vecSrc s1 (if set then 0xFFFFFFFF else s.me.vm) opA) s.issued x u1 →
    Does (vecSrc s2 (if set then 0xFFFFFFFF else s.me.vm) opB) u1 y u2 →
    let X (i : Nat) : FVal := fmtF32.decode (x i).toNat
    let Y (i : Nat) : FVal := fmtF32.decode (y i).toNat
    let un (i : Nat) : Bool := (X i).isNan || (Y i).isNan
    let invalid (i : Nat) : Bool :=
      (X i).sNan || (Y i).sNan || (un i && decide (2 ≤ c.toNat) && decide (c.toNat ≤ 5))
    ∃ vm : W32,
      (∀ i, i < 32 → vm.getLsbD i = ((set || s.me.vm.getLsbD i) &&
        (match c.toNat with
          | 0 => fEq (X i) (Y i) | 1 => !fEq (X i) (Y i) | 2 => fLt false (X i) (Y i)
          | 3 => fLt false (Y i) (X i) || fEq (X i) (Y i) | 4 => fLt false (X i) (Y i) || fEq (X i) (Y i)
          | 5 => fLt false (Y i) (X i) | 6 => un i | _ => !un i))) ∧
      exec (.vcmp h .f32 c set s1 s2) s =
        .next (((u2.modThr u2.cur (fun t =>
          { t with vm := vm, a := vm.setWidth 64, f := { t.f with z := decide (vm = 0), p := decide (vm ≠ 0) } })).raising
          (lanesExc s.me.vm (fun i => if invalid i then xInvalid else 0))).complete h.form.bytes none)) ∧
  (∀ (h : Hdr) (ty : Ty) (s1 s2 : Opnd) (s u1 u2 : State) (x y : Nat → W32),
    s.lets h.pred → Does (vecSrc s1 0xFFFFFFFF opA) s.issued x u1 → Does (vecSrc s2 0xFFFFFFFF opB) u1 y u2 →
    ∃ va, (∀ i, i < 32 → lane va i = if s.me.vm.getLsbD i then x i else y i) ∧
      exec (.vsel h ty s1 s2) s = .next ((u2.withVa va).complete h.form.bytes none)) ∧
  (∀ (h : Hdr) (src : Opnd) (s u : State) (y : Nat → W32),
    s.lets h.pred → Does (vecSrc src s.me.vm opB) s.issued y u → u.me.vm = s.me.vm → u.me.va = s.me.va →
    ∃ va, (∀ i, i < 32 → lane va i = if s.me.vm.getLsbD i then lane s.me.va ((y i).toNat % 32) else lane s.me.va i) ∧
      exec (.vperm h src) s = .next ((u.withVa va).complete h.form.bytes none)) ∧
  (∀ (h : Hdr) (src : Opnd) (s u : State) (y : Nat → W32),
    s.lets h.pred → Does (vecSrc src s.me.vm opB) s.issued y u →
    let ends (i : Instr) (ty : Ty) (r : Nat) : Prop :=
      exec i s = .next (((u.withA (extendTo ty r)).flagged 32 r false false).complete h.form.bytes none)
    let xs := (activeLanes s.me.vm).map y
    (∃ r : W32, ends (.vredmax h .ui32 src) .ui32 r.toNat ∧ (xs = [] → r = 0) ∧ (xs ≠ [] → r ∈ xs) ∧
      ∀ x ∈ xs, x.toNat ≤ r.toNat) ∧
    (∃ r : W32, ends (.vredmin h .ui32 src) .ui32 r.toNat ∧ (xs = [] → r = 0xFFFFFFFF) ∧ (xs ≠ [] → r ∈ xs) ∧
      ∀ x ∈ xs, r.toNat ≤ x.toNat) ∧
    (∃ r : W32, ends (.vredmax h .i32 src) .i32 r.toNat ∧ (xs = [] → r = 0x80000000) ∧ (xs ≠ [] → r ∈ xs) ∧
      ∀ x ∈ xs, x.toInt ≤ r.toInt) ∧
    (∃ r : W32, ends (.vredmin h .i32 src) .i32 r.toNat ∧ (xs = [] → r = 0x7FFFFFFF) ∧ (xs ≠ [] → r ∈ xs) ∧
      ∀ x ∈ xs, r.toInt ≤ x.toInt) ∧
    (let r := redFp fMaxNum xs
     exec (.vredmax h .f32 src) s =
       .next ((((u.withA (extendTo .f32 r.1)).floated .f32 r.1).raising r.2).complete h.form.bytes none)) ∧
    (let r := redFp fMinNum xs
     exec (.vredmin h .f32 src) s =
       .next ((((u.withA (extendTo .f32 r.1)).floated .f32 r.1).raising r.2).complete h.form.bytes none)) ∧
    (∀ scale : BitVec 16,
      let e := sumEntry scale.toInt xs
      let r := readEntry .f32 .rne scale.toInt e
      let ranged (t : State) (b : Bool) : State := if b then t.modGrp t.myGrp (fun g => { g with rstat := true }) else t
      let i := if e.f then -(2 ^ 63) else max (-(2 ^ 63)) (min e.i.toInt (2 ^ 63 - 1))
      let v := e.f || decide (e.i.toInt ≠ i)
      exec (.vxsum h .f32 src false scale) s =
        .next ((ranged (((u.withA (extendTo .f32 r.1)).floated .f32 r.1).raising r.2.1) r.2.2).complete h.form.bytes none) ∧
      exec (.vxsum h .f32 src true scale) s =
        .next ((ranged ((u.withA (BitVec.ofInt 64 i)).flagged 64 (BitVec.ofInt 64 i).toNat false v) e.f).complete
          h.form.bytes none)) ∧
    (∀ ty, ty = .i32 ∨ ty = .ui32 →
      let sum : Int := (xs.map (fun x => if ty = .i32 then x.toInt else (x.toNat : Int))).sum
      exec (.vxsum h ty src false 0) s =
        .next (((u.withA (BitVec.ofInt 64 sum)).flagged 64 (BitVec.ofInt 64 sum).toNat false false).complete
          h.form.bytes none)))

/-- R141, R142, R143: loads, stores, gathers, scatters and broadcasts of vectors, on pieces that have been translated: `vld` and `vldx`
write the active lanes widened, `vst` and `vstx` the active elements narrowed. The order of their element accesses, and which lane's fault
is delivered, are the model's choice (log 70), and the line bits of a `vldx` without an active lane are free (log 69); the exceptions of a
narrowed value are read as in log 68. -/
def Obligations.VectorMemoryResults : Prop :=
  (∀ (h : Hdr) (ty : Ty) (q : Qual) (n : BitVec 3) (m : MemMode) (site : BitVec 16) (s u1 u2 u3 u4 : State) (x : Addr)
      (ps : List Piece) (v : Nat),
    s.lets h.pred → Does (vecAddr n m ty opB) s.issued x u1 →
    Does (locateParts x ⟨true, false⟩ opB (vecParts ty s.me.vm)) u1 ps u2 → Does (loadPieces q opB ps) u2 v u3 →
    Does (acqPart q) u3 () u4 →
    ∃ b, exec (.vld h ty q (.mem n m) site) s =
      .next (((u4.withVa (mergeLanes u4.me.vm u4.me.va (laneOfMem ty v))).noted site (.load b (x.extractLsb' 7 16))).complete
        h.form.bytes none)) ∧
  (∀ (h : Hdr) (ty : Ty) (q : Qual) (n : BitVec 3) (m : MemMode) (sr : Bool) (s u1 u2 u3 u4 : State) (x : Addr)
      (ps : List Piece),
    s.lets h.pred → ty ≠ .f4 → Does (vecAddr n m ty opA) s.issued x u1 →
    (s.me.vm = 0 → exec (.vst h ty q (.mem n m) sr) s = .next (u1.complete h.form.bytes none)) ∧
    (s.me.vm ≠ 0 →
      Does (locateParts x ⟨false, true⟩ opA (vecParts ty (if ty.isPb then 0xFFFFFFFF else s.me.vm))) u1 ps u2 →
      Does (relOnce q) u2 () u3 →
      let md (i : Nat) : Mode := if sr then .srOf s.me.a (BitVec.ofNat 64 i) (s.me.lc.setWidth 64) else .rne
      let v := narrowVec ty md s.me
      Does (storePieces q v.1 opA [] ps) u3 () u4 →
      exec (.vst h ty q (.mem n m) sr) s = .next ((u4.raising v.2).complete h.form.bytes none))) ∧
  (∀ (h : Hdr) (q : Qual) (n : BitVec 3) (m : MemMode) (sr : Bool) (s u1 a1 u2 u3 u4 : State) (x : Addr)
      (rs ps : List Piece) (old : Nat),
    s.lets h.pred → s.me.vm ≠ 0 → Does (vecAddr n m .f4 opA) s.issued x u1 →
    Does (locateBoth x opA (partBytes .f4 s.me.vm) (vecParts .f4 s.me.vm)) u1 (rs, ps) a1 →
    Does (loadPieces ⟨.plain, .co⟩ opA rs) a1 old u2 → Does (relOnce q) u2 () u3 →
    let md (i : Nat) : Mode := if sr then .srOf s.me.a (BitVec.ofNat 64 i) (s.me.lc.setWidth 64) else .rne
    let v := narrowVec .f4 md s.me
    Does (storePieces q (v.1 + keptNibbles s.me.vm old) opA [] ps) u3 () u4 →
    exec (.vst h .f4 q (.mem n m) sr) s = .next ((u4.raising v.2).complete h.form.bytes none)) ∧
  (∀ (h : Hdr) (ty : Ty) (n : BitVec 3) (site : BitVec 16) (s u1 u2 u3 : State) (ps : List Piece) (v : Nat),
    s.lets h.pred →
    let e := tyBytes ty
    let xs := gatherAt (ptrAddr (s.me.ptr n)) e s.me
    Does (alignAll e opB xs) s.issued () u1 → Does (locateLanes e ⟨true, false⟩ opB xs) u1 ps u2 →
    Does (loadPieces ⟨.plain, .co⟩ opB ps) u2 v u3 →
    let t := u3.withVa (mergeLanes u3.me.vm u3.me.va (fun i => widenLane ty (rawElem ty v i)))
    (∀ p rest, ps = p :: rest →
      ∃ b, exec (.vldx h ty n site) s = .next ((t.noted site (.load b (p.va.extractLsb' 7 16))).complete h.form.bytes none)) ∧
    (ps = [] → ∃ w, exec (.vldx h ty n site) s =
      .next ((if site = 0 then t else ({ t with tick := t.tick + 1 } : State).noted site (.load false w)).complete h.form.bytes none))) ∧
  (∀ (h : Hdr) (ty : Ty) (n : BitVec 3) (src : Opnd) (s u1 u2 u3 u4 : State) (ps : List Piece) (y : Nat → W32),
    s.lets h.pred →
    let e := tyBytes ty
    let xs := gatherAt (ptrAddr (s.me.ptr n)) e s.me
    Does (alignAll e opA xs) s.issued () u1 → Does (locateLanes e ⟨false, true⟩ opA xs) u1 ps u2 →
    Does (vecSrc src s.me.vm opB) u2 y u3 →
    let v := packLanes ty (fun _ => .rne) y (activeLanes s.me.vm)
    Does (storePieces ⟨.plain, .co⟩ v.1 opA [] ps) u3 () u4 →
    exec (.vstx h ty n src) s = .next ((u4.raising v.2).complete h.form.bytes none)) ∧
  (∀ (h : Hdr) (ty : Ty) (src : Opnd) (s u : State) (v : Word),
    s.lets h.pred → Does (readSrc src (tyBytes ty) opB) s.issued v u →
    exec (.vbc h ty src) s =
      .next ((u.withVa (mergeLanes u.me.vm u.me.va (fun _ => widenLane ty (lowOf ty v)))).complete h.form.bytes none))

/-- R206, R207, R208: fences write no register; `ifence` drops the fetch buffer and the code lines of the core; `ldq` fills
lanes 0 to 3 and keeps the others, `stq` stores them. -/
def Obligations.FencesAndQuads : Prop :=
  (∀ (p : Pred) (q : Qual) (s u t : State), s.lets p → Does (relPart q) s.issued () u → Does (acqPart q) u () t →
    exec (.fence p q) s = .next (t.complete 12 none)) ∧
  (∀ (p : Pred) (s : State), s.lets p → s.inFlight s.cur = false →
    exec (.ifence p) s =
      .next (((s.issued.modThr s.cur (fun t => { t with block := none })).modCore s.myCore
        (fun c => { c with codeLines := [] })).complete 8 none)) ∧
  (∀ (h : Hdr) (q : Qual) (n : BitVec 3) (m : MemMode) (s u1 u2 u3 : State) (x : Addr) (loc : Nat) (uc : Bool)
      (bs : List Byte),
    s.lets h.pred → Does (quadAddr n m opB) s.issued x u1 → Does (locate x 16 ⟨true, false⟩ opB) u1 (loc, uc) u2 →
    Does (loadAt q loc uc x 16 opB) u2 bs u3 →
    ∃ va, exec (.ldq h q (.mem n m)) s = .next ((u3.withVa va).complete h.form.bytes none) ∧
      va.extractLsb' 0 128 = BitVec.ofNat 128 (leVal bs) ∧ va.extractLsb' 128 896 = u3.me.va.extractLsb' 128 896) ∧
  (∀ (h : Hdr) (q : Qual) (n : BitVec 3) (m : MemMode) (s u1 u2 u3 : State) (x : Addr) (loc : Nat) (uc : Bool),
    s.lets h.pred → Does (quadAddr n m opA) s.issued x u1 → Does (locate x 16 ⟨false, true⟩ opA) u1 (loc, uc) u2 →
    Does (storeQ q loc uc x (leBytes (u2.me.va.extractLsb' 0 128).toNat 16) 4 opA) u2 () u3 →
    exec (.stq h q (.mem n m)) s = .next (u3.complete h.form.bytes none))

/-- R209, R210, R211, R212, R213: an atomic leaves the old value in `a` (or lanes 0 to 3) with its flags; compare and swap sets P when
the old value was the expected one; `uadd` changes no register; and what a read-modify-write leaves at its home, on n bytes. -/
def Obligations.AtomicResults : Prop :=
  ((∀ (h : Hdr) (ty : Ty) (q : Qual) (tgt src : Opnd) (s u1 u2 : State) (loc : Nat) (uc : Bool) (x : Addr) (v : Word),
    ty.isInt = true → s.lets h.pred → Does (target tgt (tyBytes ty)) s.issued (loc, uc, x) u1 →
    Does (readSrc src (tyBytes ty) opB) u1 v u2 →
    let ends (i : Instr) (f : Rmw) : Prop :=
      ∀ bs t, Does (atomicStep q loc x f (leBytes v.toNat (tyBytes ty)) 1) u2 bs t →
        exec i s =
          .next (((t.withA (extendTo ty (leVal bs))).flagged ty.bits (leVal bs) false false).complete h.form.bytes none)
    ends (.amoAdd h ty q tgt src) .add ∧ ends (.amoAnd h ty q tgt src) .and ∧ ends (.amoOr h ty q tgt src) .or ∧
    ends (.amoXor h ty q tgt src) .xor ∧ ends (.amoSwap h ty q tgt src) .swap ∧
    (Ty.signedInt ty = true → ends (.amoMin h ty q tgt src) .minS ∧ ends (.amoMax h ty q tgt src) .maxS) ∧
    (Ty.signedInt ty = false → ends (.amoMin h ty q tgt src) .minU ∧ ends (.amoMax h ty q tgt src) .maxU) ∧
    (uc = true → ∀ bs t,
      Does (access { loc := loc, va := x, op := .rmw .add (leBytes v.toNat (tyBytes ty)), posted := true } opA) u2 bs t →
      exec (.uadd h ty tgt src) s = .next (t.complete h.form.bytes none)) ∧
    (uc = false → thas (u2.core u2.myCore).upd (lineOf loc) = true → u2.me.got = [] →
      u2.linePending u2.cur (lineOf loc) = false →
      exec (.uadd h ty tgt src) s =
        .next ((u2.contributeLine u2.myCore (lineOf loc) { off := loc % 128, n := tyBytes ty, v := v }).complete
          h.form.bytes none)) ∧
    (uc = false → thas (u2.core u2.myCore).upd (lineOf loc) = false → ∀ bs t,
      Does (access { loc := loc, va := x, op := .claim { off := loc % 128, n := tyBytes ty, v := v } } opA) u2 bs t →
      exec (.uadd h ty tgt src) s = .next (t.complete h.form.bytes none))) ∧
  (∀ (h : Hdr) (q : Qual) (tgt src : Opnd) (s u1 u2 t : State) (loc : Nat) (uc : Bool) (x : Addr) (v : Word)
      (old : List Byte),
    s.lets h.pred → Does (target tgt 8) s.issued (loc, uc, x) u1 → Does (readSrc src 8 opB) u1 v u2 →
    Does (atomicStep q loc x (.cas (leBytes u2.me.a.toNat 8)) (leBytes v.toNat 8) 2) u2 old t →
    let ok := decide (leWord old = u2.me.a)
    exec (.cas64 h q tgt src) s =
      .next (((t.withA (leWord old)).withFlags
        (fun f => { f with p := ok, z := ok, n := false, c := false, v := false })).complete h.form.bytes none)) ∧
  (∀ (h : Hdr) (q : Qual) (tgt : Opnd) (s u t : State) (loc : Nat) (uc : Bool) (x : Addr) (old : List Byte),
    s.lets h.pred → Does (target tgt 16) s.issued (loc, uc, x) u →
    let e := leBytes (u.me.va.extractLsb' 0 128).toNat 16
    Does (atomicStep q loc x (.cas e) (leBytes (u.me.va.extractLsb' 128 128).toNat 16) 3) u old t →
    ∃ va, va.extractLsb' 0 128 = BitVec.ofNat 128 (leVal old) ∧ va.extractLsb' 128 896 = t.me.va.extractLsb' 128 896 ∧
      exec (.cas128 h q tgt) s =
        .next (((t.withVa va).withFlags
          (fun f => { f with p := decide (old = e), z := decide (old = e), n := false, c := false, v := false })).complete
          h.form.bytes none)) ∧
  (∀ (h : Hdr) (q : Qual) (tgt src : Opnd) (s u1 u2 t : State) (loc : Nat) (uc : Bool) (x : Addr) (v : Word) (b : Byte),
    s.lets h.pred → Does (target tgt 1) s.issued (loc, uc, x) u1 → Does (readSrc src 1 opB) u1 v u2 →
    Does (atomicStep q loc x (.nib (v.getLsbD 4)) (leBytes v.toNat 1) 1) u2 [b] t →
    let nib : BitVec 4 := if v.getLsbD 4 then b.extractLsb' 4 4 else b.extractLsb' 0 4
    exec (.amoNib h q tgt src) s =
      .next (((t.withA (b.setWidth 64)).withFlags
        (fun f => { f with z := decide (nib = 0), n := false, c := false, v := false })).complete h.form.bytes none))) ∧
  (∀ (n : Nat) (x y : Nat), 0 < n → x < 2 ^ (8 * n) → y < 2 ^ (8 * n) →
    let o := leBytes x n
    let v := leBytes y n
    let s (z : Nat) : Int := (BitVec.ofNat (8 * n) z).toInt
    Rmw.apply .add o v = leBytes ((x + y) % 2 ^ (8 * n)) n ∧ Rmw.apply .and o v = leBytes (x &&& y) n ∧
    Rmw.apply .or o v = leBytes (x ||| y) n ∧ Rmw.apply .xor o v = leBytes (x ^^^ y) n ∧ Rmw.apply .swap o v = v ∧
    Rmw.apply .minU o v = leBytes (min x y) n ∧ Rmw.apply .maxU o v = leBytes (max x y) n ∧
    Rmw.apply .minS o v = leBytes (if s y < s x then y else x) n ∧
    Rmw.apply .maxS o v = leBytes (if s x < s y then y else x) n ∧
    (∀ e, e < 2 ^ (8 * n) → Rmw.apply (.cas (leBytes e n)) o v = leBytes (if x = e then y else x) n) ∧
    (∀ a b : Byte, Rmw.apply (.nib false) [a] [b] = [(a &&& 0xF0) ||| (b &&& 0x0F)] ∧
      Rmw.apply (.nib true) [a] [b] = [(a &&& 0x0F) ||| (b <<< 4)]))

/-- R175 to R181: `pf` puts the range's lines into the prefetch queue as far as there is room; after `inv`, `wbk` and `tlbinv` nothing
of the range is left where each acts, in a thread with no access under way; a prefetch queue gives up its first line and brings
it, or queues a walk; a walker takes a waiting miss; a walk that ends satisfies its threads and its engine accesses, with its leaf
in the cluster TLB, unless a `tlbinv` since has named bytes of the leaf's page, or with its fault. -/
def Obligations.RangesAndTranslation : Prop :=
  (∀ (h : Hdr) (tgt : CacheTgt) (r : Range) (s u : State) (x : Addr) (n : Nat),
    s.lets h.pred → Does (rangeOf r) s.issued (x, n) u →
    (let ls : List PfLine := (coverLines x n).map (fun l => PfLine.mk u.myGrp l tgt)
     let cut (q : List PfLine) : List PfLine := (q ++ ls).take (max 256 q.length)
     exec (.pf h tgt r) s = .next ((u.modCore u.myCore (fun k =>
      { k with prefetch := cut k.prefetch })).complete h.form.bytes none)) ∧
    (u.inFlight u.cur = false → u.writebacksOut u.myClus = false →
      let p := u.rangeTest r x n
      (∃ t, exec (.inv h tgt r) s = .next t ∧ ∀ line, p line = true →
        thas (t.core u.myCore).l1 line = false ∧ thas (t.core u.myCore).upd line = false ∧
        (tgt = .nc → thas (t.clus u.myClus).near line = false)) ∧
      (∃ t, exec (.wbk h tgt r) s = .next t ∧ ∀ line, p line = true →
        thas (t.core u.myCore).upd line = false ∧ (tgt = .nc → (t.near u.myClus line).dirty = 0))) ∧
    (∃ t, exec (.tlbinv h r) s = .next t ∧
      let hit (l : Leaf) : Prop := r = .all ∨ (n ≠ 0 ∧ l.va < x.toNat + n ∧ x.toNat < l.va + 2 ^ l.size)
      (∀ l, l ∈ (t.clus u.myClus).tlb ↔ l ∈ (u.clus u.myClus).tlb ∧ ¬ hit l) ∧
      (∀ i, i < 16 → ∀ l, l ∈ (t.core (u.myClus * 16 + i)).utlb ↔ l ∈ (u.core (u.myClus * 16 + i)).utlb ∧ ¬ hit l) ∧
      t.mem = u.mem)) ∧
  ((∀ (core : Nat) (p : PfLine) (ps : List PfLine) (s : State), (s.core core).prefetch = p :: ps →
    let ck := clusterOf core
    let root := s.rootOf p.group
    ∃ t, exec (.prefetchLineLookup core) s = .next t ∧ (t.core core).prefetch = ps ∧
      (p.va.getLsbD 55 = false → (s.clus ck).tlb.find? (fun l => l.covers root p.va.toNat) = none →
        (s.clus ck).misses.length < 512 →
        ∃ m ∈ (t.clus ck).misses, m.root = root ∧ m.key = p.va.toNat / 2 ^ 16) ∧
      (∀ l pa, p.va.getLsbD 55 = false → (s.clus ck).tlb.find? (fun l => l.covers root p.va.toNat) = some l →
        s.leafCheck l p.va.toNat (packageOf ck) ⟨true, false⟩ = .ok pa → l.uc = false → p.tgt = .l1 →
        thas (s.core core).upd (lineOf pa) = false → s.flaws = [] → s.poison = [] →
        thas (t.core core).l1 (lineOf pa) = true)) ∧
  (∀ (package die ck : Nat) (x : Miss) (s : State), die < 4 → ck / 16 = package * 4 + die →
    x ∈ (s.clus ck).misses → x.started = false →
    ((s.pkg package).walks.filter (fun w => w.cluster / 16 == package * 4 + die)).length < 64 →
    ∃ t c m, exec (.walkStart package die) s = .next t ∧ c / 16 = package * 4 + die ∧ m ∈ (s.clus c).misses ∧
      m.started = false ∧ (x.low = false → m.low = false) ∧
      (t.pkg package).walks = (s.pkg package).walks ++ [{ cluster := c, root := m.root, key := m.key }] ∧
      (∀ y ∈ (t.clus c).misses, y.root = m.root → y.key = m.key → y.started = true)) ∧
  (∀ (cluster root key : Nat) (m : Miss) (s : State),
    (s.clus cluster).misses.find? (fun m => m.root == root && m.key == key && m.started) = some m →
    ∃ t, exec (.walkComplete cluster root key) s = .next t ∧
      (∀ k ∈ m.threads, (s.thr k).wait = .walk →
        (t.thr k).wait = .ready ∧ (t.thr k).walked = some (key, s.walk root (key * 2 ^ 16))) ∧
      (∀ y ∈ (t.clus cluster).misses, ¬ (y.root = root ∧ y.key = key)) ∧
      (∀ e ∈ m.eng, (root, e, s.walk root (key * 2 ^ 16)) ∈ (t.clus cluster).engWalked) ∧
      (∀ l, s.walk root (key * 2 ^ 16) = .leaf l → (∀ d ∈ m.drops, ¬ (l.va < d.1 + d.2 ∧ d.1 < l.va + 2 ^ l.size)) →
        l ∈ (t.clus cluster).tlb) ∧ t.mem = s.mem))

/-- R182, R183, R169: `bank` queues a switch behind the earlier ones and makes its handle pending; its refusals; what `bankq` reports; the
switch that takes effect, with its handle complete and a zero-filled scratchpad zero. Which operations name a bank is the reading of log
76. -/
def Obligations.BankSwitching : Prop :=
  (∀ (h : Hdr) (hn : BitVec 3) (arg : BankArg) (z : Bool) (s : State), s.lets h.pred →
    let mb := match arg with
      | .imm m b => (m, b.toNat)
      | .acc => (s.me.a.extractLsb' 5 2, (s.me.a.extractLsb' 0 5).toNat)
    let bk := s.bank s.myClus mb.2
    let fails (c : BitVec 10) : Prop := exec (.bank h hn arg z) s = .next (s.issued.takeTrap s.cur c 0 none none 0)
    (mb.1 = 3 ∨ mb.2 < 4 ∨ bk.group = none ∨ bk.group ≠ s.me.group → fails 0x110) ∧
    (mb.1 ≠ 3 → 4 ≤ mb.2 → bk.group ≠ none → bk.group = s.me.group →
      (bk.port ≠ none → fails 0x111) ∧
      (bk.port = none → bk.ring ≠ none ∨ s.bankArmed s.myClus mb.2 = true → fails 0x112) ∧
      (bk.port = none → bk.ring = none → s.bankArmed s.myClus mb.2 = false →
        ∃ t, exec (.bank h hn arg z) s = .next t ∧ (t.me.handle hn).st = .pending ∧
          (t.me.handle hn).seq = (s.me.handle hn).seq + 1 ∧
          (t.bank s.myClus mb.2).mode = bk.mode ∧
          (t.bank s.myClus mb.2).queue = bk.queue ++ [Switch.mk (if mb.1 = 0 then .nc else if mb.1 = 1 then .sp else .fifo) z
            (some (s.cur, hn.toNat, (s.me.handle hn).seq + 1)) (s.issued.opsNaming s.myClus mb.2)]))) ∧
  (∀ (p : Pred) (j : NumArg 5) (s : State), s.lets p →
    let n := match j with | .imm v => v.toNat | .acc => (s.me.a.extractLsb' 0 5).toNat
    let g := s.grp s.myGrp
    let valid := decide (n < g.banks.length)
    ∃ v : Word, exec (.bankq p j) s =
        .next (((s.issued.withA v).withFlags (fun f => { f with z := !valid, n := false, c := false, v := false })).complete
          8 none) ∧
      v.getLsbD 15 = valid ∧ (v.extractLsb' 16 48).toNat = g.banks.length % 2 ^ 48 ∧
      (valid = false → v.extractLsb' 0 15 = 0) ∧
      ∀ b, g.banks[n]? = some b → v.extractLsb' 0 5 = BitVec.ofNat 5 b ∧
        v.extractLsb' 5 2 = (match (s.bank g.cluster b).mode with | .nc => 0 | .sp => 1 | .fifo => 2) ∧
        (∀ c q, (s.bank g.cluster b).port = some (c, q) → v.extractLsb' 9 2 = BitVec.ofNat 2 q) ∧ v.extractLsb' 12 3 = 0 ∧
        v.getLsbD 7 = !(s.bank g.cluster b).queue.isEmpty ∧ v.getLsbD 8 = (s.bank g.cluster b).port.isSome ∧
        v.getLsbD 11 = (s.bank g.cluster b).ring.isSome) ∧
  (∀ (c b : Nat) (q : Switch) (qs : List Switch) (s : State), (s.bank c b).queue = q :: qs →
    (s.bank c b).port = none → s.switchWaits c b q = false →
    ∃ t, exec (.bankSwitchComplete c b) s = .next t ∧ (t.bank c b).mode = q.mode ∧ (t.bank c b).queue = qs ∧
      (t.bank c b).group = (s.bank c b).group ∧
      (q.mode = .sp → q.z = true → ∀ o, o < 2 ^ 19 → memGet t.mem (bankLoc c b o) = 0) ∧
      ∀ k (n : BitVec 3) seq, q.handle = some (k, n.toNat, seq) → (s.thr k).group = some ((s.bank c b).group.getD 0) →
        ((s.thr k).handle n).seq = seq → ((s.thr k).handle n).st = .pending → ((t.thr k).handle n).st = .complete)

/-- R188, R189, R195, R200: the reference machine's own steps at an L1, a near cache, a core path, a channel and a home.
Each does what R188 gives it and keeps the order of its queue; a message of an engine or of the host enters its channel as a core's
does; a home that cannot perform an access answers it with the error. -/
def Obligations.ReferenceMachineSteps : Prop :=
  (∀ (core line : Nat) (s : State),
    exec (.l1Drop core line) s =
      .next (s.modCore core (fun k => { k with l1 := tdel k.l1 line, codeLines := tdel k.codeLines line }))) ∧
  (∀ (core : Nat) (m : Msg) (ms : List Msg) (bs : List Byte) (s : State), (s.core core).path = m :: ms →
    m.op = .write bs → m.near = true → s.hasWay (clusterOf core) = true → s.lineSent core m = false → bs ≠ [] →
    m.loc % 128 + bs.length ≤ 128 →
    ∃ t, exec (.nearCacheAccept core) s = .next t ∧ (t.core core).path = ms ∧
      lineBytes (t.near (clusterOf core) (lineOf m.loc)).data (m.loc % 128) bs.length = bs ∧
      ∀ i, i < bs.length → (t.near (clusterOf core) (lineOf m.loc)).valid.getLsbD (m.loc % 128 + i) = true ∧
        (t.near (clusterOf core) (lineOf m.loc)).dirty.getLsbD (m.loc % 128 + i) = true) ∧
  (∀ (core n k i : Nat) (m : Msg) (ms : List Msg) (s : State), (s.core core).path = m :: ms →
    m.op = .read n → m.near = true → s.nearHolds (clusterOf core) m.loc n = true → s.lineSent core m = false →
    thas (s.core core).upd (lineOf m.loc) = false → m.thread = some k → m.reply = some i → i < (s.thr k).got.length →
    ∃ t, exec (.nearCacheRead core) s = .next t ∧ (t.core core).path = ms ∧ t.mem = s.mem ∧
      (t.thr k).got[i]? = some (some (lineBytes (s.near (clusterOf core) (lineOf m.loc)).data (m.loc % 128) n))) ∧
  (∀ (cluster line : Nat) (s : State), (s.near cluster line).dirty ≠ 0 →
    let h := s.homeOf (line * 128)
    ∃ t, exec (.nearCacheWriteback cluster line) s = .next t ∧ (t.near cluster line).dirty = 0 ∧ t.mem = s.mem ∧
      t.chan (.near cluster) h = s.chan (.near cluster) h ++
        [{ loc := line * 128, op := .masked (dirtyBytes (s.near cluster line)), core := cluster * 16, cycle := s.now }]) ∧
  (∀ (cluster loc : Nat) (s : State), (s.near cluster (lineOf loc)).dirty.getLsbD (loc % 128) = false →
    ∃ t, exec (.nearCacheDrop cluster loc) s = .next t ∧ (t.near cluster (lineOf loc)).valid.getLsbD (loc % 128) = false ∧
      t.mem = s.mem) ∧
  (∀ (core : Nat) (m : Msg) (ms : List Msg) (s : State), (s.core core).path = m :: ms → s.leaves core m = true →
    ∃ t, exec (.send (.core core)) s = .next t ∧ (t.core core).path = ms ∧ t.mem = s.mem ∧
      t.chan (.core core) (s.homeOf m.loc) = s.chan (.core core) (s.homeOf m.loc) ++ [m]) ∧
  (∀ (src : Src) (home : HomeId) (m : Msg) (ms : List Msg) (s : State), s.chan src home = m :: ms →
    s.afterWriteback src home m = false → m.host = none → m.beat = none → s.homeError m = none → s.locked m.loc = false →
    isBank m.loc = true → m.near = false → m.rel = none → s.landings = [] → Memory.wf s.mem = true →
    ∃ t, exec (.deliver src home) s = .next t ∧ t.chan src home = ms ∧
      (∀ n k i, m.op = .read n → m.thread = some k → m.reply = some i → i < (s.thr k).got.length →
        t.mem = s.mem ∧ (t.thr k).got[i]? = some (some (memBytes s.mem m.loc n))) ∧
      (∀ bs, m.op = .write bs → memBytes t.mem m.loc bs.length = bs ∧
        ∀ a, a < m.loc ∨ m.loc + bs.length ≤ a → memGet t.mem a = memGet s.mem a)) ∧
  (∀ (src : Src) (home : HomeId) (m : Msg) (ms : List Msg) (k i : Nat) (c : BitVec 10) (s : State), s.chan src home = m :: ms →
    s.afterWriteback src home m = false → m.host = none → m.beat = none → m.rel = none → m.thread = some k → m.reply = some i →
    s.homeError m = some c →
    ∃ t, exec (.deliver src home) s = .next t ∧ t.chan src home = ms ∧ t.mem = s.mem ∧ (t.thr k).err = some (i, c)) ∧
  ((∀ (ck : Nat) (m : Msg) (ms : List Msg) (s : State), (s.clus ck).outbox = m :: ms →
    ∃ t, exec (.send (.engine ck)) s = .next t ∧ (t.clus ck).outbox = ms ∧ t.mem = s.mem ∧
      t.chan (.engine ck) (s.homeOf m.loc) = s.chan (.engine ck) (s.homeOf m.loc) ++ [m]) ∧
    (∀ (p : Nat) (m : Msg) (ms : List Msg) (s : State), (s.pkg p).outbox = m :: ms →
      ∃ t, exec (.send (.host p)) s = .next t ∧ (t.pkg p).outbox = ms ∧ t.mem = s.mem ∧
        t.chan (.host p) (s.homeOf m.loc) = s.chan (.host p) (s.homeOf m.loc) ++ [m])) ∧
  (∀ (src : Src) (home : HomeId) (m : Msg) (ms : List Msg) (x : Scope) (k : Nat) (s : State),
    s.chan src home = m :: ms → m.rel = some x → m.thread = some k →
    s.inScope x (clusterOf (coreOf k)) (s.homeOf m.loc) = false →
    ∃ t, exec (.strip src home) s = .next t ∧ t.chan src home = { m with rel := none } :: ms ∧ t.mem = s.mem) ∧
  (∀ (core line : Nat) (s : State), thas (s.core core).upd line = true →
    ∃ t, exec (.merge core line) s = .next t ∧ thas (t.core core).upd line = false ∧
      t.mem = addContribs s.mem line (tget (s.core core).upd [] line))

/-- R292, R297, R298, R299: a ring is initialised or released; an arrival is counted at the descriptor, which then rotates; its
thread goes on, or moors for the next stage with its `a` written, and has only to return once a rotation has released it; the
ring's state is read. A store to a view beyond d moors its thread with KIND 7 and changes no memory; the rotation that its stage
comes to writes its bytes, and the thread goes on. -/
def Obligations.RingInstructions : Prop :=
  (∀ (h : Hdr) (j : BitVec 3) (src : Opnd) (s u : State) (v : Word) (r : Nat), s.lets h.pred →
    Does (readSrc src 8 opB) s.issued v u → (u.grp u.myGrp).rings[j.toNat]? = some r →
    (u.grp u.myGrp).cluster = u.myClus → (∀ x, (u.ring u.myClus r).2 = some x → u.ringBusy u.myGrp j.toNat x = false) →
    (v = 0 → ∃ t, exec (.ringInit h j src) s = .next t ∧ (t.ring u.myClus r).2 = none) ∧
    (v ≠ 0 → parmOk v = true → u.ringRangeOk u.myGrp r v = true →
      ∃ t, exec (.ringInit h j src) s = .next t ∧ (t.ring u.myClus r).2 = some { parm := v, s := 0, c := 0 }) ∧
    (v ≠ 0 → parmOk v = false ∨ u.ringRangeOk u.myGrp r v = false →
      exec (.ringInit h j src) s = .next (s.issued.takeTrap s.cur 0x312 0 none none 0))) ∧
  (∀ (p : Pred) (j : BitVec 3) (nw : Bool) (s s1 : State) (r : Nat) (v : Ring), s.lets p →
    (s.grp s.myGrp).rings[j.toNat]? = some r → (s.ring s.myClus r).2 = some v → s.me.freed = false →
    Does sampleAbort s.issued () s1 → s.inFlight s.cur = false → s.me.kept = none → v.c + 1 < 2 ^ 16 →
    let b : W32 := v.s + BitVec.ofNat 32 (v.c / ringP v.parm)
    let u := ((s1.setRing s.myClus r ((s.ring s.myClus r).1, some { v with c := v.c + 1 })).rotate s.myClus r).withA
      (b.setWidth 64)
    (nw = true → exec (.ringArrive p j nw) s = .next (u.complete 8 none)) ∧
    (∀ x, (u.ring s.myClus r).2 = some x →
      (nw = false → reached x.s (b + 1) = true →
        ∀ t, Does (acquireSteps .pk) (u.modThr u.cur (fun x => { x with kept := some (b + 1) })) () t →
          exec (.ringArrive p j nw) s = .next (t.complete 8 none)) ∧
      (nw = false → reached x.s (b + 1) = false → ∃ t, exec (.ringArrive p j nw) s = .next t ∧
        t.me.wait = .moored 6 j.toNat (b + 1) u.now u.moorings ∧ t.me.a = b.setWidth 64 ∧ t.me.kept = some (b + 1) ∧
        t.me.pc = s.me.pc))) ∧
  (∀ (p : Pred) (j : BitVec 3) (nw : Bool) (s t : State), s.lets p → s.me.freed = true →
    Does (acquireSteps .pk) s.issued () t → exec (.ringArrive p j nw) s = .next (t.complete 8 none)) ∧
  (∀ (p : Pred) (j : BitVec 3) (s u : State) (r : Nat), s.lets p → (s.grp s.myGrp).rings[j.toNat]? = some r →
    Does (acquireSteps .pk) s.issued () u →
    let cur := (s.ring s.myClus r).2
    ∃ a : Word, exec (.ringStat p j) s =
        .next (((u.withA a).withFlags (fun f => { f with z := cur.isNone, n := false, c := false, v := false })).complete
          8 none) ∧
      (cur = none → a = 0) ∧
      ∀ v, cur = some v → a.extractLsb' 32 32 = v.s ∧ a.extractLsb' 16 16 = BitVec.ofNat 16 v.c ∧
        a.extractLsb' 8 8 = v.parm.extractLsb' 44 8 ∧ a.extractLsb' 4 4 = v.parm.extractLsb' 36 4 ∧
        a.extractLsb' 1 3 = v.parm.extractLsb' 40 3 ∧ a.getLsbD 0 = true) ∧
  (∀ (a : Acc) (op : Word) (bs : List Byte) (j : Nat) (v : W32) (s : State),
    s.me.got[s.cursor]? = none → a.op = .write bs → a.more = [] → s.writeAhead a.va = some (j, v) →
    s.clear s.myCore (s.homeOf a.loc) = true →
    ∃ u m, (access a op).run s = .error (.wait (.moored 7 j v s.now s.moorings) u) ∧ u.mem = s.mem ∧ u.chans = s.chans ∧
      u.cores = s.cores ∧ u.me.pending = [m] ∧ m.op = .write bs ∧ m.loc = a.loc ∧ m.rel = a.rel ∧ m.near = a.near) ∧
  (∀ (ck r g k : Nat) (v : Ring) (m : Msg) (bs : List Byte) (s : State), s.ring ck r = (some g, some v) →
    (s.grp g).st = .placed →
    let v' := s.rotations g v (v.c + 1)
    let s1 := s.setRing ck r (some g, some v')
    v' ≠ v → s1.heldWrites g ((s.grp g).rings.findIdx (· == r)) = [.thread k] → (s.thr k).pending = [m] → m.op = .write bs →
    m.rel = none → m.near = false → isBank m.loc = true → s.locked m.loc = false → Memory.wf s.mem = true →
    (∀ e ∈ s.landings, e.1 + 16 ≤ m.loc ∨ m.loc + bs.length ≤ e.1) →
    let t := s.rotate ck r
    (t.ring ck r).2 = some v' ∧ (t.thr k).wait = .ready ∧ (t.thr k).pending = [] ∧ (t.thr k).kept = none ∧
      memBytes t.mem m.loc bs.length = bs ∧ ∀ a, a < m.loc ∨ m.loc + bs.length ≤ a → memGet t.mem a = memGet s.mem a)

/-- R300, R301, R302: a barrier's count is set and kept arrivals complete phases; an arrival answers its phase; a wait goes
on when its phase is complete, or has completed while it was moored, and moors otherwise; the pod barrier likewise over the groups
of a grid, where a group's B-th arrival takes it into its next phase. -/
def Obligations.BarrierInstructions : Prop :=
  (∀ (p : Pred) (b : BitVec 5) (src : Opnd) (s u : State) (v : Word) (r : Nat), s.lets p →
    (s.grp s.myGrp).bars[b.toNat]? = some r → Does (readSrc src 4 opA) s.issued v u →
    let n := (v.extractLsb' 0 32).toNat
    let o := u.bar u.myClus r
    (1 ≤ n → n ≤ 65535 → ∃ t, exec (.barInit p b src) s = .next t ∧
      (t.bar u.myClus r).count = n ∧ (t.bar u.myClus r).c = o.c % n ∧
      (t.bar u.myClus r).phase = o.phase + BitVec.ofNat 32 (o.c / n) ∧ (t.thr u.cur).a = u.me.a ∧ (t.thr u.cur).f = u.me.f) ∧
    (n = 0 ∨ 65535 < n → exec (.barInit p b src) s = .next (s.issued.takeTrap s.cur 0x321 0 none none 0))) ∧
  (∀ (p : Pred) (b : BitVec 5) (s s1 : State) (r : Nat), s.lets p → (s.grp s.myGrp).bars[b.toNat]? = some r →
    Does sampleAbort s.issued () s1 → s.inFlight s.cur = false →
    let o := s.bar s.myClus r
    (o.c + 1 < 2 ^ 16 → ∃ t, exec (.barArrive p b) s = .next t ∧
      (t.bar s.myClus r).count = o.count ∧
      (o.count = 0 → (t.bar s.myClus r).c = o.c + 1 ∧ (t.bar s.myClus r).phase = o.phase ∧ t.me.a = o.phase.setWidth 64) ∧
      (0 < o.count → (t.bar s.myClus r).c = (o.c + 1) % o.count ∧
        (t.bar s.myClus r).phase = o.phase + BitVec.ofNat 32 ((o.c + 1) / o.count) ∧
        t.me.a = (o.phase + BitVec.ofNat 32 (o.c / o.count)).setWidth 64) ∧ t.me.f = s.me.f) ∧
    (2 ^ 16 ≤ o.c + 1 → exec (.barArrive p b) s = .next (s.issued.takeTrap s.cur 0x314 0 none none 0))) ∧
  (∀ (p : Pred) (b : BitVec 5) (src : Opnd) (s u u1 : State) (v : Word) (r : Nat), s.lets p →
    (s.grp s.myGrp).bars[b.toNat]? = some r → Does (readSrc src 4 opA) s.issued v u → Does sampleAbort u () u1 →
    let g : W32 := v.setWidth 32
    let d := ((u.bar u.myClus r).phase - g).toNat
    (u.me.freed = true ∨ (1 ≤ d ∧ d < 2 ^ 31) → ∀ t, Does (acquireSteps .cl) u1 () t →
      exec (.barWait p b src) s = .next (t.complete 8 none)) ∧
    (u.me.freed = false → d = 0 ∨ 2 ^ 31 ≤ d → u.cur = s.cur → ∃ t, exec (.barWait p b src) s = .next t ∧
      t.me.wait = .moored 4 b.toNat g u.now u.moorings ∧ t.me.pc = s.me.pc ∧ t.me.ptrs = s.me.ptrs)) ∧
  (∀ (h : Hdr) (site : BitVec 16) (s s1 u : State), s.lets h.pred → 0 < s.podCount s.myGrp → Does sampleAbort s.issued () s1 →
    Does (releaseSteps .pd) s1 () u → s.me.kept = none →
    let g : W32 := (u.grp u.myGrp).podPhase
    let v := (u.modGrp u.myGrp (fun x =>
      if x.pod + 1 = s.podCount s.myGrp then { x with pod := 0, podPhase := g + 1 } else { x with pod := x.pod + 1 })).withA
      (g.setWidth 64)
    exec (.podbar h .arrive site) s = .next ((v.noted site (.branch false)).complete h.form.bytes none) ∧
    (v.me.freed = true ∨ phaseDone (v.grid (v.grp v.myGrp).grid).phase g = true → ∀ t,
      Does (acquireSteps .pd) (v.modThr v.cur (fun x => { x with kept := some g })) () t →
      exec (.podbar h .both site) s = .next ((t.noted site (.branch t.me.sent.isSome)).complete h.form.bytes none)) ∧
    (v.me.freed = false → phaseDone (v.grid (v.grp v.myGrp).grid).phase g = false → u.cur = s.cur →
      ∃ t, exec (.podbar h .both site) s = .next t ∧ t.me.wait = .moored 5 0 g v.now v.moorings ∧ t.me.kept = some g ∧
        t.me.a = g.setWidth 64)) ∧
  (∀ (h : Hdr) (mode : PodMode) (g : W32) (site : BitVec 16) (s s1 v : State), s.lets h.pred → 0 < s.podCount s.myGrp →
    Does sampleAbort s.issued () s1 →
    (mode = .wait ∧ g = s.me.a.setWidth 32 ∧ v = s1) ∨ (mode = .both ∧ s.me.kept = some g ∧ v = s1.withA (g.setWidth 64)) →
    (v.me.freed = true ∨ phaseDone (v.grid (v.grp v.myGrp).grid).phase g = true → ∀ t, Does (acquireSteps .pd) v () t →
      exec (.podbar h mode site) s = .next ((t.noted site (.branch t.me.sent.isSome)).complete h.form.bytes none)) ∧
    (v.me.freed = false → phaseDone (v.grid (v.grp v.myGrp).grid).phase g = false →
      ∃ t, exec (.podbar h mode site) s = .next t ∧ t.me.wait = .moored 5 0 g v.now v.moorings)) ∧
  (∀ (h : Hdr) (mode : PodMode) (site : BitVec 16) (s : State), s.lets h.pred → s.podCount s.myGrp = 0 →
    exec (.podbar h mode site) s = .next (s.issued.takeTrap s.cur 0x322 0 none none 0)) ∧
  (∀ (grid : Nat) (s : State),
    let x := s.grid grid
    let b := ((x.man.getD 7 0).extractLsb' 0 9).toNat
    b ≠ 0 → x.st ≠ .ended →
    x.count ≤ x.gone + ((s.groupsOf grid).filter (fun e => phaseDone e.2.podPhase x.phase)).length →
    ∃ t, exec (.podBarrierComplete grid) s = .next t ∧ (t.grid grid).phase = x.phase + 1 ∧ t.mem = s.mem ∧
      ∀ k j v c i, (k, s.thr k) ∈ s.threads → (s.thr k).wait = .moored 5 j v c i →
        (s.grp ((s.thr k).group.getD 0)).grid = grid → phaseDone (x.phase + 1) v = true → (t.thr k).wait = .ready)

/-- R303, R102: an instruction that samples a set abort performs nothing and its thread goes on at the abort entry, once, with every
register kept; without an entry the thread ends and its slot stays allotted; a taken `.s` branch samples it too. A thread outside
a running tow that has not yet sampled at this instruction. Another thread changes only by leaving its mooring at a port where the
aborted one gives a reservation back (R77). -/
def Obligations.AbortSampling : Prop :=
  ∀ (p : Pred) (b : BitVec 5) (j n : BitVec 3) (nw : Bool) (mode : PodMode) (x : Word) (disp : BitVec 34) (s : State),
    s.lets p → s.alone → s.me.passed = false → s.me.freed = false → s.abortSet s.cur = true →
    (s.grp s.myGrp).bars[b.toNat]? ≠ none →
    (∃ r, (s.grp s.myGrp).rings[j.toNat]? = some r ∧ (s.ring s.myClus r).2 ≠ none) → 0 < s.podCount s.myGrp →
    let e := s.abortEntry s.cur
    (∀ i ∈ ([.barArrive p b, .barWait p b (.imm x), .ringArrive p j nw, .podbar ⟨.S, p⟩ mode 0, .hwait p (.handle n)] : List Instr),
      (e ≠ 0 → ∃ t : State, exec i s = .next t ∧ t.me.pc = e ∧ t.me.trap.ab = true ∧ t.me.wait = .ready ∧ t.abortSet s.cur = false ∧
        t.me.a = s.me.a ∧ t.me.va = s.me.va ∧ t.me.vm = s.me.vm ∧ t.me.ptrs = s.me.ptrs ∧ t.me.lc = s.me.lc ∧ t.me.f = s.me.f ∧
        t.me.h = s.me.h ∧ t.clusters = s.clusters ∧ t.groups = s.groups ∧ t.mem = s.mem ∧
        ∀ k, k ≠ s.cur → t.thr k = s.thr k ∨ t.thr k = { s.thr k with wait := .ready, freed := true }) ∧
      (e = 0 → ∃ t : State, exec i s = .next t ∧ t.me.live = false ∧ t.me.group = s.me.group ∧ t.clusters = s.clusters ∧
        t.groups = s.groups ∧ t.mem = s.mem ∧
        ∀ k, k ≠ s.cur → t.thr k = s.thr k ∨ t.thr k = { s.thr k with wait := .ready, freed := true })) ∧
    (e ≠ 0 → s.startOk s.myGrp (s.me.pc + BitVec.ofInt 56 (4 * disp.toInt)) = true →
      exec (.br ⟨.S, p⟩ true disp 0) s = .next ((s.issued.setAb s.cur).complete 8 (some e)))

/-- R254, R202, R271, R272: `fcopy` and `fcopy.try` put the request, its words read and released, at the end of the core's FIFO under
a new pending operation; with a full FIFO `fcopy` stalls and `fcopy.try` leaves a handle cancelled with 0x2C4. `fcopy.on` enters
an armed request on its trigger's landing word and raises NARM, or fires it at once; a full table traps with 0x2C1. -/
def Obligations.FerryRequests : Prop :=
  (∀ (h : Hdr) (hn : BitVec 3) (req : Opnd) (fo : Word) (s u : State) (w : Word × Word × Word × Word),
    s.lets h.pred → Does (readRequest req) s.issued w u →
    (fo.toNat % 64 ≠ 0 → ∀ i ∈ ([.fcopy h hn req fo, .fcopyTry h hn req fo] : List Instr),
      exec i s = .next (s.issued.takeTrap s.cur 0x0C0 0 none (some fo) 0)) ∧
    (∀ v, fo.toNat % 64 = 0 → Does (releaseSteps .pk) u () v →
      let q := (v.core v.myCore).fifo
      let n := (v.me.handle hn).seq + 1
      let r : Req := { w0 := w.1, w1 := w.2.1, w2 := w.2.2.1, w3 := w.2.2.2, fo := fo, thread := v.cur, h := hn.toNat,
                       seq := n, group := v.myGrp }
      (q.length < 16 →
        (∃ t : State, exec (.fcopy h hn req fo) s = .next (t.complete h.form.bytes none) ∧
          (t.core v.myCore).fifo = q ++ [r] ∧ (t.me.handle hn).st = .pending ∧ (t.me.handle hn).seq = n ∧
          t.me.a = v.me.a ∧ t.me.f = v.me.f ∧ t.mem = v.mem) ∧
        (∃ t : State, exec (.fcopyTry h hn req fo) s = .next (t.complete h.form.bytes none) ∧
          (t.core v.myCore).fifo = q ++ [r] ∧ (t.me.handle hn).st = .pending ∧ (t.me.handle hn).seq = n ∧
          t.me.a = 0 ∧ t.me.f = { v.me.f with p := true } ∧ t.mem = v.mem)) ∧
      (16 ≤ q.length →
        (∃ t : State, exec (.fcopyTry h hn req fo) s = .next (t.complete h.form.bytes none) ∧
          (t.core v.myCore).fifo = q ∧ (t.me.handle hn).st = .cancelled ∧ (t.me.handle hn).cause = 0x2C4 ∧
          (t.me.handle hn).seq = n ∧ t.me.a = 1 ∧ t.me.f = { v.me.f with p := false }) ∧
        (∃ t : State, exec (.fcopy h hn req fo) s = .next t ∧ (t.thr s.cur).wait = .fifo ∧ (t.thr s.cur).pc = s.me.pc ∧
          (t.thr s.cur).h = s.me.h ∧ (t.core v.myCore).fifo = q)))) ∧
  (∀ (h : Hdr) (hn : BitVec 3) (req : Opnd) (trig : BitVec 34) (fo : Word) (s u x : State) (loc : Nat)
    (w : Word × Word × Word × Word),
    s.lets h.pred → Does (readRequest req) s.issued w u → fo.toNat % 64 = 0 → Does (triggerWord trig) u loc x →
    let full := (x.clus x.myClus).armed.length + (x.clus x.myClus).fired.length
    (64 ≤ full → exec (.fcopyOn h hn req trig fo) s = .next (s.issued.takeTrap s.cur 0x2C1 0 none none 0)) ∧
    (∀ v, full < 64 → Does (releaseSteps .pk) x () v →
      let n := (v.me.handle hn).seq + 1
      let g : W32 := v.me.a.setWidth 32
      let r : Req := { w0 := w.1, w1 := w.2.1, w2 := w.2.2.1, w3 := w.2.2.2, fo := fo, thread := v.cur, h := hn.toNat,
                       seq := n, group := v.myGrp }
      ∃ t : State, exec (.fcopyOn h hn req trig fo) s = .next (t.complete h.form.bytes none) ∧
        (t.me.handle hn).st = .pending ∧ (t.me.handle hn).seq = n ∧ t.me.a = v.me.a ∧ t.me.f = v.me.f ∧
        (reached (v.landing loc).gen g = false →
          (t.clus v.myClus).armed = (v.clus v.myClus).armed ++ [{ req := r, loc := loc, gen := g }] ∧
          (t.landInfo loc).2 = (v.landInfo loc).2 + 1) ∧
        (reached (v.landing loc).gen g = true →
          (t.clus v.myClus).fired = (v.clus v.myClus).fired ++ [r] ∧ (t.landInfo loc).2 = (v.landInfo loc).2)))

/-- R267 to R272: what `land.init` writes and what `land.wait` waits for, with its word registered at its home (log 77); a count of n
bytes in the word, the threads that it releases and the armed requests that it fires, and the bytes that it leaves alone where no write
waits for a stage that it brings (R292). -/
def Obligations.LandingWords : Prop :=
  (∀ (h : Hdr) (o src : Opnd) (s u v : State) (loc : Nat) (x : Addr) (val : Word), s.lets h.pred →
    (Does (landOperand o ⟨false, true⟩) s.issued (loc, x) u → Does (readSrc src 8 opB) u val v →
      v.clear v.myCore (v.homeOf loc) = true →
      let z := v.setLanding loc { target := (val.extractLsb' 0 32).toNat, arrived := 0, gen := val.extractLsb' 32 32, ovf := false }
      exec (.landInit h o src) s = .next ((z.afterLanding loc).complete h.form.bytes none)) ∧
    (Does (landOperand o ⟨true, false⟩) s.issued (loc, x) u → Does (readSrc src 8 opB) u val v →
      v.clear v.myCore (v.homeOf loc) = true →
      let z := v.setLandInfo loc (v.landInfo loc)
      (v.me.freed = true ∨ reached (z.landing loc).gen (val.setWidth 32) = true → ∀ t, Does (acquireSteps .pk) z () t →
        exec (.landWait h o src) s = .next (t.complete h.form.bytes none)) ∧
      (v.me.freed = false → reached (z.landing loc).gen (val.setWidth 32) = false →
        ∃ t : State, exec (.landWait h o src) s = .next t ∧ t.mem = z.mem ∧ (t.thr s.cur).pc = s.me.pc ∧
          (t.thr s.cur).wait = .moored 3 x.toNat (val.setWidth 32) v.now v.moorings) ∧
      (Memory.wf v.mem = true → ∀ a, a ≠ loc + 12 → a ≠ loc + 15 → memGet z.mem a = memGet v.mem a))) ∧
  (∀ (loc : Nat) (w : LandWord) (s : State), Memory.wf s.mem = true → w.target < 2 ^ 32 → w.arrived < 2 ^ 32 →
    (s.setLanding loc w).landing loc = w ∧ (s.setLanding loc w).landInfo loc = s.landInfo loc ∧
    ∀ a, a < loc ∨ (loc + 13 ≤ a ∧ a ≠ loc + 15) → memGet (s.setLanding loc w).mem a = memGet s.mem a) ∧
  (∀ (loc n : Nat) (s : State), Memory.wf s.mem = true → s.noneAhead →
    let w := s.landing loc
    let x := w.arrived + n
    let t := s.count loc n
    let r := t.landing loc
    (w.target = 0 → r.target = 0 ∧ r.gen = w.gen ∧ r.arrived = x % 2 ^ 32 ∧ r.ovf = (w.ovf || decide (2 ^ 32 ≤ x))) ∧
    (0 < w.target → r.target = w.target ∧ r.gen = w.gen + BitVec.ofNat 32 (x / w.target) ∧ r.arrived = x % w.target ∧
      r.ovf = w.ovf) ∧
    (∀ a, a < loc ∨ loc + 16 ≤ a → memGet t.mem a = memGet s.mem a) ∧
    (∀ k o v c i, (k, s.thr k) ∈ s.threads → (s.thr k).wait = .moored 3 o v c i → (s.thr k).watch = some loc →
      reached r.gen v = true → (t.thr k).wait = .ready) ∧
    (∀ y ∈ (s.clus (locCluster loc)).armed, y.loc = loc → reached r.gen y.gen = true →
      y.req ∈ (t.clus (locCluster loc)).fired))

/-- R252, R274, R223, R275, R276: `hwait` moors while its handle or token is pending, else acquires, delivers a handle's fault with
ORIGIN 01 and shows a token's outcome in P, V and C; what `htest` writes; `hcancel` of a request in the FIFO, and of a handle that
is not pending; outside an abort. R277, R266: `fmark` reads its channel's watermark under an acquire; `shape.fence` empties the
record cache once no request of its core's FIFO is left, and else waits for those that it found. That `htest` of a handle which is not
pending acquires is the reading of log 58. -/
def Obligations.HandleInstructions : Prop :=
  (∀ (p : Pred) (hn : BitVec 3) (s s1 : State), s.lets p → Does sampleAbort s.issued () s1 →
    let x := s.me.handle hn
    (x.st = .pending → ∃ t : State, exec (.hwait p (.handle hn)) s = .next t ∧ (t.thr s.cur).pc = s.me.pc ∧
      (t.thr s.cur).watch = some (8 * s.cur + hn.toNat) ∧ (t.thr s.cur).wait = .moored 0 hn.toNat 0 s.now s.moorings) ∧
    (x.st ≠ .pending → ∀ u, Does (acquireSteps .pk) s1 () u →
      (x.st = .complete ∨ x.st = .cancelled ∨ x.counted = true → exec (.hwait p (.handle hn)) s = .next (u.complete 8 none)) ∧
      (x.st = .faulted → x.counted = false →
        exec (.hwait p (.handle hn)) s = .next ((u.modThr u.cur (fun t => t.setHandle hn { x with st := .complete })).takeTrap
          u.cur x.cause 1 none (some x.eaddr) ((x.engine.setWidth 64 <<< 16) ||| (hn.setWidth 64 <<< 4))))) ∧
    (∀ (src : Opnd) (v : Word) (u : State), Does (readSrc src 8 opB) s1 v u →
      let k := u.myClus * 256 + (v.extractLsb' 44 4).toNat * 16 + (v.extractLsb' 40 4).toNat
      let seq : W32 := v.extractLsb' 0 32
      let y := (u.thr k).handle (v.extractLsb' 37 3)
      (v.extractLsb' 48 16 ≠ 0 ∨ v.extractLsb' 32 5 ≠ 0 ∨ (u.thr k).group ≠ u.me.group ∨ y.seq < seq →
        exec (.hwait p (.token src)) s = .next (s.issued.takeTrap s.cur 0x0E0 0 none none 0)) ∧
      (v.extractLsb' 48 16 = 0 → v.extractLsb' 32 5 = 0 → (u.thr k).group ≠ none → (u.thr k).group = u.me.group → seq ≤ y.seq →
        u.opLive k (v.extractLsb' 37 3).toNat seq = false → ∀ t, Does (acquireSteps .pk) u () t →
        exec (.hwait p (.token src)) s = .next ((t.withFlags (fun f =>
          if y.seq = seq then { f with z := false, p := y.st == .complete, v := y.st == .faulted, c := y.st == .cancelled }
          else { f with z := false, p := false, v := false, c := false })).complete 8 none))) ∧
    (∀ (tok : Bool) (u : State), (x.st = .pending → u = s.issued) → (x.st ≠ .pending → Does (acquireSteps .pk) s.issued () u) →
      ∃ a : Word, exec (.htest p hn tok) s = .next (((u.withA a).withFlags (fun f =>
          { f with z := x.st == .pending, p := x.st == .complete, v := x.st == .faulted, c := x.st == .cancelled, n := false })).complete
            8 none) ∧
        (tok = false → a.extractLsb' 62 2 = x.st.code ∧ a.extractLsb' 48 4 = x.chan ∧ a.extractLsb' 0 48 = x.tid ∧
          a.extractLsb' 52 10 = (if x.st = .faulted ∨ x.st = .cancelled then x.cause else 0)) ∧
        (tok = true → a.extractLsb' 48 16 = 0 ∧ a.extractLsb' 44 4 = BitVec.ofNat 4 (s.myCore % 16) ∧
          a.extractLsb' 40 4 = BitVec.ofNat 4 (s.cur % 16) ∧ a.extractLsb' 37 3 = hn ∧ a.extractLsb' 32 5 = 0 ∧
          a.extractLsb' 0 32 = x.seq)) ∧
    (s.me.sent = none →
      (x.st ≠ .pending → exec (.hcancel p hn) s = .next ((s.issued.withFlags (fun f => { f with p := false })).complete 8 none)) ∧
      (∀ i, x.st = .pending → s.me.group ≠ none →
        (s.core s.myCore).fifo.findIdx? (fun r => r.thread == s.cur && r.h == hn.toNat && r.seq == x.seq) = some i →
        ∃ t : State, exec (.hcancel p hn) s = .next (t.complete 8 none) ∧ (t.core s.myCore).fifo = (s.core s.myCore).fifo.eraseIdx i ∧
          (t.me.handle hn).st = .cancelled ∧ (t.me.handle hn).cause = 0x2C5 ∧ t.me.f.p = true))) ∧
  (∀ (p : Pred) (ch : NumArg 4) (s : State), s.lets p →
    (∀ u, Does (acquireSteps .pk) s.issued () u →
      let n := match ch with | .imm v => v.toNat | .acc => (s.me.a.extractLsb' 0 4).toNat
      exec (.fmark p ch) s = .next ((u.withA (BitVec.ofNat 64 (s.channel s.myClus n).mark)).complete 8 none)) ∧
    (s.me.sent = none →
      let q := (s.core s.myCore).fifo
      (q = [] → exec (.shapeFence p) s =
        .next ((s.issued.modClus s.myClus (fun c => { c with shapes := [] })).complete 8 none)) ∧
      (q ≠ [] → q.length < 2 ^ 64 → ∃ t : State, exec (.shapeFence p) s = .next t ∧ t.me.wait = .fifo ∧ t.me.pc = s.me.pc ∧
        t.me.sent = some (some (BitVec.ofNat 64 q.length)) ∧ (t.clus s.myClus).shapes = (s.clus s.myClus).shapes)))

/-- R258, R260, R268, R273, R278, R226: a request that a channel takes gets the next identifier and becomes a transfer, or
its handle faults; a beat of scratchpad bytes moves them, converted, and nothing else, in a turn that performs them at once (log 7, log 52),
and in another sends a read of each element; a counted beat is counted in its landing word, and the last ends the transfer; a
follow-on command is accepted, or its copy faults with 0x2C7; a beat held for 2^24 cycles faults with 0x2C6; a beat, or a thread's
access, of another package's memory that has had no reply for 2^20 cycles faults with 0x391. -/
def Obligations.FerryEngineSteps : Prop :=
  (∀ (ck : Nat) (r : Req) (core : Option Nat) (s u : State), s.nextRequest ck = some (r, core) →
    let id := (u.channel ck r.chanNo).next
    (∀ x, s.checkReq r = (.ok x, u) → x.settledBeats = false → x.finished = false →
      ∃ t : State, exec (.ferryTakeRequest ck) s = .next t ∧ (t.channel ck r.chanNo).next = (id + 1) % 2 ^ 48 ∧
        { x with id := id } ∈ (t.channel ck r.chanNo).xfers ∧ (core = none → r ∉ (t.clus ck).fired) ∧
        ∀ i, core = some i → (t.core (ck * 16 + i)).fifo = (u.core (ck * 16 + i)).fifo.tail) ∧
    (∀ c e, s.checkReq r = (.bad c e, u) → u.sees r.group r.thread r.h r.seq →
      ∃ t : State, exec (.ferryTakeRequest ck) s = .next t ∧ (t.handleOf r.thread r.h).st = .faulted ∧
        (t.handleOf r.thread r.h).cause = c) ∧
    (r.malformed = true → s.checkReq r = (.bad 0x2C0 none, s))) ∧
  (∀ (ck ch tid i : Nat) (x : Xfer) (b : Beat) (s : State), (s.channel ck ch).xfers.find? (fun x => x.id = tid) = some x →
    x.beats[i]? = some b → x.finished = false →
    (∀ ss ds : List Nat, b.st = .waiting → b.acked = [] → x.cause = none → x.cancelled = false → s.beatAhead x b = none →
      s.elemLocs x.req.group x.src ⟨true, false⟩ x.req.op b.n b.start = (.ok ss, s) → s.beatDest x b = (.ok ds, s) →
      (s.eager = true → (∀ a ∈ ss ++ ds, isBank a = true) → s.flaws = [] → s.landings = [] → Memory.wf s.mem = true →
        (∀ d ∈ ds, s.locked d = false) → ds.Pairwise (fun d e => d + x.dst.esize ≤ e ∨ e + x.dst.esize ≤ d) →
        ∃ t : State, exec (.ferryBeat ck ch tid i) s = .next t ∧
          (∀ j a d, ss[j]? = some a → ds[j]? = some d → memBytes t.mem d x.dst.esize =
            leBytes (convElem x (b.start + j) (leVal (memBytes s.mem a x.src.esize))).1 x.dst.esize) ∧
          (∀ a, (∀ d ∈ ds, a < d ∨ d + x.dst.esize ≤ a) → memGet t.mem a = memGet s.mem a) ∧
          ∃ y, (t.channel ck ch).xfers.find? (fun x => x.id = tid) = some y ∧
            y.beats[i]? = some { b with st := .moved, held := none }) ∧
      (s.eager = false → ∃ (t : State) (ms : List Msg), exec (.ferryBeat ck ch tid i) s = .next t ∧ t.mem = s.mem ∧
        (t.clus ck).outbox = (s.clus ck).outbox ++ ms ∧ ms.map (·.loc) = ss ∧
        (∀ m ∈ ms, m.op = .read x.src.esize ∧ m.cycle = s.now) ∧
        ∃ y c, (t.channel ck ch).xfers.find? (fun x => x.id = tid) = some y ∧ y.beats[i]? = some c ∧ c.st = .reading ∧
          c.sent = some s.now)) ∧
    (∀ g so loc, b.st = .moved → x.land = some (g, so) → s.engScratchFor g so (some x.req.op) = .at loc →
      ∃ t : State, exec (.ferryBeatCount ck ch tid i) s = .next t ∧
        (let y := { x with beats := x.beats.set i { b with st := .counted } }
         t.landing loc = (((s.stir x.req.group).setXfer ck ch y).count loc (b.n * x.dst.esize)).landing loc) ∧
        (x.req.fo = 0 → x.cause = none → x.cancelled = false → (∀ j y, j ≠ i → x.beats[j]? = some y → y.st = .counted) →
          s.sees x.req.group x.req.thread x.req.h x.req.seq → (t.handleOf x.req.thread x.req.h).st = .complete)) ∧
    (∀ since, s.heldSince b = some since → since + 2 ^ 24 ≤ s.now → x.cause = none → x.cancelled = false →
      (∀ j y, j ≠ i → x.beats[j]? = some y → y.st = .waiting ∨ y.st = .counted) →
      s.sees x.req.group x.req.thread x.req.h x.req.seq →
      ∃ t : State, exec (.beatHoldTimeout ck ch tid i) s = .next t ∧ t.mem = s.mem ∧
        (t.handleOf x.req.thread x.req.h).st = .faulted ∧ (t.handleOf x.req.thread x.req.h).cause = 0x2C6) ∧
    (∀ sent, b.st = .reading ∨ b.st = .writing → b.sent = some sent → sent + 2 ^ 20 ≤ s.now →
      (∃ m ∈ s.beatMsgs ck ch tid i, locPackage m.loc ≠ packageOf ck) → x.cause = none → x.cancelled = false →
      (∀ j y, j ≠ i → x.beats[j]? = some y → y.st = .waiting ∨ y.st = .counted) →
      s.sees x.req.group x.req.thread x.req.h x.req.seq →
      ∃ t : State, exec (.remoteTimeout (.beat ck ch tid i) .no) s = .next t ∧ t.mem = s.mem ∧
        (t.handleOf x.req.thread x.req.h).st = .faulted ∧ (t.handleOf x.req.thread x.req.h).cause = 0x391)) ∧
  (∀ (k : Nat) (m : Msg) (s : State), s.awaited k = some m → m.cycle + 2 ^ 20 ≤ s.now →
    ∀ e u, (e, u) ∈ ([(.no, s.dropMsg k m), (.yes, (s.performUnseen m).dropMsg k m)] : List (Performed × State)) →
      (u.trapsNow k = true → u.frozenFollower k = false →
        exec (.remoteTimeout (.thread k) e) s = .next (u.takeTrap k 0x391 3 none (some (m.va.setWidth 64)) m.opnd)) ∧
      (u.trapsNow k = false → ∃ t : State, exec (.remoteTimeout (.thread k) e) s = .next t ∧ t.mem = u.mem ∧
        (t.thr k).err = m.reply.map (fun i => (i, 0x391)) ∧ (t.thr k).pc = (u.thr k).pc)) ∧
  (∀ (ck ch tid : Nat) (x : Xfer) (r : MRec) (s u : State), (s.channel ck ch).xfers.find? (fun x => x.id = tid) = some x →
    x.req.fo ≠ 0 → x.followed = false → x.finished = false → x.cause = none → x.cancelled = false → x.settledBeats = true →
    (engRecord x.req.group (some x.req.op) (s.stagesOf x.req.group) [] x.req.fo 8).run s = (.ok r, u) →
    u.mustStall x.req.group r = false →
    (∀ v, u.acceptCmd x.req.group r none 0 none (some x.req.op) = .ok v →
      ∃ t : State, exec (.followOnIssue ck ch tid) s = .next t ∧ (∀ c a, t.arr c a = v.arr c a) ∧ t.mem = v.mem ∧
        (v.sees x.req.group x.req.thread x.req.h x.req.seq → (t.handleOf x.req.thread x.req.h).st = .complete)) ∧
    (∀ c, u.acceptCmd x.req.group r none 0 none (some x.req.op) = .error c → u.sees x.req.group x.req.thread x.req.h x.req.seq →
      ∃ t : State, exec (.followOnIssue ck ch tid) s = .next t ∧ (t.handleOf x.req.thread x.req.h).st = .faulted ∧
        (t.handleOf x.req.thread x.req.h).cause = 0x2C7))

/-- R316, R330 to R335: the record of `mw`, `mx` and `mxg` is read and released, and its command accepted at the end of its queue under
a new pending operation, or its handle faults; the six checks of an acceptance, of which the first that R316 lists and that fails gives
the cause (that order is the model's choice, log 88); what `mxg.add`, `mxg.close`,
`mchain`, `mq` and `mstat` do with an array that the group holds, and the faults of one that it does not hold or that heads no
chain, and of an EAST or WEST without an enabled neighbour (R465). What an `mchain` waits for is the reading of log 53. -/
def Obligations.MatrixInstructions : Prop :=
  ((∀ (h : Hdr) (p : Pred) (hn : BitVec 3) (o : RecAt) (n : BitVec 3) (m : MemMode) (table : Word) (s u v w : State) (r : MRec),
    Does (releaseSteps .pk) u () v → v.mustStall v.myGrp r = false →
    Does (newHandle hn (fun x => { x with engine := 2 })) v () w →
    let seq := (w.me.handle hn).seq
    let accept (op : Nat) (table : Word) := w.acceptCmd w.myGrp r (some op) table (some (w.cur, hn.toNat, seq)) none
    seq = (v.me.handle hn).seq + 1 ∧
    (s.lets h.pred → Does (readRecord o) s.issued r u → ∀ op i, (op, i) ∈ ([(1, .mw h hn o), (2, .mx h hn o)] : List (Nat × Instr)) →
      (∀ t, accept op 0 = .ok t → exec i s = .next (t.complete h.form.bytes none) ∧ (t.me.handle hn).st = .pending) ∧
      (∀ c, accept op 0 = .error c → w.me.group ≠ none → ∃ t : State, exec i s = .next (t.complete h.form.bytes none) ∧
        (t.me.handle hn).st = .faulted ∧ (t.me.handle hn).cause = c)) ∧
    (s.lets p → Does (readRecord (.mem n m)) s.issued r u →
      (∀ t, accept 3 table = .ok t → exec (.mxg p hn (.mem n m) table) s = .next (t.complete Form.L.bytes none)) ∧
      (∀ c, accept 3 table = .error c → w.me.group ≠ none → ∃ t : State,
        exec (.mxg p hn (.mem n m) table) s = .next (t.complete Form.L.bytes none) ∧
        (t.me.handle hn).st = .faulted ∧ (t.me.handle hn).cause = c))) ∧
  (∀ (g : Nat) (r : MRec) (op : Nat) (table : Word) (hd : Nat × Nat × W32) (s : State),
    let ck := (s.grp g).cluster
    let c := s.recCmd g r (some hd) none table
    let res := s.acceptCmd g r (some op) table (some hd) none
    let clean := r.malformed (some op) = false ∧ s.unserved ck c.fmt = false
    let held := s.holdsArray g r.array = true ∧ (r.op = 1 ∨ (s.chainOf ck r.array).first = r.array) ∧
      (r.pair = 1 → (s.chainOf ck (s.recHead ck r)).east = true) ∧ (r.pair = 2 → (s.chainOf ck (s.recHead ck r)).west = true)
    (¬ clean → res = .error 0x2A1) ∧ (clean → ¬ held → res = .error 0x2A2) ∧
    (let tiles := r.op = 1 ∨ ((∀ t ∈ s.ownedTiles ck c, t ∈ (s.grp g).tiles) ∧
        r.tile + (s.chainOf ck (s.recHead ck r)).cnt - 1 ≤ 15 ∧ r.row0 + r.mcnt ≤ 128)
     let isOpen := r.op = 3 ∧ ∃ d ∈ (s.arr ck (s.recHead ck r)).all, d.op = 3 ∧ d.closed = false
     let view := (s.viewCause g (r.word 1)).orElse (fun _ => if r.op = 3 then s.viewCause g (r.word 3) else none)
     let land := s.landingRef g (packageOf ck) (r.word 7)
     clean → held →
      (¬ tiles → res = .error 0x2A3) ∧ (tiles → isOpen → res = .error 0x2A6) ∧
      (tiles → ¬ isOpen →
        (∀ cz, view = some cz → res = .error cz) ∧ (∀ cz, view = none → land = .error cz → res = .error 0x2C3) ∧
        (∀ l, view = none → land = .ok l → ∃ t, res = .ok t))) ∧
    (∀ t, res = .ok t → clean ∧ held ∧ ∃ land,
      (t.arr ck (s.recHead ck r)).queue (s.recHigh ck r) =
        (s.arr ck (s.recHead ck r)).queue (s.recHigh ck r) ++ [{ c with land := land }] ∧
      t.mem = s.mem ∧ t.threads = s.threads))) ∧
  ((∀ (p : Pred) (arr : BitVec 2) (s : State), s.lets p →
    let a := arr.toNat
    let heads := s.holdsArray s.myGrp a = true ∧ (s.chainOf s.myClus a).first = a
    let traps (i : Instr) (c : BitVec 10) : Prop := exec i s = .next (s.issued.takeTrap s.cur c 0 none none 0)
    (¬ heads → traps (.mxgClose p arr) 0x2A2 ∧ ∀ hi, traps (.mq p arr hi) 0x2A2) ∧
    (heads → (s.openProduct s.myClus a = none → traps (.mxgClose p arr) 0x2A6) ∧
      (∀ hi i c, s.openProduct s.myClus a = some (hi, i, c) →
        exec (.mxgClose p arr) s = .next ((s.issued.putCmd s.myClus a hi i { c with closed := true }).complete 8 none)) ∧
      ∀ hi, exec (.mq p arr hi) s = .next ((s.issued.modArr s.myClus a (fun v => { v with high := hi })).complete 8 none)) ∧
    (let held := s.holdsArray s.myGrp a
     let c := s.chainOf s.myClus a
     let v := s.arr s.myClus a
     ∃ w : Word, exec (.mstat p arr) s =
        .next (((s.issued.withA w).withFlags (fun f => { f with z := !held, n := false, c := false, v := false })).complete 8 none) ∧
      (held = false → w = 0) ∧
      (held = true → w.getLsbD 16 = true ∧ w.getLsbD 17 = v.cn.isSome ∧ w.getLsbD 18 = v.ch.isSome ∧ w.getLsbD 19 = v.high ∧
        w.extractLsb' 0 2 = BitVec.ofNat 2 c.first ∧ w.extractLsb' 2 2 = BitVec.ofNat 2 (c.cnt - 1) ∧ w.getLsbD 4 = c.east ∧
        w.getLsbD 5 = c.west ∧ w.extractLsb' 22 5 = BitVec.ofNat 5 v.qn.length ∧ w.extractLsb' 27 5 = BitVec.ofNat 5 v.qh.length)) ∧
    (∀ (n : BitVec 3) (m : MemMode) (x : Addr) (ws : List Word) (u v w : State) (hi : Bool) (i : Nat) (c : MCmd),
      Does (specAddr n m 32 32) s.issued x u → x.toNat % 32 = 0 →
      Does ((List.range 4).mapM (fun i => do
        let bs ← loadBytes (x + BitVec.ofNat 56 (8 * i)) 8 opB
        pure (leWord bs))) u ws v → Does (releaseSteps .pk) v () w →
      w.holdsArray w.myGrp a = true → (w.chainOf w.myClus a).first = a → w.openProduct w.myClus a = some (hi, i, c) →
      let w2 := ws.getD 2 0
      let mcnt := (w2.extractLsb' 32 8).toNat
      let bad := w2.extractLsb' 40 24 ≠ 0 ∨ ws.getD 3 0 ≠ 0 ∨ mcnt = 0 ∨ 128 < c.total + mcnt + c.row0
      (bad → traps (.mxgAdd p arr (.mem n m)) 0x2A6) ∧
      (¬ bad → w.viewCause w.myGrp (ws.getD 0 0) = none → w.viewCause w.myGrp (ws.getD 1 0) = none →
        ∃ r : Run, r.src = ws.getD 0 0 ∧ r.tags = ws.getD 1 0 ∧ r.pitch = (w2.extractLsb' 0 32).toNat ∧ r.mcnt = mcnt ∧
          exec (.mxgAdd p arr (.mem n m)) s = .next ((w.putCmd w.myClus a hi i
            { c with runs := c.runs ++ [r], total := c.total + mcnt }).complete Form.M.bytes none)))) ∧
  (∀ (p : Pred) (hn : BitVec 3) (cfg : ChainCfg) (s : State), s.lets p →
    let f := cfg.first.toNat
    let n := cfg.cntM1.toNat + 1
    let c : Chain := { first := f, cnt := n, west := cfg.west, east := cfg.east }
    let col := s.myClus % 4
    let enabled (ck : Nat) : Prop := ck % 64 ∈ (s.pkg s.myPkg).enabled
    let ok := f + n ≤ 4 ∧ (∀ a, f ≤ a → a < f + n → s.holdsArray s.myGrp a = true) ∧ ¬ (cfg.east = true ∧ cfg.west = true) ∧
      (cfg.east = true → f + n = 4 ∧ col ≠ 3 ∧ enabled (s.myClus + 1)) ∧
      (cfg.west = true → f = 0 ∧ col ≠ 0 ∧ enabled (s.myClus - 1))
    (¬ ok → exec (.mchain p hn cfg) s = .next (s.issued.takeTrap s.cur 0x2A2 0 none none 0)) ∧
    (ok → ∃ t : State, exec (.mchain p hn cfg) s = .next (t.complete 8 none) ∧ (t.me.handle hn).st = .pending ∧
      (t.me.handle hn).seq = (s.me.handle hn).seq + 1 ∧
      (t.clus s.myClus).links = (s.clus s.myClus).links ++
        [{ cfg := c, handle := (s.cur, hn.toNat, (s.me.handle hn).seq + 1) }])) ∧
  (∀ (ck : Nat) (l : Link) (ls : List Link) (s : State), (s.clus ck).links = l :: ls →
    (∀ a ∈ s.linkArrays ck l.cfg, (s.arr ck a).all = []) →
    ∃ t : State, exec (.mchainLink ck l.cfg.first) s = .next t ∧ (t.clus ck).links = ls ∧ t.mem = s.mem ∧
      (∀ a ∈ l.cfg.arrays, (t.arr ck a).chain = some l.cfg) ∧
      (∀ a ∈ s.linkArrays ck l.cfg, a ∉ l.cfg.arrays → (t.arr ck a).chain = none) ∧
      (∀ g, s.sees g l.handle.1 l.handle.2.1 l.handle.2.2 → (t.handleOf l.handle.1 l.handle.2.1).st = .complete)))

/-- R319, R330, R320, R313, R323, R324, R328: at a pass boundary a `mw` writes its context, counts one at its landing word and
completes, and an `mx` starts or streams its next pass; an operation that completes adds the exact products of its rows to its tiles
in one step, counts one at its landing word, and leaves its queue, or, without a partner, faults with 0x380 on a tile with an
uncorrectable error (R226) and adds nothing; two ready halves that agree pair, and abort with 0x2A9 where they do not; a half out of time
aborts with 0x2A0, and an open grouped product not closed in 2^20 cycles with 0x2AA. When an operand is read,
and that halves of different grids do not agree, are the readings of log 22 and log 54. -/
def Obligations.MatrixSteps : Prop :=
  ((∀ (ck hd : Nat) (c : MCmd) (cs : List MCmd) (s : State), (s.chainOf ck hd).first = hd → (s.arr ck hd).qh = [] →
    (s.arr ck hd).qn = c :: cs → c.streamed = false → c.stop = false → c.partner = none →
    (∀ w u, c.op = 1 → heldUp (s.cmdWord c) = false →
      (latch c.group c.opId c.run.views c.run.early c.run.src c.run.pitch c.k c.n c.fmt).run s = (.ok w, u) →
      ∃ t : State, exec (.matrixPassBoundary ck hd) s = .next t ∧ (t.arr ck c.array).cn = some w ∧
        (c.land = none → t.mem = u.mem) ∧
        (∀ loc, s.cmdWord c = some (.at loc) → t.landing loc = (u.count loc 1).landing loc) ∧
        ((u.arr ck hd).qn = c :: cs → (t.arr ck hd).qn = cs ∧
          ∀ k n q, c.handle = some (k, n, q) → u.sees c.group k n q → (t.handleOf k n).st = .complete)) ∧
    (∀ d u, c.op = 2 → c.pair = 0 → c.started = false → (startMx ck hd false c).run s = (.ok d, u) →
      exec (.matrixPassBoundary ck hd) s = .next (u.streamCmd ck hd false 0 d)) ∧
    (c.op = 2 → c.pair = 0 → c.started = true →
      exec (.matrixPassBoundary ck hd) s = .next (s.streamCmd ck hd false 0 c))) ∧
  (∀ (ck hd : Nat) (c : MCmd) (cs : List MCmd) (b : Nat) (bs : List Nat) (s : State), c.op = 2 → c.bands = b :: bs →
    (s.arr ck hd).qn = c :: cs →
    let a := s.arr ck hd
    let e := max a.busy s.now + (if a.cells = some false then 0 else 256) + (c.width * digitCost c.fmt + 1) / 2
    let t := s.streamCmd ck hd false 0 c
    (t.arr ck hd).qn = { c with bands := bs, last := e, streamed := bs.isEmpty } :: cs ∧ (t.arr ck hd).busy = e ∧
      (t.arr ck hd).cells = some false ∧ t.mem = s.mem ∧ (∀ x, t.tile ck x = s.tile ck x)) ∧
  (∀ (ck hd : Nat) (c : MCmd) (cs : List MCmd) (s : State), (s.arr ck hd).qh = [] → (s.arr ck hd).qn = c :: cs →
    c.streamed = true → heldUp (s.cmdWord c) = false →
    ((∀ x ∈ s.ownedTiles ck c, s.tileFlawed ck x = false) →
      (∀ p, s.partnerOf ck hd c = some p → ∀ x ∈ s.ownedTiles p.1 p.2.2.2.2, s.tileFlawed p.1 x = false) →
      ∃ t : State, exec (.matrixOpComplete ck hd) s = .next t ∧ (t.arr ck hd).qn = cs ∧
        (∀ x, t.tile ck x = (s.applyCmd ck c).tile ck x) ∧ (c.land = none → t.mem = s.mem) ∧
        (∀ loc, s.cmdWord c = some (.at loc) → t.landing loc = (s.count loc 1).landing loc) ∧
        ∀ k n q, c.handle = some (k, n, q) → s.sees c.group k n q → (t.handleOf k n).st = .complete) ∧
    ((∃ x ∈ s.ownedTiles ck c, s.tileFlawed ck x = true) → c.partner = none →
      ∃ t : State, exec (.matrixOpComplete ck hd) s = .next t ∧ t.mem = s.mem ∧ (t.arr ck hd).qn = cs ∧
        (∀ x, t.tile ck x = s.tile ck x) ∧ ∀ k n q, c.handle = some (k, n, q) → s.sees c.group k n q →
          (t.handleOf k n).st = .faulted ∧ (t.handleOf k n).cause = 0x380)) ∧
  (∀ (ck i : Nat) (c : MCmd) (r : MRow) (w : Ctx) (s : State), (∀ x ∈ w.w, w.n ≤ x.length) →
    let v := s.tile ck (c.tile + i)
    let t := s.addRow ck c r i w
    (∀ n, n < w.n → let key := 256 * (c.row0 + r.row) + c.col0 + n
      tget (t.tile ck (c.tile + i)).entries {} key =
        (r.acts.zip w.w).foldl (fun e p => contribute v.scale.toInt e (product p.1 (p.2.getD n 0))) (tget v.entries {} key)) ∧
    (∀ k, k < 256 * (c.row0 + r.row) + c.col0 ∨ 256 * (c.row0 + r.row) + c.col0 + w.n ≤ k →
      tget (t.tile ck (c.tile + i)).entries {} k = tget v.entries {} k) ∧
    (∀ x, x ≠ c.tile + i → t.tile ck x = s.tile ck x))) ∧
  ((∀ (ck wh ek eh : Nat) (wq eq : Bool) (wi ei : Nat) (w e : MCmd) (s : State), s.meeting ck = some (wh, ek, eh) →
    s.running ck wh true = some (wi, w) → s.readyHalf ck wh 1 (some w.pkey) = some (wq, wi, w) →
    s.readyHalf ek eh 2 (some w.pkey) = some (eq, ei, e) →
    let k (ck hd : Nat) (hi : Bool) : Option Nat := ((s.arr ck hd).ctx hi).map (·.k)
    let agree := w.run.mcnt = e.run.mcnt ∧ w.fmt = e.fmt ∧ (s.grp w.group).grid = (s.grp e.group).grid ∧
      (∀ a b, k ck wh wq = some a → k ek eh eq = some b → a = b)
    (agree → exec (.pairMatch ck) s =
      .next ((s.putCmd ck wh wq wi { w with partner := some (ek, eh) }).putCmd ek eh eq ei { e with partner := some (ck, wh) })) ∧
    (¬ agree → exec (.pairMatch ck) s =
      .next ((s.endCmd ck wh wq wi (.faulted 0x2A9 none)).endCmd ek eh eq ei (.faulted 0x2A9 none)))) ∧
  (∀ (ck hd i since : Nat) (c : MCmd) (s : State), s.running ck hd true = some (i, c) → c.ready = some since →
    c.partner = none → since + s.pairTimeout c.group ≤ s.now → ∀ k n q, c.handle = some (k, n, q) → s.sees c.group k n q →
    ∃ t : State, exec (.pairingTimeout ck hd) s = .next t ∧ t.mem = s.mem ∧ (t.handleOf k n).st = .faulted ∧
      (t.handleOf k n).cause = 0x2A0) ∧
  (∀ (ck hd i : Nat) (c : MCmd) (s : State), s.running ck hd true = some (i, c) → c.op = 3 → c.started = true →
    c.closed = false → c.runs = [] → c.bands = [] → c.partner = none → c.last + 2 ^ 20 ≤ s.now →
    ∀ k n q, c.handle = some (k, n, q) → s.sees c.group k n q →
    ∃ t : State, exec (.mxgCloseTimeout ck hd) s = .next t ∧ t.mem = s.mem ∧ (t.handleOf k n).st = .faulted ∧
      (t.handleOf k n).cause = 0x2AA))

/-- R340, R341, R344, R353 to R356, R361, R129: an instruction that names a tile which its group does not hold raises 0x0F0, and one
that names a locked tile stalls; else `xclr` clears, `xscale` rescales each sum entry exactly as far as its bits go, `xadd`
contributes the active lanes, `xthr` selects, and `xrd` reads the active lanes' entries into `va` or memory and changes no
flag. What reads a tile's storage with an uncorrectable error raises 0x380, and `xclr` ends the error (R226). A step at a tile and a
selection change that and nothing else, but for the note of what sys.th gave before (R351, log 19). The exceptions of an
entry that is read are those of log 68. -/
def Obligations.TileInstructions : Prop :=
  (∀ (h : Hdr) (p : Pred) (tile : BitVec 4) (s : State), s.lets h.pred → s.lets p →
    let n := tile.toNat
    let v := s.tile s.myClus n
    let free := s.holdsTile s.myGrp n = true ∧ s.tileLocked s.myClus n = false
    let flawed (u : State) : Bool := u.tileFlawed u.myClus n
    (∀ (sc : ScaleArg) (ty : Ty) (pos : PosArg) (src : Opnd) (arg : RankArg) (row : NumArg 7),
      ∀ i ∈ ([.xclr h tile sc, .xadd h ty tile pos src, .xscale p tile .acc, .xrankInit p tile arg, .xrankIns h tile row src,
        .xrankMerge h tile row src, .xrd h ty .va tile pos false, .xrankRd h .a tile row] : List Instr),
      (s.me.drawn = none → s.holdsTile s.myGrp n = false → exec i s = .next (s.issued.takeTrap s.cur 0x0F0 0 none none 0)) ∧
      (s.me.drawn = none → s.holdsTile s.myGrp n = true → s.tileLocked s.myClus n = true →
        exec i s = .next (s.issued.modThr s.cur (fun t =>
          { s.issued.me.progress { t with locked := some n } with wait := .lock n })))) ∧
    (exec (.xclr h tile .acc) s = exec (.xclr h tile (.imm (s.me.a.extractLsb' 0 16))) s ∧
      exec (.xscale p tile .acc) s = exec (.xscale p tile (.imm (s.me.a.extractLsb' 0 16))) s ∧
      exec (.xthr p (.acc tile)) s = exec (.xthr p (.row tile (s.me.a.extractLsb' 0 7))) s) ∧
    (free →
      (let sound : State := { s.issued with flaws := s.issued.flaws.filter (· != tileLoc s.myClus n) }
       (∀ x : BitVec 16, exec (.xclr h tile (.imm x)) s = .next ((sound.stepTile n
        { v with entries := [], rows := [], scale := x, dirty := false, inuse := true } none).complete h.form.bytes none)) ∧
       (exec (.xclr h tile .none) s = .next ((sound.stepTile n
        { v with entries := [], rows := [], scale := 0, dirty := false, inuse := false } none).complete h.form.bytes none))) ∧
      (flawed s = true → ∀ x : BitVec 16,
        exec (.xscale p tile (.imm x)) s = .next (s.issued.takeTrap s.cur 0x380 3 none none 0)) ∧
      (flawed s = false → ∀ x : BitVec 16, ∃ w : Tile, exec (.xscale p tile (.imm x)) s =
          .next ((s.issued.stepTile n w none).complete 8 none) ∧
        w.scale = x ∧ w.inuse = true ∧ w.rows = v.rows ∧
        let d := x.toInt - v.scale.toInt
        ∀ k, let e := tget v.entries {} k
          let e' := tget w.entries {} k
          ((tget v.rows {} (k / 256)).ranked = true → e' = e) ∧
          ((tget v.rows {} (k / 256)).ranked = false →
            (0 ≤ d → e'.i.toInt = e.i.toInt / (2 ^ d.toNat : Nat) ∧ e'.f = e.f) ∧
            (d < 0 → let z := e.i.toInt * (2 ^ (-d).toNat : Nat)
              e'.i = BitVec.ofInt 128 z ∧ e'.f = (e.f || decide (z < -2 ^ 127) || decide (2 ^ 127 ≤ z))))) ∧
      (∀ (ty : Ty) (r cg : Nat) (pos : PosArg) (src : Opnd) (y : Nat → W32) (u : State),
        Does (posOf pos) s.issued (r, cg) s.issued → Does (vecSrc src s.me.vm opB) s.issued y u →
        let v := u.tile u.myClus n
        ((u.row u.myClus n r).ranked = true →
          exec (.xadd h ty tile pos src) s = .next (s.issued.takeTrap s.cur 0x0F1 0 none none 0)) ∧
        ((u.row u.myClus n r).ranked = false → flawed u = true →
          exec (.xadd h ty tile pos src) s = .next (s.issued.takeTrap s.cur 0x380 3 none none 0)) ∧
        ((u.row u.myClus n r).ranked = false → flawed u = false →
          ∃ w : Tile, exec (.xadd h ty tile pos src) s = .next ((u.stepTile n w none).complete h.form.bytes none) ∧
            w.scale = v.scale ∧ w.rows = v.rows ∧ w.dirty = (v.dirty || decide (s.me.vm ≠ 0)) ∧
            (∀ i, i < 32 → s.me.vm.getLsbD i = true → tget w.entries {} (256 * r + 32 * cg + i) =
              contribute v.scale.toInt (tget v.entries {} (256 * r + 32 * cg + i)) (laneExact ty (y i))) ∧
            (∀ k, (∀ i, i < 32 → s.me.vm.getLsbD i = true → k ≠ 256 * r + 32 * cg + i) →
              tget w.entries {} k = tget v.entries {} k)))) ∧
    (∃ a : Word, exec (.xscale p tile .none) s = .next (((s.issued.withA a).withFlags (fun f =>
        { f with z := !s.holdsTile s.myGrp n, n := false, c := false, v := false })).complete 8 none) ∧
      (s.holdsTile s.myGrp n = false → a = 0) ∧
      (s.holdsTile s.myGrp n = true → a.extractLsb' 0 16 = v.scale ∧ a.getLsbD 16 = true ∧
        a.getLsbD 17 = s.tileLocked s.myClus n ∧ a.getLsbD 18 = v.dirty ∧ a.getLsbD 19 = v.inuse ∧
        a.extractLsb' 20 4 = tile ∧ a.extractLsb' 32 32 = 0)) ∧
    (∀ r : BitVec 7,
      (s.holdsTile s.myGrp n = true → exec (.xthr p (.row tile r)) s =
        .next ((s.issued.selectTh ((1 : BitVec 1) ++ tile ++ r)).complete 8 none)) ∧
      (s.holdsTile s.myGrp n = false →
        exec (.xthr p (.row tile r)) s = .next (s.issued.takeTrap s.cur 0x0F0 0 none none 0))) ∧
    (exec (.xthr p .off) s = .next ((s.issued.selectTh 0).complete 8 none))) ∧
  (∀ (h : Hdr) (ty : Ty) (tile : BitVec 4) (pos : PosArg) (sr : Bool) (r cg : Nat) (s : State), s.lets h.pred →
    Does (posOf pos) s.issued (r, cg) s.issued →
    let n := tile.toNat
    let key (i : Nat) : Nat := 256 * r + 32 * cg + i
    let md (i : Nat) : Mode := if sr then .srOf s.me.a (BitVec.ofNat 64 (key i)) (s.me.lc.setWidth 64) else .rne
    let fits (u : State) : Prop :=
      u.holdsTile u.myGrp n = true ∧ u.tileLocked u.myClus n = false ∧ (u.row u.myClus n r).ranked = false
    (fits s → s.tileFlawed s.myClus n = true →
      exec (.xrd h ty .va tile pos sr) s = .next (s.issued.takeTrap s.cur 0x380 3 none none 0)) ∧
    (fits s → s.tileFlawed s.myClus n = false →
      let out (i : Nat) : Nat × BitVec 5 × Bool :=
        readEntry ty (md i) (s.tile s.myClus n).scale.toInt (tget (s.tile s.myClus n).entries {} (key i))
      ∃ t : State, exec (.xrd h ty .va tile pos sr) s = .next (t.complete h.form.bytes none) ∧
        (∀ i, i < 32 → lane t.me.va i = if s.me.vm.getLsbD i then BitVec.ofNat 32 (out i).1 else lane s.me.va i) ∧
        (t.grp s.myGrp).fstat = (s.grp s.myGrp).fstat ||| lanesExc s.me.vm (fun i => (out i).2.1) ∧
        (t.grp s.myGrp).rstat = ((s.grp s.myGrp).rstat || (activeLanes s.me.vm).any (fun i => (out i).2.2)) ∧
        t.me.f = s.me.f ∧ t.me.a = s.me.a ∧ t.clusters = s.clusters ∧ t.mem = s.mem) ∧
    (∀ (k : BitVec 3) (m : MemMode) (x : Addr) (rs ps : List Piece) (old : Nat) (u1 u2 u3 : State),
      Does (vecAddr k m ty opA) s.issued x u1 →
      Does (locateBoth x opA (partBytes ty s.me.vm) (vecParts ty (if ty.isPb && s.me.vm ≠ 0 then 0xFFFFFFFF else s.me.vm))) u1 (rs, ps) u2 →
      Does (loadPieces ⟨.plain, .co⟩ opA rs) u2 old u3 →
      u3.me.drawn = none → fits u3 → u3.tileFlawed u3.myClus n = false →
      let v := readSegment (u3.tile u3.myClus n) ty md key s.me.vm
      let kept := if ty = .f4 then keptNibbles s.me.vm old else 0
      ∀ t, Does (storePieces ⟨.plain, .co⟩ (v.1 + kept) opA [] ps)
          (u3.modThr u3.cur (fun t => { t with drawn := some (packDrawn v) })) () t →
        exec (.xrd h ty (.mem k m) tile pos sr) s =
          .next (((if v.2.2 then (t.raising v.2.1).modGrp (t.raising v.2.1).myGrp (fun g => { g with rstat := true })
            else t.raising v.2.1)).complete h.form.bytes none))) ∧
  (∀ (s : State) (n : Nat) (w : Tile) (v : BitVec 12) (ps : Option (Nat × List (W32 × W32))),
    (∀ t : State, t = s.stepTile n w ps ∨ t = s.selectTh v →
      { t with groups := [], clusters := [] } = { s with groups := [], clusters := [] } ∧
      ∀ g, { t.grp g with thLog := [], thsel := 0 } = { s.grp g with thLog := [], thsel := 0 }) ∧
    (s.stepTile n w ps).clusters = (s.setTile (s.grp s.myGrp).cluster n w).clusters ∧
    (∀ g, ((s.stepTile n w ps).grp g).thsel = (s.grp g).thsel) ∧
    (s.selectTh v).clusters = s.clusters ∧ ((s.selectTh v).grp s.myGrp).thsel = v ∧
    ∀ g, g ≠ s.myGrp → ((s.selectTh v).grp g).thsel = (s.grp g).thsel)

/-- R348, R357 to R360: a presented pair whose key is a NaN's sets REF; what another does to a list, which stays in rank order with
one pair an index and at most k; `xrank.init` clears a row; `xrank.ins` and `xrank.merge` present pairs; `xrank.rd` gives the header. -/
def Obligations.RankedLists : Prop :=
  (∀ (r : Row) (p : W32 × W32),
    let ok (r : Row) : Prop := r.pairs.Pairwise (fun x y => ranksAbove x y = true ∧ x.2 ≠ y.2) ∧ r.pairs.length ≤ r.k
    let t := r.present p
    (nanKey p.1 = true → t = { r with ref := true }) ∧
    (nanKey p.1 = false → ok r → ok t ∧ t.ranked = r.ranked ∧ t.logk = r.logk ∧ t.ref = r.ref ∧
      (∀ q ∈ t.pairs, q = p ∨ q ∈ r.pairs) ∧
      (p ∈ t.pairs ∨ (∃ q ∈ r.pairs, q.2 = p.2 ∧ p.1 ≤ q.1) ∨
        (r.pairs.length = r.k ∧ ∀ q ∈ r.pairs, ranksAbove p q = false)) ∧
      (∀ q ∈ r.pairs, q ∈ t.pairs ∨ (q.2 = p.2 ∧ q.1 < p.1 ∧ p ∈ t.pairs) ∨
        (r.pairs.length = r.k ∧ r.pairs.getLast? = some q ∧ ranksAbove p q = true)))) ∧
  (∀ (h : Hdr) (p : Pred) (tile : BitVec 4) (s : State), s.lets h.pred → s.lets p →
    let n := tile.toNat
    s.holdsTile s.myGrp n = true → s.tileLocked s.myClus n = false →
    (∀ arg : RankArg,
      let kr : Nat × Nat := match arg with
        | .imm k r => (k.toNat, r.toNat)
        | .acc => ((s.me.a.extractLsb' 7 3).toNat, (s.me.a.extractLsb' 0 7).toNat)
      (kr.1 = 6 → exec (.xrankInit p tile arg) s = .next (s.issued.takeTrap s.cur 0x0F3 0 none none 0)) ∧
      (kr.1 ≠ 6 → ∃ w : Tile, exec (.xrankInit p tile arg) s = .next ((s.issued.stepTile n w none).complete 8 none) ∧
        tget w.rows {} kr.2 = (if kr.1 = 7 then {} else { ranked := true, logk := BitVec.ofNat 3 kr.1 }) ∧ w.inuse = true ∧
        w.scale = (s.tile s.myClus n).scale ∧ (∀ k, k / 256 = kr.2 → tget w.entries {} k = {}) ∧
        (∀ k, k / 256 ≠ kr.2 → tget w.entries {} k = tget (s.tile s.myClus n).entries {} k) ∧
        (∀ r, r ≠ kr.2 → tget w.rows {} r = tget (s.tile s.myClus n).rows {} r))) ∧
    (∀ row : NumArg 7,
      let r := match row with | .imm v => v.toNat | .acc => (s.me.a.extractLsb' 0 7).toNat
      let puts (u : State) (ref : Bool) (ps : List (W32 × W32)) (i : Instr) : Prop := ∃ w : Tile,
        let old := u.row u.myClus n r
        let new := ps.foldl Row.present { old with ref := old.ref || ref }
        exec i s = .next ((u.stepTile n w (some (r, ps))).complete h.form.bytes none) ∧ tget w.rows {} r = new ∧
        w.entries = (u.tile u.myClus n).entries ∧ w.scale = (u.tile u.myClus n).scale ∧
        w.dirty = ((u.tile u.myClus n).dirty || old != new)
      ((s.row s.myClus n r).ranked = true → s.tileFlawed s.myClus n = false →
        puts s.issued false ((activeLanes s.me.vm).map (fun i => pairOf (lane s.me.va i) (s.me.a.setWidth 32 + BitVec.ofNat 32 i)))
          (.xrankIns h tile row .a)) ∧
      ((s.row s.myClus n r).ranked = false → ∀ i ∈ ([.xrankIns h tile row .a] : List Instr),
        exec i s = .next (s.issued.takeTrap s.cur 0x0F1 0 none none 0)) ∧
      (∀ (k : BitVec 3) (m : MemMode) (idx : Nat → W32) (u : State), Does (vecSrc (.mem k m) s.me.vm opB) s.issued idx u →
        (u.row u.myClus n r).ranked = true → u.tileFlawed u.myClus n = false →
        puts u false ((activeLanes s.me.vm).map (fun i => pairOf (lane s.me.va i) (idx i))) (.xrankIns h tile row (.mem k m))) ∧
      (∀ (k : BitVec 3) (m : MemMode) (x : Addr) (ps : List Piece) (b : Nat) (u1 u2 u : State),
        Does (listAddr k m opB) s.issued x u1 → Does (locateParts x ⟨true, false⟩ opB listParts) u1 ps u2 →
        Does (loadPieces ⟨.plain, .co⟩ opB ps) u2 b u → (u.row u.myClus n r).ranked = true →
        let word (i : Nat) : Word := BitVec.ofNat 64 (b / 2 ^ (64 * i))
        let lg := ((word 0).extractLsb' 8 3).toNat
        let cnt := ((word 0).extractLsb' 0 6).toNat
        let ok := (word 0).extractLsb' 17 47 = 0 ∧ (word 0).extractLsb' 11 5 = 0 ∧ (word 0).extractLsb' 6 2 = 0 ∧ lg ≤ 5 ∧
          cnt ≤ 2 ^ lg
        (ok → u.tileFlawed u.myClus n = false → puts u ((word 0).getLsbD 16) ((List.range cnt).map (fun j =>
            ((word (j + 1)).extractLsb' 32 32, (word (j + 1)).extractLsb' 0 32))) (.xrankMerge h tile row (.mem k m))) ∧
        (¬ ok → exec (.xrankMerge h tile row (.mem k m)) s = .next (s.issued.takeTrap s.cur 0x0F2 0 none none 0))) ∧
      (let v := s.row s.myClus n r
       s.me.drawn = none → v.ranked = true → v.pairs.length ≤ 32 → s.tileFlawed s.myClus n = false →
       ∃ t : State, exec (.xrankRd h .a tile row) s = .next (t.complete h.form.bytes none) ∧
        t.me.a.extractLsb' 0 6 = BitVec.ofNat 6 v.pairs.length ∧ t.me.a.extractLsb' 8 3 = v.logk ∧ t.me.a.getLsbD 16 = v.ref ∧
        t.me.a.extractLsb' 17 47 = 0 ∧
        t.me.f = { s.me.f with z := decide (v.pairs.length < v.k), v := v.ref, n := false, c := false } ∧ t.clusters = s.clusters) ∧
      (∀ (k : BitVec 3) (m : MemMode) (x : Addr) (ps : List Piece) (u1 u : State), Does (listAddr k m opA) s.issued x u1 →
        Does (locateParts x ⟨false, true⟩ opA listParts) u1 ps u → u.me.drawn = none → u.holdsTile u.myGrp n = true →
        u.tileLocked u.myClus n = false → (u.row u.myClus n r).ranked = true → (u.row u.myClus n r).pairs.length ≤ 32 →
        u.tileFlawed u.myClus n = false →
        let v := u.row u.myClus n r
        ∀ t, Does (storePieces ⟨.plain, .co⟩ (listRecord v) opA [] ps)
            (u.modThr u.cur (fun t => { t with drawn := some (listRecord v) })) () t →
          exec (.xrankRd h (.mem k m) tile row) s = .next ((t.withFlags (fun f =>
            { f with z := decide (v.pairs.length < v.k), v := v.ref, n := false, c := false })).complete h.form.bytes none))))

/-- R386 to R388: `mf.patch` writes a patchable word of a built manifest; `mf.arm` arms one that passes the checks and
reports the first that fails, `mf.arm … off` disarms; the faults of an index or a word that it may not name. -/
def Obligations.ManifestInstructions : Prop :=
  ∀ (h : Hdr) (p : Pred) (mf : NumArg 12) (word : BitVec 5) (src : Opnd) (s : State),
    let idx (u : State) : Nat := match mf with | .imm v => v.toNat | .acc => (u.me.a.extractLsb' 0 12).toNat
    let gr (u : State) : Grid := u.grid (u.grp u.myGrp).grid
    let w (u : State) : List Word := u.mfWords (gr u).bk (idx u)
    (∀ (v : Word) (u : State), s.lets h.pred → Does (readSrc src 8 opB) s.issued v u →
      let traps (c : BitVec 10) : Prop := exec (.mfPatch h mf word src) s = .next (s.issued.takeTrap s.cur c 0 none none 0)
      let named := word.toNat ≤ 17 ∧ (mfWord (w u) 18).getLsbD word.toNat = true
      (mfState (w u) = 0 → traps 0x0E8) ∧ (mfState (w u) ≠ 0 → ¬ named → traps 0x0E9) ∧
      (mfState (w u) = 2 → named → traps 0x0EA) ∧
      (mfState (w u) ≠ 0 → mfState (w u) ≠ 2 → named →
        exec (.mfPatch h mf word src) s = .next ((u.putMf (gr u).bk (idx u) (mfSet (w u) word.toNat v)).complete h.form.bytes none))) ∧
    (s.lets p →
      let r := s.armStatus s.myPkg (gr s).bk (gr s).part (s.part (gr s).part).published (w s)
      let ends (u : State) (n : Nat) : State := ((u.withA (BitVec.ofNat 64 n)).withFlags (fun f =>
        { f with p := decide (n = 0), z := decide (n = 0), n := false, c := false, v := false })).complete 8 none
      (mfState (w s) = 0 → ∀ off, exec (.mfArm p mf off) s = .next (s.issued.takeTrap s.cur 0x0E8 0 none none 0)) ∧
      (mfState (w s) ≠ 0 →
        exec (.mfArm p mf true) s = .next (ends (s.issued.putMf (gr s).bk (idx s) (mfSet (w s) 20 1)) 0) ∧
        (r = 0 → exec (.mfArm p mf false) s = .next (ends (s.issued.putMf (gr s).bk (idx s) (mfSet (w s) 20 2)) 0)) ∧
        (r ≠ 0 → exec (.mfArm p mf false) s = .next (ends s.issued r)))) ∧
    (∀ (ws : List Word) (i : Nat) (v : Word), i < 32 → (mfSet ws i v).length = 32 ∧ mfWord (mfSet ws i v) i = v ∧
      ∀ j, j < 32 → j ≠ i → mfWord (mfSet ws i v) j = mfWord ws j)

/-- R374, R375, R377, R389, R385, R390, R391: `launch` and `launch.ind` send the snapshot of an armed manifest to the pod head, `launch.ind`
with the location of its count, and wait; the identifier that comes ends them with P = 1, a queue without room with P = 0; the head orders
the launches that reach it; a launch without an answer for 2^20 cycles raises 0x391, at once or, in a tow of which another member is under
way, when its instruction issues again, and gets no identifier after that (R471); what `gcancel` and `gabort` set and `gstat` reports of a
grid; an abort cancels what is undealt; its delivery cancels what a package holds and discards its fork records and its armed requests
there (log 83 for their handles; log 37 for what a launch out of time has done; log 72 for the tow). -/
def Obligations.LaunchAndControl : Prop :=
  ((∀ (h : Hdr) (mf : NumArg 12) (qov : Bool) (q : BitVec 4) (s : State), s.lets h.pred →
    let ends (u : State) (a : Word) (p v : Bool) : State := ((u.withA a).withFlags (fun f =>
      { f with p := p, v := v, z := !p, n := false, c := false })).complete h.form.bytes none
    (∀ g, s.me.sent = some (some g) → exec (.launch h mf qov q) s = .next (ends s.issued g true false)) ∧
    (∀ (n : BitVec 3) (m : MemMode) (x : Addr) (u : State) (g : Word), Does (specAddr n m 4 4) s.issued x u →
      u.me.sent = some (some g) → exec (.launchInd h mf (.mem n m)) s = .next (ends u g true false)) ∧
    (∀ v g, s.me.sent = some (some g) → exec (.launchInd h mf (.abs v)) s = .next (ends s.issued g true false)) ∧
    (s.me.sent = none →
      let idx := match mf with | .imm v => v.toNat | .acc => (s.me.a.extractLsb' 0 12).toNat
      let me (u : State) : Grid := u.grid (u.grp u.myGrp).grid
      let w := s.mfWords (me s).bk idx
      (mfState w = 1 → exec (.launch h mf qov q) s = .next (s.issued.takeTrap s.cur 0x0EA 0 none none 0)) ∧
      (mfState w = 0 → exec (.launch h mf qov q) s = .next (s.issued.takeTrap s.cur 0x0E8 0 none none 0)) ∧
      (∀ u deps, mfState w = 2 → Does (releaseSteps .pd) (s.issued.modThr s.cur (fun t => { t with watch := some idx })) () u →
        u.findDeps (u.rootOf u.myGrp) u.myPkg w [14, 16] = .ok deps →
        let queue := if qov then q.toNat else ((mfWord w 8).extractLsb' 0 4).toNat
        let gr : Grid := { gridOf w (me u).pkg (me u).berth (me u).part queue deps none with
          launcher := some u.myGrp, lpkg := u.myPkg, image := u.imageOf (me u).bk idx }
        (u.enqueue gr = .noEntry → exec (.launch h mf qov q) s = .next (ends u 0 false false)) ∧
        (u.enqueue gr = .noDep → exec (.launch h mf qov q) s = .next (ends u 0 false true)) ∧
        (∀ v, u.enqueue gr = .done v → v.unrouted v.myPkg (v.headOf v.myPkg) = false →
          ∃ t : State, exec (.launch h mf qov q) s = .next t ∧ (t.thr s.cur).wait = .launch ∧ (t.thr s.cur).pc = s.me.pc ∧
            t.launches = v.launches ++
              [{ head := v.headOf v.myPkg, thread := some v.cur, host := none, grid := gr, since := v.now }])))) ∧
  (∀ (h : Hdr) (mf : NumArg 12) (cnt : CountAt) (x : Addr) (op : Word) (s u0 : State), s.lets h.pred → u0.me.sent = none →
    (match cnt with
      | .mem n m => Does (specAddr n m 4 4) s.issued x u0 ∧ op = opB
      | .abs v => x = v.setWidth 56 ∧ u0 = s.issued ∧ op = 0) →
    (x.toNat % 4 ≠ 0 →
      exec (.launchInd h mf cnt) s = .next (s.issued.takeTrap s.cur 0x0C0 0 none (some (x.setWidth 64)) op)) ∧
    (x.toNat % 4 = 0 → x.getLsbD 55 = true →
      exec (.launchInd h mf cnt) s = .next (s.issued.takeTrap s.cur 0x0EB 0 none (some (x.setWidth 64)) op)) ∧
    (∀ loc uc u1, x.toNat % 4 = 0 → x.getLsbD 55 = false → Does (locate x 4 ⟨true, false⟩ op) u0 (loc, uc) u1 → u1.me.sent = none →
      let idx := match mf with | .imm v => v.toNat | .acc => (u1.me.a.extractLsb' 0 12).toNat
      let me (u : State) : Grid := u.grid (u.grp u.myGrp).grid
      let w := u1.mfWords (me u1).bk idx
      ∀ u deps v, mfState w = 2 → Does (releaseSteps .pd) (u1.modThr u1.cur (fun t => { t with watch := some idx })) () u →
        u.findDeps (u.rootOf u.myGrp) u.myPkg w [14, 16] = .ok deps →
        let gr : Grid := { gridOf w (me u).pkg (me u).berth (me u).part ((mfWord w 8).extractLsb' 0 4).toNat deps (some loc) with
          launcher := some u.myGrp, lpkg := u.myPkg, image := u.imageOf (me u).bk idx }
        u.enqueue gr = .done v → v.unrouted v.myPkg (v.headOf v.myPkg) = false →
          ∃ t : State, exec (.launchInd h mf cnt) s = .next t ∧ (t.thr s.cur).wait = .launch ∧ (t.thr s.cur).pc = s.me.pc ∧
            t.launches = v.launches ++
              [{ head := v.headOf v.myPkg, thread := some v.cur, host := none, grid := gr, since := v.now }])) ∧
  (∀ (head : Nat) (l : Launch) (s : State), s.launches.find? (fun l => l.head == head && !s.launchLate l) = some l →
    let p := s.pkg head
    let ident : Word := BitVec.ofNat 64 (p.config * 2 ^ 40 + (p.seq + 1) % 2 ^ 40)
    ∃ t : State, exec (.launchOrder head) s = .next t ∧ l ∉ t.launches ∧ (t.pkg head).seq = p.seq + 1 ∧
      (t.grid (gridKey head ident)).ident = ident ∧
      (t.grid (gridKey head ident)).seed = (if l.grid.seed = 0 then ident else l.grid.seed) ∧
      (t.grid (gridKey head ident)).man = l.grid.man ∧ (t.grid (gridKey head ident)).st = l.grid.st ∧
      ∀ k, l.thread = some k → (t.thr k).sent = some (some ident)) ∧
  (∀ (k : Nat) (l : Launch) (s : State), s.launches.find? (fun l => l.thread == some k) = some l → l.since + 2 ^ 20 ≤ s.now →
    s.trapsNow k = true → s.frozenFollower k = false →
    (l.head < 4096 → exec (.launchTimeout k .yes) s = .next ((s.order l).takeTrap k 0x391 3 none none 0)) ∧
    ∃ t : State, exec (.launchTimeout k .no) s = .next (t.takeTrap k 0x391 3 none none 0) ∧ l ∉ t.launches ∧ t.mem = s.mem ∧
      t.grids = s.grids) ∧
  (∀ (k : Nat) (l : Launch) (s : State), s.launches.find? (fun l => l.thread == some k) = some l → l.since + 2 ^ 20 ≤ s.now →
    s.trapsNow k = false → s.frozenFollower k = false →
    ∃ t : State, exec (.launchTimeout k .no) s = .next t ∧ l ∉ t.launches ∧ (t.thr k).wait = .trapping ∧
      (t.thr k).sent = some none ∧ (t.thr k).err = some (0, 0x391) ∧ (t.thr k).pc = (s.thr k).pc ∧ t.mem = s.mem) ∧
  (∀ (head : Nat) (s : State), (∀ l ∈ s.launches, l.head = head → l.thread ≠ none ∧ l.since + 2 ^ 20 ≤ s.now) →
    exec (.launchOrder head) s = .next s)) ∧
  ((∀ (p : Pred) (own sel : Bool) (s : State), s.lets p →
    let g := (s.grp s.myGrp).grid
    let k := gridKey (s.headOf s.myPkg) s.me.a
    let hit := s.liveGrid k (s.grid g).bk && (s.grid k).abort == 0
    exec (.gcancel p) s = .next (((if hit then s.issued.setAbort k 2 else s.issued).withFlags (fun f => { f with p := hit })).complete
      8 none) ∧
    exec (.gabort p) s = .next ((if thas s.grids g then (s.issued.setAbort g 3).modThr s.cur (fun t => { t with told := true })
      else s.issued).complete 8 none) ∧
    (let j := if own then g else k
     let live := s.liveGrid j (s.grid g).bk
     let x := s.grid j
     ∃ a : Word, exec (.gstat p own sel) s = .next (((s.issued.withA a).withFlags (fun f =>
        { f with z := !live, n := false, c := false, v := false })).complete 8 none) ∧
      (live = false → a = 0) ∧
      (live = true → sel = true → a.extractLsb' 0 32 = BitVec.ofNat 32 x.disp ∧ a.extractLsb' 32 32 = BitVec.ofNat 32 x.compl) ∧
      (live = true → sel = false → a.extractLsb' 0 32 = BitVec.ofNat 32 (x.compl + x.canc) ∧
        a.extractLsb' 32 10 = x.first.getD 0 ∧ a.getLsbD 42 = x.first.isSome ∧ a.extractLsb' 43 17 = 0 ∧
        a.extractLsb' 60 2 = (if x.abort = 2 then 2 else if x.abort = 3 then 3 else 0) ∧
        a.extractLsb' 62 2 = (match x.st with | .waiting => 1 | .dealing => 2 | .dealt => 3 | .ended => 0)))) ∧
  (∀ (g : Nat) (e : BitVec 8) (s : State),
    let x := s.grid g
    let t := (s.setAbort g e).grid g
    (x.abort ≠ 0 → s.setAbort g e = s) ∧
    (x.abort = 0 → t.abort = e ∧ t.st = .dealt ∧ t.next = x.count ∧ t.canc = x.canc + (x.count - x.next) ∧ t.dealt = x.dealt ∧
      t.compl = x.compl ∧ (s.setAbort g e).threads = s.threads ∧ (s.setAbort g e).mem = s.mem)) ∧
  (∀ (g p : Nat) (s : State), thas s.grids g = true → (s.grid g).abort ≠ 0 → (s.grid g).st ≠ .ended →
    p ∉ (s.grid g).reached → p ∈ s.packagesOf (s.grid g).part →
    ∃ t : State, exec (.gridAbortDelivery g p) s = .next t ∧ p ∈ (t.grid g).reached ∧ (t.grid g).held p = [] ∧
      (t.grid g).canc = (s.grid g).canc + ((s.grid g).held p).length ∧
      ((∀ e ∈ s.clusters, e.2.armed = []) → (∀ e ∈ s.groups, e.2.st ≠ .saved) → t.mem = s.mem) ∧
      (∀ c r x, r ∈ (t.core c).deque → r ∈ (s.core c).deque ∧ ((r.group, x) ∈ s.groups → x.grid = g → x.st = .placed →
        packageOf x.cluster ≠ p)) ∧
      ∀ ck a, a ∈ (t.clus ck).armed → a ∈ (s.clus ck).armed ∧ (thas s.groups a.req.group = true →
        (s.grp a.req.group).grid = g → (s.grp a.req.group).present = true → (s.grp a.req.group).cluster = ck → packageOf ck ≠ p)))

/-- R375, R377, R374, R379: the last dependence releases a launch, and an indirect count is read; a launch begins dealing
in its turn, in the published code generation; a round deals blocks of the undealt indices to the eligible packages, and a
reclaim moves half of what the busiest package still holds. -/
def Obligations.DealingSteps : Prop :=
  (∀ (g : Nat) (s : State), (s.grid g).st = .waiting →
    let x := s.grid g
    (x.deps.any (·.hit) = true → ∃ t : State, exec (.dependenceSatisfied g) s = .next t ∧
      (t.grid g).deps = x.deps.filter (fun d => !d.hit)) ∧
    (x.deps ≠ [] → x.deps.all (·.hit) = true →
      (x.ind = none → ∃ t : State, exec (.dependenceSatisfied g) s = .next t ∧ t.grid g = { x with deps := [] } ∧ t.mem = s.mem) ∧
      (∀ loc, x.ind = some loc → ∃ t : State, exec (.dependenceSatisfied g) s = .next t ∧ (t.grid g).deps = [] ∧
        (t.grid g).ind = none ∧ (s.holders = [] → (t.grid g).count = leVal (memBytes s.mem loc 4) ∧ t.mem = s.mem))) ∧
    (∀ loc, x.ind = some loc → x.deps = [] → ∃ t : State, exec (.indirectCountRead g) s = .next t ∧ (t.grid g).ind = none ∧
      (s.holders = [] → (t.grid g).count = leVal (memBytes s.mem loc 4) ∧ t.mem = s.mem)) ∧
    (let turn := (∀ y, s.previous g = some y → y.st = .ended ∨ (x.ovl = true ∧ y.st = .dealt)) ∧
       ∀ e ∈ s.earlier g, e.2.st ≠ .waiting
     (thas s.grids g = true → x.deps = [] → x.ind = none → x.abort = 0 → s.draining x.pkg = false → turn →
      ∃ t : State, exec (.dealingStart g) s = .next t ∧ (t.grid g).st = (if x.count = 0 then .dealt else .dealing) ∧
        (t.grid g).gen = (s.part x.part).published ∧ (t.grid g).count = x.count ∧ { t with grids := s.grids } = s) ∧
     (¬ turn → exec (.dealingStart g) s = .next s))) ∧
  (∀ (g : Nat) (s : State),
    let x := s.grid g
    let es := s.eligible x
    let m := min (x.count - x.next) (2 * (es.map (·.2)).foldl (· + ·) 0)
    x.st = .dealing → x.abort = 0 → s.draining x.pkg = false → es ≠ [] → x.next < x.count →
    ∃ t : State, exec (.dealRound g) s = .next t ∧ t.mem = s.mem ∧ t.threads = s.threads ∧
      (t.grid g).next = x.next + ((shares m es).map (·.2)).foldl (· + ·) 0 ∧
      (∀ i, x.next ≤ i → i < (t.grid g).next → ∃ p ∈ es.map (·.1), i ∈ (t.grid g).held p) ∧
      (∀ p i, i ∈ (t.grid g).held p → i ∈ x.held p ∨ (x.next ≤ i ∧ i < (t.grid g).next))) ∧
  (∀ (m : Nat) (es : List (Nat × Nat)), es ≠ [] → (es.map (·.1)).Nodup → (∀ e ∈ es, 0 < e.2) →
    ((shares m es).map (·.2)).foldl (· + ·) 0 = m ∧
    let f := (es.map (·.2)).foldl (· + ·) 0
    ∀ e ∈ es, ∃ b, (e.1, b) ∈ shares m es ∧ (b = m * e.2 / f ∨ b = m * e.2 / f + 1) ∧
      (b = m * e.2 / f + 1 → ∀ d ∈ es, (d.1, m * d.2 / f) ∈ shares m es → d.2 < e.2 ∨ (d.2 = e.2 ∧ e.1 < d.1))) ∧
  (∀ (g p f b : Nat) (s : State),
    let x := s.grid g
    let n := (x.held b).length
    (p, f) ∈ s.eligible x → (∀ e ∈ s.eligible x, e.1 ≠ p → e.2 < f) → (∀ e ∈ s.eligible x, e.1 = p → e = (p, f)) →
    b ∈ s.packagesOf x.part → (∀ q ∈ s.packagesOf x.part, q ≠ b → (x.held q).length < n) → 2 ≤ n →
    x.st = .dealt → x.abort = 0 → s.draining x.pkg = false → x.count ≤ x.next →
    ∃ t : State, exec (.dealReclaim g) s = .next t ∧ (t.grid g).held b = (x.held b).take (n - n / 2) ∧
      (t.grid g).held p = (x.held b).drop (n - n / 2) ∧ t.mem = s.mem)

/-- R47, R376, R67, R59, R382, R384, R383, R242, R243: of the grids of a package's order, the first of which a group fits has it placed,
with its threads as R47 has them; the slot that has been idle longest (log 79 between equals) takes its group's oldest fork record; a
group whose threads are over retires, gives its slots back and is counted; a fault
report is summed at the root; a grid whose groups are all accounted for ends and adds one to its completion word; a grid adrift
releases its moored threads with 0x301 (log 25 and log 60 for what counts as adrift, log 83 for requests that a retirement discards). -/
def Obligations.GroupsAndReports : Prop :=
  ((∀ (package part grid gid : Nat) (rest : List Nat) (x : Grid) (bs cs : List (Nat × Grid)) (p : Plan) (s u : State),
    s.contenders package part = bs ++ (grid, x) :: cs →
    (∀ e ∈ bs, ∀ ck ∈ e.2.scan package, (s.fitsCharged e.2 ck).isNone = true) →
    (x.scan package).findSome? (fun ck => s.fitsCharged x ck) = some (p, u) →
    s.savedFirst package part (s.rcb part x.region).prio = false → x.held package = gid :: rest →
    p.slots.Nodup → (∀ e ∈ p.slots, e.2 < 16) →
    let w := (u.grid grid).man
    ∃ t : State, exec (.groupPlace package part) s = .next t ∧ t.nextGroup = u.nextGroup + 1 ∧
      (t.grp u.nextGroup).gid = gid ∧ (t.grp u.nextGroup).grid = grid ∧ (t.grp u.nextGroup).st = .placed ∧
      (t.grp u.nextGroup).cluster = p.cluster ∧ (t.grid grid).held package = rest ∧
      (t.grid grid).disp = (u.grid grid).disp + 1 ∧
      ∀ i c y, p.slots[i]? = some (c, y) →
        let k := (p.cluster * 16 + c) * 16 + y
        (t.grp u.nextGroup).slots[i]? = some k ∧ (t.thr k).group = some u.nextGroup ∧ (t.thr k).tid = i ∧
        (t.thr k).live = decide (i < mfT w) ∧ (t.thr k).pc = (mfWord w 0).setWidth 56 ∧ (t.thr k).a = BitVec.ofNat 64 i ∧
        (t.thr k).ptr 0 = mfWord w 3 ∧ (∀ n, n ≠ 0 → (t.thr k).ptr n = 0) ∧ (t.thr k).vm = 0xFFFFFFFF ∧ (t.thr k).f = {}) ∧
  (∀ (k g : Nat) (r : ForkRec) (rs : List ForkRec) (s : State), (s.thr k).group = some g → s.forksOf g = r :: rs →
    (s.grp g).st = .placed → s.idlest g = some k → s.startOk g r.pc = true →
    ∃ t : State, exec (.forkSteal k) s = .next t ∧ (t.thr k).live = true ∧ (t.thr k).pc = r.pc ∧ (t.thr k).a = r.a ∧
      (t.thr k).ptrs = r.ptrs ∧ (t.thr k).group = some g ∧ (t.thr k).tid = (s.thr k).tid ∧ (t.thr k).wait = .ready ∧
      (∀ n, ((t.thr k).handle n).st = .complete ∧ ((t.thr k).handle n).seq = ((s.thr k).handle n).seq) ∧ t.mem = s.mem ∧
      ∀ i, i < 16 → r ∉ (t.core ((s.grp g).cluster * 16 + i)).deque) ∧
  (∀ (g : Nat) (s : State), thas s.groups g = true → (s.grp g).st = .placed →
    (∀ k ∈ (s.grp g).slots, (s.thr k).live = false ∧ s.inFlight k = false) → s.forksOf g = [] → s.opsOut g true = false →
    s.writebacksOut (s.grp g).cluster = false →
    ∃ t : State, exec (.groupRetire g) s = .next t ∧ (t.grp g).st = .gone ∧ (t.grp g).slots = [] ∧
      (∀ k, (t.thr k).group ≠ some g) ∧
      (thas s.grids (s.grp g).grid = true → (t.grid (s.grp g).grid).compl = (s.grid (s.grp g).grid).compl + 1))) ∧
  ((∀ (i : Nat) (r : Report) (s : State), s.reports[i]? = some r → thas s.grids r.grid = true →
    ∃ t : State, exec (.faultReportArrival i) s = .next t ∧ t.reports = s.reports.eraseIdx i ∧
      t.grid r.grid = (s.grid r.grid).sum r ∧ t.mem = s.mem ∧ t.threads = s.threads) ∧
  (∀ (x : Grid) (r : Report),
    let y := x.sum r
    y.first = some (x.first.getD r.cause) ∧ y.compl = x.compl ∧ y.canc = x.canc ∧
    ((∀ c ∈ x.causes, c.cause ≠ r.cause) → x.causes.length < 8 → y.other = x.other ∧
      y.causes = x.causes ++ [{ cause := r.cause, count := 1, lowest := r.gid, package := r.package }]) ∧
    ((∀ c ∈ x.causes, c.cause ≠ r.cause) → 8 ≤ x.causes.length → y.causes = x.causes ∧ y.other = x.other + 1) ∧
    (∀ (i : Nat) c, x.causes[i]? = some c → c.cause = r.cause → ∃ d, y.causes[i]? = some d ∧ d.cause = c.cause ∧
      d.count = min (c.count + 1) (2 ^ 32 - 1) ∧ d.lowest = min c.lowest r.gid)) ∧
  (∀ (g : Nat) (s : State),
    let x := s.grid g
    thas s.grids g = true → x.st = .dealt → x.compl + x.canc = x.count → (∀ r ∈ s.reports, r.grid ≠ g) → s.clandWaits x = false →
    ∃ t : State, exec (.gridComplete g) s = .next t ∧ (t.grid g).st = .ended ∧ (t.grid g).compl = x.compl ∧
      ∀ loc, x.word 12 = 0 → (x.word 11).getLsbD 0 = false → x.word 10 ≠ 0 →
        s.berthAt x (x.word 10).toNat ⟨true, true⟩ = some loc → s.holders = [] → s.landings = [] → Memory.wf s.mem = true →
        memBytes t.mem loc 8 = leBytes (leVal (memBytes s.mem loc 8) + 1) 8 ∧
        ∀ a, a < loc ∨ loc + 8 ≤ a → memGet t.mem a = memGet s.mem a) ∧
  (∀ (g : Nat) (s : State), s.adrift g = true → s.yieldsCycle = false →
    (∀ c q, ∀ e ∈ (s.port c q).entries, e.filler = none ∧ e.reader = none) →
    ∃ t : State, exec (.gridAdrift g) s = .next t ∧
      ∀ k gk kind obj val since ord, (k, s.thr k) ∈ s.threads → (s.thr k).wait = .moored kind obj val since ord →
        (s.thr k).group = some gk → (s.grp gk).grid = g → s.towOf k = none → (s.thr k).trap.h = false →
        ((s.man gk 1).setWidth 56 : Addr) ≠ 0 →
        (t.thr k).trap.cause = 0x301 ∧ (t.thr k).trap.eaddr = BitVec.ofNat 64 obj ∧ (t.thr k).trap.h = true ∧
        (t.thr k).trap.einfo = kind.setWidth 64 <<< 20 ∧ (t.thr k).trap.epc = (s.thr k).pc.setWidth 64 ∧
        (t.thr k).pc = (s.man gk 1).setWidth 56 ∧ (t.thr k).wait = .ready))

/-- R440, R234, R237, R238, R160: a pre-emption starts to save a group, in the frame of its save area; at the end of its drain the group is
saved with the registers of its threads and leaves its cluster; a restore places it where it fits, with those registers, its own
kind 011 addresses renamed, and the handles of the requests that it arms again pending (R235, log 83). The size that is charged, when, and
where a restore puts its threads are the readings of log 26, log 61 and log 27. -/
def Obligations.SaveAndRestore : Prop :=
  (∀ (g : Nat) (s u : State), s.victim g = some u →
    (∀ e ∈ s.groups, e.1 ≠ g → (s.grid e.2.grid).part = (s.grid (s.grp g).grid).part → (s.victim e.1).isSome = true →
      s.before e.1 g = false) →
    ∃ t : State, exec (.preemption g) s = .next t ∧ (t.grp g).st = .saving ∧ (t.grp g).savingSince = s.now ∧
      (t.grp g).saveUnits = s.saveSize g ∧ (t.grp g).saveFrame = s.saveArea g ∧ t.mem = s.mem) ∧
  (∀ (g : Nat) (s : State),
    let x := s.grp g
    x.st = .saving → (∀ k ∈ x.slots, s.flying k = false ∧ s.inFlight k = false) → s.writebacksOut x.cluster = false →
    (∀ a ∈ x.arrays, ∀ c ∈ (s.arr x.cluster a).all, c.group = g → c.pair = 0) →
    (s.opsOut g true = false ∨ x.savingSince + s.drainLimit (s.grid x.grid).part (packageOf x.cluster) ≤ s.now) →
    ∃ (t : State) (v : Save), exec (.drainLimitExpiry g) s = .next t ∧ (t.grp g).st = .saved ∧ (t.grp g).save = some v ∧
      v.cluster = x.cluster ∧ v.gtag = x.gtag ∧ v.banks.length = x.banks.length ∧ (∀ k, (t.thr k).group ≠ some g) ∧
      ∀ i k : Nat, x.slots[i]? = some k → ∃ (pos : Nat) (th : Thread), v.threads[i]? = some (pos, th) ∧ th.a = (s.thr k).a ∧ th.va = (s.thr k).va ∧
        th.vm = (s.thr k).vm ∧ th.ptrs = (s.thr k).ptrs ∧ th.lc = (s.thr k).lc ∧ th.f = (s.thr k).f ∧ th.pc = (s.thr k).pc ∧
        th.trap = (s.thr k).trap ∧ th.tid = (s.thr k).tid ∧ th.live = (s.thr k).live) ∧
  (∀ (g ck : Nat) (v : Save) (p : Plan) (ts : List Nat) (s u : State), (s.grp g).st = .saved → (s.grp g).save = some v →
    s.fitsSavedCharged g ck = some (p, ts, u) → p.slots.Nodup → (∀ e ∈ p.slots, e.2 < 16) → v.threads.length = p.slots.length →
    (∀ e ∈ v.armed, e.1.req.thread < p.slots.length) →
    ∃ t : State, exec (.groupRestore g ck) s = .next t ∧ (t.grp g).st = .placed ∧ (t.grp g).cluster = ck ∧
      (t.grp g).gtag = u.freeTag ck ∧ (t.grp g).tiles = ts ∧
      ∀ (i c y pos : Nat) (th : Thread), p.slots[i]? = some (c, y) → v.threads[i]? = some (pos, th) →
        let k := (ck * 16 + c) * 16 + y
        (t.grp g).slots[i]? = some k ∧ (t.thr k).a = th.a ∧ (t.thr k).va = th.va ∧ (t.thr k).vm = th.vm ∧ (t.thr k).lc = th.lc ∧
        (t.thr k).f = th.f ∧ (t.thr k).pc = th.pc ∧ (t.thr k).tid = th.tid ∧
        ((s.grp g).aborted = false → packageOf ck ∉ (s.grid (s.grp g).grid).reached →
          ((∀ e ∈ v.armed, e.1.req.thread ≠ i) → (t.thr k).h = th.h) ∧
          ∀ e ∈ v.armed, e.1.req.thread = i → (th.handle (BitVec.ofNat 3 e.1.req.h)).seq = e.1.req.seq →
            ((t.thr k).handle (BitVec.ofNat 3 e.1.req.h)).st = .pending) ∧
        ∀ n, (t.thr k).ptr n = rewrite v.cluster v.gtag ck (u.freeTag ck) (th.ptr n)) ∧
  (∀ (old oldTag ck tag : Nat) (v : Word),
    let mine := v.extractLsb' 52 4 = 0xB ∧ (v.extractLsb' 42 6).toNat = old % 64 ∧ (v.extractLsb' 24 8).toNat = oldTag % 256
    let r := rewrite old oldTag ck tag v
    (¬ mine → r = v) ∧
    (mine → r.extractLsb' 42 6 = BitVec.ofNat 6 ck ∧ r.extractLsb' 24 8 = BitVec.ofNat 8 tag ∧
      r.extractLsb' 0 24 = v.extractLsb' 0 24 ∧ r.extractLsb' 32 10 = v.extractLsb' 32 10 ∧
      r.extractLsb' 48 16 = v.extractLsb' 48 16))

/-- R406 to R410, R412, R413: what one observation does to a slot of a branch, a load and a loop site, a loop's end among them; an update
enters its cluster's queue of 32, or is counted as dropped; it is performed at its slot's home, after its thread's earlier updates of the
slot in another cluster's queue (R411); the drops are added to their copy; a read takes a young entry of the cache, or stalls until the
home answers. A slot with an uncorrectable error reads as zero, and the next update starts from zero. -/
def Obligations.WakeSteps : Prop :=
  ((∀ (k base : Nat) (site : BitVec 16) (o : WakeObs) (s : State), s.wakeBase k = some base →
    let ck := clusterOf (coreOf k)
    let q := (s.clus ck).wakeQ
    let t := s.wakeSend k site o
    (q.length < 32 → (t.clus ck).wakeQ = q ++
      [{ loc := base + 8 * site.toNat, copy := base, thread := ((s.thr k).group, (s.thr k).tid), order := s.moorings, obs := o }]) ∧
    (32 ≤ q.length → (t.clus ck).wakeQ = q ∧ tget (t.clus ck).wakeDrops 0 base = tget (s.clus ck).wakeDrops 0 base + 1)) ∧
  (∀ (ck : Nat) (u : WakeUpd) (us : List WakeUpd) (s : State), (s.clus ck).wakeQ = u :: us →
    s.olderUpdate u.thread u.loc u.order = true → exec (.wakeUpdatePerform ck) s = .next s) ∧
  (∀ (ck : Nat) (u : WakeUpd) (us : List WakeUpd) (s : State), (s.clus ck).wakeQ = u :: us →
    s.olderUpdate u.thread u.loc u.order = false → s.flaws = [] → s.poison = [] →
    s.holders = [] → s.landings = [] → Memory.wf s.mem = true →
    ∃ t : State, exec (.wakeUpdatePerform ck) s = .next t ∧ (t.clus ck).wakeQ = us ∧
      leWord (memBytes t.mem u.loc 8) = ((Slot.ofWord (leWord (memBytes s.mem u.loc 8))).note u.obs).toWord ∧
      (∀ a, a < u.loc ∨ u.loc + 8 ≤ a → memGet t.mem a = memGet s.mem a) ∧ t.threads = s.threads) ∧
  (∀ (ck copy n : Nat) (s : State), tget (s.clus ck).wakeDrops 0 copy = n → n ≠ 0 → s.flaws = [] → s.poison = [] → s.holders = [] →
    s.landings = [] → Memory.wf s.mem = true →
    ∃ t : State, exec (.wakeDropFlush ck copy) s = .next t ∧ tget (t.clus ck).wakeDrops 0 copy = 0 ∧
      leVal (memBytes t.mem copy 4) = leVal (memBytes s.mem copy 4) ∧
      leVal (memBytes t.mem (copy + 4) 4) = min (leVal (memBytes s.mem (copy + 4) 4) + n) (2 ^ 32 - 1)) ∧
  (∀ (k loc : Nat) (s : State), (s.thr k).wait = .miss → (s.thr k).sent = some none → (s.thr k).watch = some loc → s.flaws = [] →
    s.poison = [] → s.holders = [] →
    ∃ t : State, exec (.wakeReadFill k) s = .next t ∧ t.mem = s.mem ∧ (t.thr k).sent = some (some (leWord (memBytes s.mem loc 8)))) ∧
  (∀ (f loc : Nat) (s : State), f ∈ s.flaws → loc ≤ f → f < loc + 8 →
    (∀ k, (s.thr k).wait = .miss → (s.thr k).sent = some none → (s.thr k).watch = some loc →
      ∃ t : State, exec (.wakeReadFill k) s = .next t ∧ t.mem = s.mem ∧ (t.thr k).sent = some (some 0)) ∧
    (∀ ck u us, (s.clus ck).wakeQ = u :: us → u.loc = loc → s.olderUpdate u.thread u.loc u.order = false → s.poison = [] →
      s.holders = [] → s.landings = [] → Memory.wf s.mem = true →
      ∃ t : State, exec (.wakeUpdatePerform ck) s = .next t ∧ t.readError loc 8 = none ∧
        leWord (memBytes t.mem loc 8) = ((Slot.ofWord 0).note u.obs).toWord ∧
        ∀ a, a < loc ∨ loc + 8 ≤ a → memGet t.mem a = memGet s.mem a)) ∧
  (∀ (slot : BitVec 16) (base : Nat) (s : State), s.wakeBase s.cur = some base →
    let loc := base + 8 * slot.toNat
    (∀ v, s.me.sent = some (some v) → Does (wakeRead slot) s v s) ∧
    (∀ e, s.me.sent = none → s.cached s.myClus loc = some e → Does (wakeRead slot) s e.val (s.keep s.myClus e)))) ∧
  (∀ (x : Slot) (b : Bool) (l t : BitVec 16),
    let bit : BitVec 16 := if b then 1 else 0
    let aged : Bool := x.e == 0xFFFF
    let e : BitVec 16 := if aged then 0x8000 else x.e + 1
    let o : BitVec 16 := (if aged then x.o >>> 1 else x.o) + bit
    (x.note (.branch b) = { gen := x.gen + 1, dec := if e.toNat < 2 * o.toNat then 1 else 0, last := (x.last <<< 1) ||| bit,
                            o := o, e := e }) ∧
    (x.note (.load b l) = { gen := x.gen + 1, dec := BitVec.ofNat 8 (min 7 (8 * o.toNat / e.toNat)), last := l, o := o, e := e }) ∧
    (x.note .taken = { x with gen := x.gen + 1, last := if x.last = 0xFFFF then x.last else x.last + 1 }) ∧
    (x.note .fell = ({ x with last := 0 } : Slot).note (.run (if x.last = 0xFFFF then x.last else x.last + 1))) ∧
    (let m : BitVec 16 := if e = 1 then t else BitVec.ofNat 16 ((x.o.toNat + t.toNat) / 2)
     x.note (.run t) = { gen := x.gen + 1, last := x.last, o := m, e := e,
                         dec := if e.toNat < 2 ∨ m.toNat < 4 then 0 else BitVec.ofNat 8 (min 3 (Nat.log2 m.toNat - 1)) }) ∧
    Slot.ofWord x.toWord = x)

/-- R421 to R426: where `wsel` and `wbr` go on for a slot's decision; what `wpf` prefetches; the unroll count and remainder of `wunr`; the
slot that `wrd` reads; what `wnote` records. A branch outside a tow; the decision of `wunr` in a tow is that of R414 and log 78. -/
def Obligations.WakeInstructions : Prop :=
  (∀ (p : Pred) (slot : BitVec 16) (nv : BitVec 3) (thr : BitVec 8) (disp : BitVec 34) (v : Word) (s u : State), s.lets p →
    s.alone → Does (wakeRead slot) s.issued v u →
    let d := (v.extractLsb' 48 8).toNat
    let base : Addr := s.me.pc + disp.signExtend 56 * 4
    let x : Addr := base + BitVec.ofNat 56 (32 * (if d ≤ nv.toNat then d else 0))
    (u.startOk u.myGrp x = true → exec (.wsel p slot nv disp) s = .next (u.complete 12 (some x))) ∧
    (u.startOk u.myGrp x = false →
      exec (.wsel p slot nv disp) s = .next (s.issued.takeTrap s.cur 0x0A1 0 none (some (x.setWidth 64)) 0)) ∧
    (d < thr.toNat → exec (.wbr p slot thr disp) s = .next (u.complete 12 none)) ∧
    (thr.toNat ≤ d → u.startOk u.myGrp base = true → exec (.wbr p slot thr disp) s = .next (u.complete 12 (some base))) ∧
    (thr.toNat ≤ d → u.startOk u.myGrp base = false →
      exec (.wbr p slot thr disp) s = .next (s.issued.takeTrap s.cur 0x0A1 0 none (some (base.setWidth 64)) 0))) ∧
  (∀ (p : Pred) (slot : BitVec 16) (tgt : CacheTgt) (n : BitVec 3) (m : MemMode) (unit : BitVec 24) (v : Word) (x : Addr)
    (s u w : State), s.lets p → Does (wakeRead slot) s.issued v u →
    let len := min ((v.extractLsb' 48 8).toNat * unit.toNat) (2 ^ 24 - 1)
    Does (specAddr n m len len) u x w →
    exec (.wpf p slot tgt n m unit) s = .next ((w.prefetch w.myCore w.myGrp tgt (coverLines x len)).complete 12 none)) ∧
  (∀ (p : Pred) (ty : Ty) (src : Opnd) (wr : Bool) (slot : BitVec 16) (umax : BitVec 2) (v : Word) (dec : Nat) (s u w : State),
    s.lets p → Does (readSrc src (tyBytes ty) opA) s.issued v u → Does (sharedDec slot) u dec w →
    let n : W32 := (extendTo ty (lowOf ty v)).setWidth 32
    let d := min dec umax.toNat
    let rem := n.toNat % 2 ^ d
    let fl (f : Flags) : Flags := { f with z := decide (n.toNat / 2 ^ d = 0), p := decide (rem ≠ 0), n := false, c := false, v := false }
    let t := w.modThr w.cur (fun t => { t with lc := BitVec.ofNat 32 (n.toNat / 2 ^ d), a := BitVec.ofNat 64 rem, f := fl t.f })
    exec (.wunr p ty src wr slot umax) s =
      .next ((if wr then t.noted slot (.run (BitVec.ofNat 16 (min n.toNat 0xFFFF))) else t).complete 12 none)) ∧
  (∀ (p : Pred) (slot : BitVec 16) (base : Nat) (s : State), s.lets p → s.wakeBase s.cur = some base → s.flaws = [] →
    s.poison = [] → s.holders = [] →
    let loc := base + 8 * slot.toNat
    s.olderUpdate (s.me.group, s.me.tid) loc s.moorings = false →
    let v := leWord (memBytes s.mem loc 8)
    exec (.wrd p slot) s = .next (((s.issued.withA v).withFlags (fun f =>
      { f with z := decide (v = 0), n := false, c := false, v := false })).complete 12 none)) ∧
  (∀ (p : Pred) (slot : BitVec 16) (base f : Nat) (s : State), s.lets p → s.wakeBase s.cur = some base → f ∈ s.flaws →
    base + 8 * slot.toNat ≤ f → f < base + 8 * slot.toNat + 8 →
    s.olderUpdate (s.me.group, s.me.tid) (base + 8 * slot.toNat) s.moorings = false →
    ∃ u : State, exec (.wrd p slot) s = .next (u.complete 12 none) ∧ u.me.a = 0 ∧ u.me.f.z = true ∧ u.mem = s.mem) ∧
  (∀ (p : Pred) (ty : Ty) (src : Opnd) (slot : BitVec 16) (x : Word) (s u : State), s.lets p →
    Does (readSrc src (tyBytes ty) opA) s.issued x u →
    let v := extendTo ty (lowOf ty x)
    let records (k : SiteKind) (o : WakeObs) : Prop := exec (.wnote p ty k src slot) s = .next ((u.noted slot o).complete 12 none)
    records .branch (.branch (v.getLsbD 0)) ∧ records .load (.load (v.getLsbD 0) (v.extractLsb' 16 16)) ∧
    records .loop (.run (BitVec.ofNat 16 (min (v.extractLsb' 0 32).toNat 0xFFFF))))

/-- R447, R448, R464, R451, R466, R450: Keel performs no command that is not the next of its ring; it refuses one whose issuer may not
issue it, with the status that the spec gives; `IDENTIFY` gives the enabled clusters, the HBM in units of 64 KiB and the public
key; `ATTEST` writes its signed report; `DECK_LOAD` runs an image that is signed and answers BADSIG else, and that the Deck which runs
then goes on is the reading of log 44; an opcode that the table lacks answers BADCMD. A buffer that the event ring's next entry does not
meet. The order of the refusals is the reading of log 32, the parameters are arguments (log 81), keys and signatures opaque (log 31). -/
def Obligations.CommandRefusalAndIdentity : Prop :=
  ((∀ (c : Cmd) (s : State) (n m : Nat) (b : Bool) (x : Addr) (w : Word) (bs : List Byte) (ws : List Word) (sl : SliceArg)
    (fa : FabricArg) (ra : RcbArg) (rq : MapReq),
    ∀ e ∈ ([(.identify c n, 0x01, .any), (.attest c bs n, 0x02, .any), (.partCreate c sl, 0x10, .pf),
      (.partDestroy c n, 0x11, .pf), (.berthBind c n m n m n, 0x12, .pf), (.setLimits c n m n, 0x13, .pf),
      (.fabricConfig c fa, 0x14, .pf), (.regionWrite c ra, 0x20, .berth), (.regionRemove c n, 0x21, .berth),
      (.map c rq, 0x30, .berth), (.unmap c x n b b, 0x31, .berth), (.mfBuild c ws, 0x40, .berth), (.mfRemove c n, 0x41, .berth),
      (.launchCommand c n, 0x50, .berth), (.cancel c w, 0x51, .berth), (.imageLoad c n m, 0x60, .berth),
      (.copy c b n x m, 0x70, .berth), (.deckLoad c n m, 0x90, .pf)] : List (Instr × BitVec 8 × Issuer)),
      (s.silent c.package = true ∨ s.cmdReady c (· == e.2.1) = false → exec e.1 s = .next s) ∧
      (∀ st, Memory.wf s.hostMem = true → s.silent c.package = false → s.cmdReady c (· == e.2.1) = true → s.refusal c e.2.2 = some st →
        ∃ t : State, exec e.1 s = .next t ∧ s.answers c st t ∧ t.mem = s.mem ∧ t.threads = s.threads ∧ t.grids = s.grids ∧
          t.packages = s.packages)) ∧
  (∀ (c : Cmd) (s : State), s.refusal c .any = none ∧
    ((s.pkg c.package).recordOk = false → s.refusal c .pf = some 5 ∧ s.refusal c .berth = some 5) ∧
    ((s.pkg c.package).recordOk = true →
      (∀ b, c.berth = some b → s.refusal c .pf = some 2 ∧
        (s.refusal c .berth = none ↔ (s.berth (berthKey c.package b)).bound ≠ none)) ∧
      (c.berth = none → s.refusal c .pf = none ∧ s.refusal c .berth = some 2)))) ∧
  (∀ (c : Cmd) (buffer address length : Nat) (nonce : List Byte) (opc : BitVec 8) (s : State),
    let ev := (s.berth (cmdKey c)).erbase.toNat + 16 * (s.berth (cmdKey c)).ertail
    let p := s.pkg c.package
    (s.takes c 0x01 .any → ∃ t : State, exec (.identify c buffer) s = .next t ∧ s.answers c 0 t ∧
      (s.resultIn c t).extractLsb' 48 16 = BitVec.ofNat 16 p.enabled.length ∧
      (s.resultIn c t).extractLsb' 0 48 = BitVec.ofNat 48 (s.hbmUnits c.package) ∧
      (buffer + (publicKey c.package).length ≤ ev ∨ ev + 16 ≤ buffer →
        memBytes t.hostMem buffer (publicKey c.package).length = publicKey c.package)) ∧
    (s.takes c 0x02 .any →
      let r := s.report451 c nonce
      let report := r ++ (Config.falconSign (Config.pufSeed c.package) r).take 1280
      ∃ t : State, exec (.attest c nonce buffer) s = .next t ∧ s.answers c 0 t ∧
        (buffer + report.length ≤ ev ∨ ev + 16 ≤ buffer → memBytes t.hostMem buffer report.length = report)) ∧
    (s.takes c 0x90 .pf →
      let image := memBytes s.hostMem address length
      (Config.deckSigned (recordKey p.booted) image = true → ∃ t : State, exec (.deckLoad c address length) s = .next t ∧
        s.answers c 0 t ∧ t.pkg c.package = p.runDeck image s.now) ∧
      (Config.deckSigned (recordKey p.booted) image = false → ∃ t : State, exec (.deckLoad c address length) s = .next t ∧
        s.answers c 6 t ∧ t.packages = s.packages)) ∧
    (s.takes c opc (if c.berth.isSome then .berth else .pf) → opc ∉ knownOpcodes →
      ∃ t : State, exec (.unknownCommand c opc) s = .next t ∧ s.answers c 1 t ∧ t.mem = s.mem ∧ t.packages = s.packages))

/-- R446, R447, R203, R445, R467: what a host write of a register of BAR0, of its doorbell and of ERHEAD does, and that it does nothing
on a package that is off or boots; a host access to
device memory within a line reads and writes at its home, and a write of a locked frame is discarded, with a Completer Abort where it
is not posted, as if it were done in a CXL.mem write. The turns in which a message goes first, and those in which none does, are the
model's choice (log 7, log 52); so are the low bits and the lengths that the
registers take (log 43), and the answer of a write that is performed (log 42). -/
def Obligations.HostAccesses : Prop :=
  (∀ (p fn v : Nat) (ws : List (Nat × List Byte)) (s : State),
    let b := s.berth (berthKey p fn)
    (∃ t : State, exec (.crtailDoorbell p fn v ws) s = .next t ∧ t.mem = s.mem ∧
      t.hostMem = ws.foldl (fun m w => memWrite m w.1 w.2) s.hostMem ∧
      t.berth (berthKey p fn) = if s.silent p then b
        else { b with crtail := if ringLen b.crsize 4 12 = 0 then v else v % ringLen b.crsize 4 12 }) ∧
    (s.silent p = true → exec (.erheadWrite p fn v) s = .next s ∧ ∀ o x, exec (.bar0RegisterWrite p fn o x) s = .next s) ∧
    (let h := if ringLen b.ersize 4 14 = 0 then v else v % ringLen b.ersize 4 14
     (s.silent p = false → b.events = [] → ∃ t : State, exec (.erheadWrite p fn v) s = .next t ∧
        t.berth (berthKey p fn) = { b with erhead := h } ∧ t.hostMem = s.hostMem) ∧
     (∀ e, s.silent p = false → Memory.wf s.hostMem = true → b.events = [e] → Berth.eventsFull { b with erhead := h } = false →
        ∃ t : State, exec (.erheadWrite p fn v) s = .next t ∧ (t.berth (berthKey p fn)).events = [] ∧
          (t.berth (berthKey p fn)).ertail = (b.ertail + 1) % ringLen b.ersize 4 14 ∧
          memBytes t.hostMem (b.erbase.toNat + 16 * b.ertail) 16 = leBytes e.toNat 16)) ∧
    (∀ x : Word, s.silent p = false →
      let put (o : Nat) (r : Berth) : Prop := exec (.bar0RegisterWrite p fn o x) s = .next (s.setBerth (berthKey p fn) r)
      (b.crhead = b.crtail → put 0x000 { b with crbase := x &&& ~~~(63 : Word) } ∧ put 0x008 { b with crsize := x } ∧
        put 0x020 { b with erbase := x &&& ~~~(15 : Word) } ∧ put 0x028 { b with ersize := x }) ∧
      (b.crhead ≠ b.crtail → ∀ o ∈ ([0x000, 0x008, 0x020, 0x028] : List Nat), exec (.bar0RegisterWrite p fn o x) s = .next s) ∧
      exec (.bar0RegisterWrite p fn 0x010 x) s = exec (.crtailDoorbell p fn x.toNat []) s ∧
      exec (.bar0RegisterWrite p fn 0x038 x) s = exec (.erheadWrite p fn x.toNat) s)) ∧
  (∀ (p berth : Nat) (va : Addr) (bs : List Byte) (kind : HostReq) (l : Leaf) (s : State), bs ≠ [] →
    va.toNat % 128 + bs.length ≤ 128 → s.walk (rootKey (berthKey p berth) p) va.toNat = .leaf l →
    let bk := berthKey p berth
    let pa := l.pa + va.toNat % 2 ^ l.size
    s.sameDomain p (paPkg pa) = true → s.unrouted p (paPkg pa) = false →
    (s.eager = true → s.hostPending p bk = false →
      (s.locked pa = true → ∃ t : State, exec (.hostWrite p berth va bs kind) s = .next t ∧ t.mem = s.mem ∧
        (kind = .nonPosted → (t.berth bk).answer = some .completerAbort) ∧ (kind = .mem → (t.berth bk).answer = some .normal)) ∧
      (s.locked pa = false → l.wr = true → s.holders = [] → s.landings = [] → Memory.wf s.mem = true →
        ∃ t : State, exec (.hostWrite p berth va bs kind) s = .next t ∧ memBytes t.mem pa bs.length = bs ∧
          (∀ a, a < pa ∨ pa + bs.length ≤ a → memGet t.mem a = memGet s.mem a) ∧
          (kind ≠ .posted → (t.berth bk).answer = some .normal))) ∧
    (s.eager = false ∨ s.hostPending p bk = true → s.locked pa = true ∨ l.wr = true →
      ∃ (t : State) (m : Msg), exec (.hostWrite p berth va bs kind) s = .next t ∧ (t.pkg p).outbox = (s.pkg p).outbox ++ [m] ∧
        m.loc = pa ∧ m.op = .write bs ∧ t.mem = s.mem)) ∧
  (∀ (p berth : Nat) (va : Addr) (n : Nat) (l : Leaf) (s : State), n ≠ 0 → va.toNat % 128 + n ≤ 128 →
    s.walk (rootKey (berthKey p berth) p) va.toNat = .leaf l → l.rd = true →
    let pa := l.pa + va.toNat % 2 ^ l.size
    s.sameDomain p (paPkg pa) = true → s.unrouted p (paPkg pa) = false →
    (s.eager = true → s.readError pa n = none → s.holders = [] →
      ∃ t : State, exec (.hostRead p berth va n) s = .next t ∧ t.mem = s.mem ∧
        (t.berth (berthKey p berth)).reply = memBytes s.mem pa n) ∧
    (s.eager = false → ∃ (t : State) (m : Msg), exec (.hostRead p berth va n) s = .next t ∧
      (t.pkg p).outbox = (s.pkg p).outbox ++ [m] ∧ m.loc = pa ∧ m.op = .read n ∧ t.mem = s.mem))

/-- R436, R437, R378, R442, R449: the commands that create, limit and destroy a partition's slice, configure a package in its fabric, and
bind a berth; a function-level reset aborts the grids of its berth, and clears the berth once they are over. What names a partition in its
pod, which load-store domain a member is of that is listed in none, what `FABRIC_CONFIG` refuses beyond R15, R378 and R467, and its head
argument are the model's choice (log 80), and so are region 1 without a written block (log 41) and the statuses and
effects that logs 32, 38, 39 and 40 read into R437, R442 and R448. -/
def Obligations.PartitionCommands : Prop :=
  (∀ (c : Cmd) (x : SliceArg) (s : State), s.takes c 0x10 .pf →
    let p := s.pkg c.package
    let fit := x.clusters ≠ [] ∧ x.units ≠ [] ∧ (∀ k ∈ x.clusters, k ∈ p.enabled) ∧ (∀ u ∈ x.units, u < 144) ∧
      (∀ q ∈ x.ports, q ∈ p.ports) ∧ p.slices.length < 16 ∧ x.number < 2 ^ 16
    let taken := ∃ y ∈ p.slices, y.part = x.number ∨ (∃ k ∈ x.clusters, k ∈ y.clusters) ∨ (∃ u ∈ x.units, u ∈ y.units) ∨
      (∃ q ∈ x.ports, q ∈ y.ports)
    (¬ fit → ∃ t : State, exec (.partCreate c x) s = .next t ∧ s.answers c 5 t ∧ t.packages = s.packages) ∧
    (fit → taken → ∃ t : State, exec (.partCreate c x) s = .next t ∧ s.answers c 4 t ∧ t.packages = s.packages) ∧
    (fit → ¬ taken → ∃ (t : State) (y : Slice), exec (.partCreate c x) s = .next t ∧ s.answers c 0 t ∧
      (t.pkg c.package).slices = p.slices ++ [y] ∧ y.part = x.number ∧ (∀ k, k ∈ y.clusters ↔ k ∈ x.clusters) ∧
      (∀ u, u ∈ y.units ↔ u ∈ x.units) ∧ (∀ q, q ∈ y.ports ↔ q ∈ x.ports))) ∧
  (∀ (c : Cmd) (n : Nat) (s : State), s.takes c 0x11 .pf →
    let p := s.pkg c.package
    ((∀ y ∈ p.slices, y.part ≠ n) → ∃ t : State, exec (.partDestroy c n) s = .next t ∧ s.answers c 1 t ∧ t.mem = s.mem) ∧
    (∀ y, p.slices.find? (fun y => y.part == n) = some y →
      (s.partBusy (s.partKey c.package n) = true →
        ∃ t : State, exec (.partDestroy c n) s = .next t ∧ s.answers c 4 t ∧ t.packages = s.packages) ∧
      (s.partBusy (s.partKey c.package n) = false → ∃ t : State, exec (.partDestroy c n) s = .next t ∧ s.answers c 0 t ∧
        (∀ z, z ∈ (t.pkg c.package).slices ↔ z ∈ p.slices ∧ z.part ≠ n) ∧
        ∀ a, a < 2 ^ 52 → paPkg a = c.package → paUnit a ∈ y.units → memGet t.mem a = 0))) ∧
  (∀ (c : Cmd) (n drain delay : Nat) (s : State), s.takes c 0x13 .pf →
    let xs := (s.pkg c.package).slices
    let k := s.partKey c.package n
    ((∀ y ∈ xs, y.part ≠ n) → ∃ t : State, exec (.setLimits c n drain delay) s = .next t ∧ s.answers c 1 t ∧ t.parts = s.parts ∧
      t.packages = s.packages) ∧
    ((∃ y ∈ xs, y.part = n) → ∃ t : State, exec (.setLimits c n drain delay) s = .next t ∧ s.answers c 0 t ∧
      (t.pkg c.package).slices = xs.map (fun y => if y.part = n then { y with drain := drain } else y) ∧
      (∀ q, q ≠ c.package → t.pkg q = s.pkg q) ∧ t.part k = { s.part k with delay := delay })) ∧
  (∀ (c : Cmd) (x : FabricArg) (s : State), s.takes c 0x14 .pf →
    let p := s.pkg c.package
    let busy := s.slack c.package = true ∨ (∃ y ∈ p.slices, s.partBusy (s.partKey c.package y.part) = true) ∨
      (∃ e ∈ s.grids, e.2.pkg = c.package ∧ e.2.st ≠ .ended) ∨ (∃ l ∈ s.launches, l.grid.pkg = c.package)
    let fit := podOk x c.package = true ∧ (s.packages.filter (fun e => e.1 != c.package && e.2.config == x.config &&
      e.2.head == some x.head && e.2.domain == domainIn x c.package)).length < 512
    (x.config = 0 ∨ x.config ≤ p.highest ∨ 2 ^ 24 ≤ x.config ∨ ¬ fit →
      ∃ t : State, exec (.fabricConfig c x) s = .next t ∧ s.answers c 1 t ∧ t.packages = s.packages) ∧
    (p.highest < x.config → x.config < 2 ^ 24 → fit → busy →
      ∃ t : State, exec (.fabricConfig c x) s = .next t ∧ s.answers c 4 t ∧ t.packages = s.packages) ∧
    (p.highest < x.config → x.config < 2 ^ 24 → fit → ¬ busy →
      ∃ t : State, exec (.fabricConfig c x) s = .next t ∧ s.answers c 0 t ∧ (t.pkg c.package).config = x.config ∧
        (t.pkg c.package).highest = x.config ∧ (t.pkg c.package).head = some x.head ∧ (t.pkg c.package).seq = 0 ∧
        (t.pkg c.package).domain = domainIn x c.package ∧
        (t.pkg c.package).members = x.members ∧ (t.pkg c.package).routes = x.routes ∧
        (∀ q, q ∈ (t.pkg c.package).fabricPorts ↔ q ∈ x.ports ∧ q ∈ p.ports) ∧
        ∀ q, q ≠ c.package → t.pkg q = s.pkg q)) ∧
  (∀ (p b : Nat) (s : State),
    let bk := berthKey p b
    let idle := (∀ e ∈ s.grids, e.2.bk = bk → e.2.st = .ended) ∧ (∀ l ∈ s.launches, l.grid.bk ≠ bk) ∧
      (∀ e ∈ s.images, e.2.berth ≠ bk)
    (∀ (c : Cmd) (part region trust cls : Nat), c.package = p → s.takes c 0x12 .pf →
      let n := s.partKey p part
      let ok := b < 256 ∧ (∃ x ∈ (s.pkg p).slices, x.part = part) ∧ (region = 1 ∨ thas (s.part n).regions region = true) ∧
        1 ≤ trust ∧ trust ≤ 255 ∧ 1 ≤ cls ∧ cls ≤ 255
      (¬ ok → ∃ t : State, exec (.berthBind c b part region trust cls) s = .next t ∧ s.answers c 1 t ∧
        ∀ k, (t.berth k).bound = (s.berth k).bound) ∧
      (ok → (s.berth bk).resetting ≠ none → ∃ t : State, exec (.berthBind c b part region trust cls) s = .next t ∧ s.answers c 4 t ∧
        ∀ k, (t.berth k).bound = (s.berth k).bound) ∧
      (ok → (s.berth bk).resetting = none → idle →
        ∃ t : State, exec (.berthBind c b part region trust cls) s = .next t ∧ s.answers c 0 t ∧
          (t.berth bk).bound = some (n, region) ∧ (t.berth bk).trust = trust ∧ (t.berth bk).cls = cls ∧
          (t.berth bk).mfs = [] ∧ ∀ r ∈ t.roots, r.1 / 4096 ≠ bk)) ∧
    ((s.berth bk).resetting = none →
      (∃ t : State, exec (.functionLevelReset p b) s = .next t ∧
        ∀ k, thas s.grids k = true → (s.grid k).bk = bk → (s.grid k).st ≠ .ended → (t.grid k).abort ≠ 0) ∧
      (idle → ∃ t : State, exec (.functionLevelReset p b) s = .next t ∧ t.mem = s.mem ∧ (t.berth bk).mfs = [] ∧
        (t.berth bk).bound = (s.berth bk).bound ∧ (t.berth bk).events = [] ∧ (t.berth bk).crhead = 0 ∧ (t.berth bk).crtail = 0 ∧
        (t.berth bk).resetting = none)))

/-- R438, R439, R441: `REGION_WRITE` sets a control block of the berth's subtree and keeps its charges; `REGION_REMOVE` takes an
idle one away; a charge is made against a region and its ancestors, or not at all; an error that no thread can be told
aborts the grids of its fault domain with E 3, and posts ERR_DOMAIN on the event ring of a berth bound in it. The statuses of a malformed
block, and what a region without a block inherits, are the readings of log 41 and log 23; BADCMD for a region that is not known that of
log 32; BUSY for a region that a berth is bound to is the model's choice (log 91). -/
def Obligations.RegionCommands : Prop :=
  (∀ (c : Cmd) (x : RcbArg) (s : State), s.takes c 0x20 .berth →
    let n := (s.home c).1
    let top := (s.home c).2
    let regs := (s.part n).regions
    let known := thas regs x.region = true ∨ x.region = 1
    let within := (known → s.within n x.region top = true) ∧ (¬ known → s.within n x.parent top = true) ∧
      (x.region ≠ top → s.within n x.parent top = true)
    let fit := 1 ≤ x.region ∧ x.region ≤ 65535 ∧ x.prio ≤ 7 ∧ x.budgets.length = 9 ∧ (x.region = 1 → x.parent = 0) ∧
      (x.region ≠ 1 → (thas regs x.parent = true ∨ x.parent = 1) ∧ s.within n x.parent x.region = false) ∧
      (known → x.region ≠ 1 → (tget regs {} x.region).parent = x.parent ∨ ∀ u ∈ (tget regs {} x.region).used, u = 0)
    (¬ within → ∃ t : State, exec (.regionWrite c x) s = .next t ∧ s.answers c 2 t ∧ t.parts = s.parts) ∧
    (within → ¬ fit → ∃ t : State, exec (.regionWrite c x) s = .next t ∧ s.answers c 1 t ∧ t.parts = s.parts) ∧
    (within → fit → ∃ t : State, exec (.regionWrite c x) s = .next t ∧ s.answers c 0 t ∧
      t.rcb n x.region = { parent := x.parent, fd := x.fd, prio := x.prio, bud := x.budgets, used := (tget regs {} x.region).used } ∧
      ∀ r, r ≠ x.region → t.rcb n r = s.rcb n r)) ∧
  (∀ (c : Cmd) (r : Nat) (s : State), s.takes c 0x21 .berth →
    let n := (s.home c).1
    let regs := (s.part n).regions
    let busy := (∃ u ∈ (s.rcb n r).used, u ≠ 0) ∨ (∃ e ∈ regs, e.2.parent = r) ∨ (∃ b ∈ s.berths, b.2.bound = some (n, r))
    (thas regs r = false → ∃ t : State, exec (.regionRemove c r) s = .next t ∧ s.answers c 1 t ∧ t.parts = s.parts) ∧
    (thas regs r = true → s.within n r (s.home c).2 = true → busy →
      ∃ t : State, exec (.regionRemove c r) s = .next t ∧ s.answers c 4 t ∧ t.parts = s.parts) ∧
    (thas regs r = true → s.within n r (s.home c).2 = true → ¬ busy →
      ∃ t : State, exec (.regionRemove c r) s = .next t ∧ s.answers c 0 t ∧ thas (t.part n).regions r = false)) ∧
  (∀ (n i r k : Nat) (s : State), i < 9 → k ≠ 0 → (s.ancestors n r).Nodup →
    let fits := ∀ x ∈ s.ancestors n r, ∀ b, s.budget n i x = some b → s.used n i x + k ≤ b
    (¬ fits → s.charge n i r k = none) ∧
    (fits → ∃ t : State, s.charge n i r k = some t ∧
      (∀ x ∈ s.ancestors n r, t.used n i x = s.used n i x + k) ∧ (∀ x, x ∉ s.ancestors n r → t.rcb n x = s.rcb n x))) ∧
  (∀ (n r : Nat) (cause : BitVec 10) (s : State),
    ((n, r, cause) ∉ s.untold → exec (.errDomain n r cause) s = .next s) ∧
    ((n, r, cause) ∈ s.untold → ∃ t : State, exec (.errDomain n r cause) s = .next t ∧ t.mem = s.mem ∧
      t.untold = s.untold.erase (n, r, cause) ∧
      (∀ k, thas s.grids k = true → (s.grid k).part = n → (s.grid k).st ≠ .ended →
        s.within n (s.grid k).region (s.faultDomain n r) = true →
          (t.grid k).abort = if (s.grid k).abort = 0 then 3 else (s.grid k).abort) ∧
      ∀ bk, (s.berths.filter (fun e => match e.2.bound with
          | some (p, q) => p == n && s.within n q (s.faultDomain n r)
          | none => false)).map (·.1) = [bk] →
        let b := s.berth bk
        let w := memBytes t.hostMem (b.erbase.toNat + 16 * b.ertail) 16
        Memory.wf s.hostMem = true → b.events = [] → b.eventsFull = false →
          (t.berth bk).ertail = (b.ertail + 1) % ringLen b.ersize 4 14 ∧ leVal (w.take 2) = 0 ∧ w.getD 2 0 = 3 ∧ w.getD 3 0 = 0 ∧
            leWord (w.drop 8) = BitVec.ofNat 64 (cause.toNat + s.faultDomain n r * 65536)))

/-- R448, R171 to R173, R458, R460, R444: `MAP` leaves all of its pages mapped or nothing, and the walk of a mapped data page of 64 KiB
then gives one frame with the asked rights on every package of the partition; after the `UNMAP` of one it faults 0x100, or has the lower
rights that were asked; a frame of code that no group can fetch any more is freed; `COPY` moves bytes between host memory and a mapped
page, at the homes, and answers FAULT with the cause where the page is not there, may not be accessed or is in error. The tables
stand already, apart from each other and from the page. The arguments of `MAP` and `UNMAP` and their failures are read as in log 33,
generations as in log 63. -/
def Obligations.MappingCommands : Prop :=
  (∀ (c : Cmd) (q : MapReq) (s : State), s.takes c 0x30 .berth →
    (∀ t, s.mapAll c.package (cmdKey c) q = .ok t → exec (.map c q) s = .next (t.cmdFree c stOk)) ∧
    (∀ e, s.mapAll c.package (cmdKey c) q = .error e → ∃ t : State, exec (.map c q) s = .next t ∧ s.answers c e.status t ∧
      t.mem = s.mem ∧ t.roots = s.roots ∧ t.frames = s.frames ∧ t.codeMaps = s.codeMaps ∧ s.resultIn c t &&& e.mask = e.result &&& e.mask) ∧
    (let bk := cmdKey c
     let pkgs := s.relative (s.home c).1 c.package
     (s.mapAll c.package bk q).isOk = true → q.ex = false → levelShift q.level = some 16 → q.pages = 1 → s.holders = [] → s.landings = [] →
      (∀ p ∈ pkgs, p < 4096 ∧ ∀ u ∈ s.unitsOf (s.home c).1 p, u < 144) →
      s.tablesApart bk q.va.toNat pkgs → s.tablesHeld bk q.va.toNat pkgs →
      ∃ (t : State) (loc : Nat), exec (.map c q) s = .next t ∧ s.answers c 0 t ∧ paPkg loc = q.back ∧ loc % 2 ^ 16 = 0 ∧
        memBytes t.mem loc (min q.contents.length (2 ^ 16)) = q.contents.take (2 ^ 16) ∧
        ∀ p ∈ pkgs, t.walk (rootKey bk p) q.va.toNat = .leaf
          { root := rootKey bk p, va := q.va.toNat, size := 16, pa := loc, rd := q.rd, wr := q.wr, ex := false, uc := q.uc })) ∧
  (∀ (c : Cmd) (va : Addr) (pages : Nat) (keepRd keepWr : Bool) (s : State), s.takes c 0x31 .berth →
    let bk := cmdKey c
    let pkgs := s.relative (s.home c).1 c.package
    ∃ t : State, exec (.unmap c va pages keepRd keepWr) s = .next t ∧ s.answers c 0 t ∧
      t.mem = (s.unmapRun bk (s.home c).1 (genAfter (s.part (s.home c).1).counter) pkgs c.package keepRd keepWr pages va.toNat).mem ∧
      ∀ l, pages = 1 → va.toNat % 2 ^ 16 = 0 → s.leafAt bk c.package va.toNat = some l → s.wakePage l.pa = false →
        (∀ p ∈ pkgs, p < 4096) → s.tablesApart bk va.toNat pkgs → ∀ p ∈ pkgs,
          (keepRd = false → keepWr = false → t.leafAt bk p va.toNat = none ∧
            (s.leafAt bk p va.toNat ≠ none → t.walk (rootKey bk p) va.toNat = .fault 0x100)) ∧
          (keepRd = true ∨ keepWr = true → ∀ x, s.leafAt bk p va.toNat = some x →
            t.leafAt bk p va.toNat = some { x with rd := x.rd && keepRd, wr := x.wr && keepWr })) ∧
  (∀ (n loc u : Nat) (f : Frame) (s : State), s.frames.find? (fun f => f.loc == loc && f.part == n) = some f → f.gen = some u →
    (s.fetchesBelow n u = true → exec (.frameFree n loc) s = .next s) ∧
    (s.fetchesBelow n u = false → f.image = none → ∃ t : State, exec (.frameFree n loc) s = .next t ∧
      (∀ g ∈ t.frames, g.loc ≠ loc) ∧ (∀ m ∈ t.codeMaps, m.frame ≠ loc) ∧ t.mem = s.mem)) ∧
  (∀ (c : Cmd) (host : Nat) (va : Addr) (n pa : Nat) (s : State), s.takes c 0x70 .berth → n ≠ 0 →
    va.toNat % 2 ^ 16 + n ≤ 2 ^ 16 → s.holders = [] → s.landings = [] →
    let b := s.berth (cmdKey c)
    let ev := b.erbase.toNat + 16 * b.ertail
    (s.keelAt (cmdKey c) c.package va.toNat ⟨false, true⟩ = .ok pa →
      ∃ t : State, exec (.copy c true host va n) s = .next t ∧ s.answers c 0 t ∧ memBytes t.mem pa n = memBytes s.hostMem host n ∧
        ∀ a, a < pa ∨ pa + n ≤ a → memGet t.mem a = memGet s.mem a) ∧
    (s.keelAt (cmdKey c) c.package va.toNat ⟨true, false⟩ = .ok pa → s.readError pa n = none → host + n ≤ ev ∨ ev + 16 ≤ host →
      ∃ t : State, exec (.copy c false host va n) s = .next t ∧ s.answers c 0 t ∧ memBytes t.hostMem host n = memBytes s.mem pa n ∧
        t.mem = s.mem) ∧
    (∀ (toDevice : Bool) (cz : BitVec 10), s.keelAt (cmdKey c) c.package va.toNat ⟨!toDevice, toDevice⟩ = .error cz ∨
        (toDevice = false ∧ s.keelAt (cmdKey c) c.package va.toNat ⟨true, false⟩ = .ok pa ∧ s.readError pa n = some cz) →
      ∃ t : State, exec (.copy c toDevice host va n) s = .next t ∧ s.answers c 7 t ∧ (s.resultIn c t).extractLsb' 0 10 = cz ∧
        t.mem = s.mem))

/-- R371, R372, R388 to R390, R456, R461: the commands that build, remove, launch and cancel, and those that load and unload an image,
each with its completion; a launch is answered when the pod head has ordered it. The statuses, a handle and the order of an unload are
those of logs 30, 32 and 34. -/
def Obligations.ManifestCommands : Prop :=
  (∀ (c : Cmd) (ws : List Word) (mf : Nat) (mfs : List Nat) (s u : State), s.takes c 0x40 .berth → ws.length = 32 →
    let n := (s.home c).1
    let r := (s.home c).2
    s.freeMfs (cmdKey c) 1 = mf :: mfs → s.charge n 5 r 1 = some u →
    let g := (u.part n).published
    let w := mfSet (mfSet ws 19 (BitVec.ofNat 64 (g % 2 ^ 32 + r * 2 ^ 32))) 20 1
    let st := u.armStatus c.package (cmdKey c) n g w
    (st = 0 → ∃ t : State, exec (.mfBuild c ws) s = .next t ∧ s.answers c 0 t ∧ s.resultIn c t = BitVec.ofNat 64 mf ∧
      t.mfWords (cmdKey c) mf = mfSet w 20 2) ∧
    (st ≠ 0 → ∃ t : State, exec (.mfBuild c ws) s = .next t ∧ s.answers c 7 t ∧ t.mfWords (cmdKey c) mf = w)) ∧
  (∀ (c : Cmd) (mf : Nat) (s : State), s.takes c 0x41 .berth →
    (mfState (s.mfWords (cmdKey c) mf) = 0 ∨ s.mfHeld (cmdKey c) mf = false →
      ∃ t : State, exec (.mfRemove c mf) s = .next t ∧ s.answers c 0 t ∧ mfState (t.mfWords (cmdKey c) mf) = 0 ∧
        t.grids = s.grids ∧ ∀ k, k ≠ mf → t.mfWords (cmdKey c) k = s.mfWords (cmdKey c) k) ∧
    (mfState (s.mfWords (cmdKey c) mf) ≠ 0 → s.mfHeld (cmdKey c) mf = true →
      ∃ t : State, exec (.mfRemove c mf) s = .next t ∧ s.answers c 4 t ∧ ∀ k, t.mfWords (cmdKey c) k = s.mfWords (cmdKey c) k)) ∧
  (∀ (c : Cmd) (mf : Nat) (s : State), s.takes c 0x50 .berth →
    let w := s.mfWords (cmdKey c) mf
    let gr (ds : List Dep) : Grid := { gridOf w c.package (c.berth.getD 256) (s.home c).1 ((mfWord w 8).extractLsb' 0 4).toNat ds none with
      host := true, image := s.imageOf (cmdKey c) mf }
    (mfState w ≠ 2 → ∃ t : State, exec (.launchCommand c mf) s = .next t ∧ s.answers c 1 t ∧ t.launches = s.launches ∧
      (s.resultIn c t).extractLsb' 0 10 = (if mfState w = 0 then 0x0E8 else 0x0EA)) ∧
    (∀ ds u, mfState w = 2 → s.findDeps (rootKey (cmdKey c) c.package) c.package w [14, 16] = .ok ds →
      (s.enqueue (gr ds) = .noEntry → ∃ t : State, exec (.launchCommand c mf) s = .next t ∧ s.answers c 3 t ∧
        t.launches = s.launches) ∧
      (s.enqueue (gr ds) = .done u → s.unrouted c.package (s.headOf c.package) = false →
        let l : Launch := { head := s.headOf c.package, thread := none, host := some c, grid := gr ds, since := s.now }
        exec (.launchCommand c mf) s = .next { u with launches := u.launches ++ [l] }))) ∧
  (∀ (c : Cmd) (x : Word) (s : State), s.takes c 0x51 .berth →
    let k := gridKey (s.headOf c.package) x
    (thas s.grids k = true → (s.grid k).st ≠ .ended → (s.grid k).bk ≠ cmdKey c →
      ∃ t : State, exec (.cancel c x) s = .next t ∧ s.answers c 2 t ∧ t.grids = s.grids) ∧
    (s.liveGrid k (cmdKey c) = true → (s.grid k).abort = 0 →
      ∃ t : State, exec (.cancel c x) s = .next t ∧ s.answers c 0 t ∧ (t.grid k).abort = 2)) ∧
  (∀ (c : Cmd) (address length : Nat) (s : State), s.takes c 0x60 .berth →
    (∀ u h, s.loadImage c.package (cmdKey c) address length = .ok (u, h) →
      exec (.imageLoad c address length) s = .next (u.cmdDone c 0 h)) ∧
    (∀ e, s.loadImage c.package (cmdKey c) address length = .error e → ∃ t : State, exec (.imageLoad c address length) s = .next t ∧
      s.answers c e.status t ∧ t.mem = s.mem ∧ t.images = s.images ∧ t.codeMaps = s.codeMaps ∧ t.frames = s.frames)) ∧
  (∀ (c : Cmd) (h : Word) (key : Nat) (im : Image) (s : State), s.takes c 0x61 .berth →
    s.images.find? (fun e => e.2.berth == cmdKey c && e.2.handle == h && e.2.unload.isNone) = some (key, im) →
    s.images.find? (fun e => e.1 == key) = some (key, im) →
    (∀ e ∈ s.images, e.2.berth = cmdKey c → e.2.pending ≠ none → e.2.handle = h) →
    (s.imageBusy key = true → ∃ t : State, exec (.imageUnload c h) s = .next t ∧ t.mem = s.mem ∧
      (∀ mf ∈ im.mfs, mfState (t.mfWords (cmdKey c) mf) = 0) ∧
      (t.berth (cmdKey c)).crhead = (s.berth (cmdKey c)).crhead ∧
      (tget t.images im key).pending = some c.tag ∧ t.frames = s.frames ∧ t.codeMaps = s.codeMaps) ∧
    (s.imageBusy key = false → ∃ t : State, exec (.imageUnload c h) s = .next t ∧
      (t.berth (cmdKey c)).crhead = ((s.berth (cmdKey c)).crhead + 1) % ringLen (s.berth (cmdKey c)).crsize 4 12 ∧
      (∀ mf ∈ im.mfs, mfState (t.mfWords (cmdKey c) mf) = 0) ∧
      ∀ x, thas t.images key = true → x = tget t.images im key → x.unload ≠ none))

/-- R462 to R470, R450: power-on, a reset and a junction at 110 °C restart a package from its flash, with Keel's boot first; when
training ends each grid has its own drain limit, and full service follows the last; a measurement is due every 2^16 cycles and sets the
throttle; a page that has returned an error or had 16 corrected enters the journal, signed; Deck is restarted and heard; management reads a
sensor and replaces an image that verifies under the key of the record in force, unless the package is off or boots. Sensors are
free values; that a package number has 12 bits, how a page's errors are noted, when Deck traps, and the form of
a hint, are the model's reading (log 80, log 86, log 85), as are what
the flash holds at first, what a reset wipes, how slack water ends and what a hint does (logs 14, 46, 45 and 44). -/
def Obligations.PackageEvents : Prop :=
  (∀ (p : Nat) (s : State),
    let x := s.pkg p
    let v (i : Nat) : Nat := Config.sensor s.tick (p * 32 + i)
    let hot := ∃ i, 1 ≤ i ∧ i ≤ 5 ∧ 110 ≤ v i
    let fresh (t : State) : Prop := t.pkg p = booted p s.now x ∧ (t.pkg p).phase = .boot ∧ t.hostMem = s.hostMem ∧
      (t.pkg p).record = x.record ∧ (t.pkg p).journal = x.journal ∧ (∀ a, a < 2 ^ 52 → paPkg a = p → memGet t.mem a = 0) ∧
      (∀ k, packageOf (clusterOf (coreOf k)) = p → t.thr k = {}) ∧ (∀ k, packageOf k = p → t.clus k = {})
    (x.phase = .off → (p < 4096 → ∃ t : State, exec (.powerOn p) s = .next t ∧ fresh t) ∧ exec (.packageReset p) s = .next s ∧
      exec (.thermalTrip p) s = .next { s with tick := s.tick + 1 } ∧ exec (.powerSample p) s = .next s) ∧
    (x.phase ≠ .off → exec (.powerOn p) s = .next s ∧ (∃ t : State, exec (.packageReset p) s = .next t ∧ fresh t) ∧
      (hot → ∃ t : State, exec (.thermalTrip p) s = .next t ∧ fresh t) ∧
      (¬ hot → exec (.thermalTrip p) s = .next { s with tick := s.tick + 1 }) ∧
      (s.now < x.sampledAt + 2 ^ 16 → exec (.powerSample p) s = .next s) ∧
      (x.sampledAt + 2 ^ 16 ≤ s.now →
        (hot → ∃ t : State, exec (.powerSample p) s = .next t ∧ fresh t) ∧
        (¬ hot → ∃ t : State, exec (.powerSample p) s = .next t ∧ (t.pkg p).sampledAt = s.now ∧ t.mem = s.mem ∧
          ((t.pkg p).throttled = true ↔ x.cap < v 0 ∨ ∃ i, 1 ≤ i ∧ i ≤ 5 ∧ 100 < v i))))) ∧
  (∀ (p : Nat) (s : State), (s.pkg p).phase = .slack → (s.pkg p).recordOk = true →
    let since := (s.pkg p).trainedAt.getD s.now
    let left := ∃ e ∈ s.slackGrids p, s.now < since + s.drainLimit e.2.part p
    ∃ t : State, exec (.trainingEnd p) s = .next t ∧ t.mem = s.mem ∧
      (left → (t.pkg p).phase = .slack ∧ (t.pkg p).trainedAt = some since) ∧
      (¬ left → (t.pkg p).phase = .full ∧ (t.pkg p).trainedAt = none) ∧
      (∀ k, (k, s.grid k) ∈ s.slackGrids p → since + s.drainLimit (s.grid k).part p ≤ s.now → (t.grid k).abort ≠ 0) ∧
      (∀ k, (∀ e ∈ s.slackGrids p, e.1 = k → s.now < since + s.drainLimit e.2.part p) → t.grid k = s.grid k)) ∧
  (∀ (p : Nat) (s : State), (s.pkg p).phase ≠ .off →
    let x := s.pkg p
    let v (i : Nat) : Nat := Config.sensor s.tick (p * 32 + i)
    (∀ i, i ≤ 18 → x.phase ≠ .boot →
      ∃ t : State, exec (.pldmMonitoring p i) s = .next t ∧ (t.pkg p).reading = some (i, v i) ∧ t.mem = s.mem) ∧
    (x.phase = .boot → ∀ i d bs, exec (.pldmMonitoring p i) s = .next s ∧ exec (.pldmFirmwareUpdate p d bs) s = .next s) ∧
    (∀ loc, loc % 2 ^ 16 = 0 → loc < 2 ^ 52 → paPkg loc = p → loc ∉ x.retired →
      let worn := loc ∈ x.returned ∨ 16 ≤ (x.corrected.filter (fun e => e.1 == loc && decide (s.now < e.2 + 2 ^ 32))).length
      (worn → exec (.pageRetire p loc) s = .next (s.setPkg p { x with
        retired := x.retired ++ [loc], journal := x.journal ++ [(loc, Config.falconSign (Config.pufSeed p) (leBytes loc 8))] })) ∧
      (¬ worn → exec (.pageRetire p loc) s = .next s)) ∧
    (∀ bs, x.phase ≠ .boot → (Config.deckSigned (recordKey x.booted) bs = true →
        exec (.pldmFirmwareUpdate p true bs) s = .next (s.setPkg p { x with deckFlash := bs })) ∧
      (Config.deckSigned (recordKey x.booted) bs = false → exec (.pldmFirmwareUpdate p true bs) s = .next s) ∧
      (bs.length = 4096 → recordAccepted bs = true →
        exec (.pldmFirmwareUpdate p false bs) s = .next (s.setPkg p { x with record := bs })) ∧
      (bs.length ≠ 4096 ∨ recordAccepted bs = false → exec (.pldmFirmwareUpdate p false bs) s = .next s)) ∧
    (∀ image, x.deck = some image → exec (.deckWatchdog p) s = .next (s.modPkg p (fun q => q.runDeck image s.now)))) ∧
  (∀ (p w g : Nat) (s : State), (s.pkg p).deck ≠ none → packageOf (s.grp g).cluster = p →
    let v := s.grid (s.grp g).grid
    let mine := (s.rcb v.part v.region).prio
    let other := (s.rcb (s.grid w).part (s.grid w).region).prio
    let heard := (s.grid w).part = v.part ∧ ((mine = other ∧ v.region ≠ (s.grid w).region) ∨ (mine < other ∧ s.victim g ≠ none))
    (heard → exec (.deckHint p w g) s = .next (s.modPkg p (fun x => { x with hints := x.hints ++ [(v.part, v.region)] }))) ∧
    (¬ heard → exec (.deckHint p w g) s = .next s))
end

