-- ==== Sys2Proof/Laws/State.lean ====
section
/-! SUPPORT. What each update of one record of the state leaves in each field, and in the other records. -/
namespace Sys2Proof.Machine

/-! ### Tables -/

@[simp] theorem tget_tset {α : Type} (t : Table α) (d : α) (k : Nat) (v : α) : tget (tset t k v) d k = v := by
  induction t with
  | nil => simp [tset, tget]
  | cons e r ih => obtain ⟨k', v'⟩ := e; simp only [tset]; split <;> simp_all [tget]

theorem tget_tset_ne {α : Type} (t : Table α) (d : α) {j k : Nat} (v : α) (h : j ≠ k) :
    tget (tset t k v) d j = tget t d j := by
  induction t with
  | nil => simp [tset, tget, h]
  | cons e r ih =>
    obtain ⟨k', v'⟩ := e
    simp only [tset]
    split
    · subst_vars; simp [tget, h]
    · simp only [tget, ih]

@[simp] theorem tset_tset {α : Type} (t : Table α) (k : Nat) (v w : α) : tset (tset t k v) k w = tset t k w := by
  induction t with
  | nil => simp [tset]
  | cons e r ih => obtain ⟨k', v'⟩ := e; simp only [tset]; split <;> simp_all [tset]

@[simp] theorem thas_tset {α : Type} (t : Table α) (k : Nat) (v : α) : thas (tset t k v) k = true := by
  induction t with
  | nil => simp [tset, thas]
  | cons e r ih =>
    obtain ⟨k', v'⟩ := e
    simp only [tset]
    split
    · simp [thas]
    · simp_all [thas]

@[simp] theorem thas_tdel {α : Type} (t : Table α) (k : Nat) : thas (tdel t k) k = false := by simp [thas, tdel]

theorem tget_of_thas_false {α : Type} (t : Table α) (d : α) {k : Nat} (h : thas t k = false) : tget t d k = d := by
  induction t with
  | nil => rfl
  | cons e r ih =>
    obtain ⟨k', v'⟩ := e
    simp only [thas, List.any_cons, Bool.or_eq_false_iff, beq_eq_false_iff_ne] at h
    simp only [tget, Ne.symm h.1, if_false]
    exact ih h.2

@[simp] theorem tget_tdel {α : Type} (t : Table α) (d : α) (k : Nat) : tget (tdel t k) d k = d :=
  tget_of_thas_false _ _ (thas_tdel t k)

theorem tget_tdel_ne {α : Type} (t : Table α) (d : α) {j k : Nat} (h : j ≠ k) : tget (tdel t k) d j = tget t d j := by
  induction t with
  | nil => rfl
  | cons e r ih =>
    obtain ⟨k', v'⟩ := e
    by_cases hk : k' = k
    · subst hk; simpa [tdel, tget, h] using ih
    · have : tdel ((k', v') :: r) k = (k', v') :: tdel r k := by simp [tdel, hk]
      simp only [this, tget, ih]

/-! ### setThr -/

@[simp] theorem setThr_threads (s : State) (k : Nat) (v : Thread) : (s.setThr k v).threads = tset s.threads k v := rfl
@[simp] theorem setThr_cores (s : State) (k : Nat) (v : Thread) : (s.setThr k v).cores = s.cores := rfl
@[simp] theorem setThr_clusters (s : State) (k : Nat) (v : Thread) : (s.setThr k v).clusters = s.clusters := rfl
@[simp] theorem setThr_groups (s : State) (k : Nat) (v : Thread) : (s.setThr k v).groups = s.groups := rfl
@[simp] theorem setThr_grids (s : State) (k : Nat) (v : Thread) : (s.setThr k v).grids = s.grids := rfl
@[simp] theorem setThr_packages (s : State) (k : Nat) (v : Thread) : (s.setThr k v).packages = s.packages := rfl
@[simp] theorem setThr_parts (s : State) (k : Nat) (v : Thread) : (s.setThr k v).parts = s.parts := rfl
@[simp] theorem setThr_berths (s : State) (k : Nat) (v : Thread) : (s.setThr k v).berths = s.berths := rfl
@[simp] theorem setThr_frames (s : State) (k : Nat) (v : Thread) : (s.setThr k v).frames = s.frames := rfl
@[simp] theorem setThr_images (s : State) (k : Nat) (v : Thread) : (s.setThr k v).images = s.images := rfl
@[simp] theorem setThr_wakeCopies (s : State) (k : Nat) (v : Thread) : (s.setThr k v).wakeCopies = s.wakeCopies := rfl
@[simp] theorem setThr_launches (s : State) (k : Nat) (v : Thread) : (s.setThr k v).launches = s.launches := rfl
@[simp] theorem setThr_roots (s : State) (k : Nat) (v : Thread) : (s.setThr k v).roots = s.roots := rfl
@[simp] theorem setThr_landings (s : State) (k : Nat) (v : Thread) : (s.setThr k v).landings = s.landings := rfl
@[simp] theorem setThr_hostMem (s : State) (k : Nat) (v : Thread) : (s.setThr k v).hostMem = s.hostMem := rfl
@[simp] theorem setThr_nextGroup (s : State) (k : Nat) (v : Thread) : (s.setThr k v).nextGroup = s.nextGroup := rfl
@[simp] theorem setThr_reports (s : State) (k : Nat) (v : Thread) : (s.setThr k v).reports = s.reports := rfl
@[simp] theorem setThr_tows (s : State) (k : Nat) (v : Thread) : (s.setThr k v).tows = s.tows := rfl
@[simp] theorem setThr_chans (s : State) (k : Nat) (v : Thread) : (s.setThr k v).chans = s.chans := rfl
@[simp] theorem setThr_lost (s : State) (k : Nat) (v : Thread) : (s.setThr k v).lost = s.lost := rfl
@[simp] theorem setThr_mem (s : State) (k : Nat) (v : Thread) : (s.setThr k v).mem = s.mem := rfl
@[simp] theorem setThr_poison (s : State) (k : Nat) (v : Thread) : (s.setThr k v).poison = s.poison := rfl
@[simp] theorem setThr_flaws (s : State) (k : Nat) (v : Thread) : (s.setThr k v).flaws = s.flaws := rfl
@[simp] theorem setThr_holders (s : State) (k : Nat) (v : Thread) : (s.setThr k v).holders = s.holders := rfl
@[simp] theorem setThr_noRoute (s : State) (k : Nat) (v : Thread) : (s.setThr k v).noRoute = s.noRoute := rfl
@[simp] theorem setThr_mute (s : State) (k : Nat) (v : Thread) : (s.setThr k v).mute = s.mute := rfl
@[simp] theorem setThr_untold (s : State) (k : Nat) (v : Thread) : (s.setThr k v).untold = s.untold := rfl
@[simp] theorem setThr_codeMaps (s : State) (k : Nat) (v : Thread) : (s.setThr k v).codeMaps = s.codeMaps := rfl
@[simp] theorem setThr_now (s : State) (k : Nat) (v : Thread) : (s.setThr k v).now = s.now := rfl
@[simp] theorem setThr_agenda (s : State) (k : Nat) (v : Thread) : (s.setThr k v).agenda = s.agenda := rfl
@[simp] theorem setThr_cur (s : State) (k : Nat) (v : Thread) : (s.setThr k v).cur = s.cur := rfl
@[simp] theorem setThr_eager (s : State) (k : Nat) (v : Thread) : (s.setThr k v).eager = s.eager := rfl
@[simp] theorem setThr_cursor (s : State) (k : Nat) (v : Thread) : (s.setThr k v).cursor = s.cursor := rfl
@[simp] theorem setThr_place (s : State) (k : Nat) (v : Thread) : (s.setThr k v).place = s.place := rfl
@[simp] theorem setThr_moorings (s : State) (k : Nat) (v : Thread) : (s.setThr k v).moorings = s.moorings := rfl
@[simp] theorem setThr_tick (s : State) (k : Nat) (v : Thread) : (s.setThr k v).tick = s.tick := rfl

@[simp] theorem thr_setThr (s : State) (k : Nat) (v : Thread) : (s.setThr k v).thr k = v := tget_tset s.threads {} k v
theorem thr_setThr_ne (s : State) {j k : Nat} (v : Thread) (h : j ≠ k) : (s.setThr k v).thr j = s.thr j :=
  tget_tset_ne s.threads {} v h
@[simp] theorem core_setThr (s : State) (j k : Nat) (v : Thread) : (s.setThr k v).core j = s.core j := rfl
@[simp] theorem clus_setThr (s : State) (j k : Nat) (v : Thread) : (s.setThr k v).clus j = s.clus j := rfl
@[simp] theorem grp_setThr (s : State) (j k : Nat) (v : Thread) : (s.setThr k v).grp j = s.grp j := rfl
@[simp] theorem grid_setThr (s : State) (j k : Nat) (v : Thread) : (s.setThr k v).grid j = s.grid j := rfl
@[simp] theorem pkg_setThr (s : State) (j k : Nat) (v : Thread) : (s.setThr k v).pkg j = s.pkg j := rfl
@[simp] theorem part_setThr (s : State) (j k : Nat) (v : Thread) : (s.setThr k v).part j = s.part j := rfl
@[simp] theorem berth_setThr (s : State) (j k : Nat) (v : Thread) : (s.setThr k v).berth j = s.berth j := rfl
@[simp] theorem setThr_setThr (s : State) (k : Nat) (v w : Thread) : (s.setThr k v).setThr k w = s.setThr k w := by
  simp [State.setThr]
@[simp] theorem modThr_eq (s : State) (k : Nat) (f : Thread → Thread) : s.modThr k f = s.setThr k (f (s.thr k)) := rfl

/-! ### setCore -/

@[simp] theorem setCore_threads (s : State) (k : Nat) (v : Core) : (s.setCore k v).threads = s.threads := rfl
@[simp] theorem setCore_cores (s : State) (k : Nat) (v : Core) : (s.setCore k v).cores = tset s.cores k v := rfl
@[simp] theorem setCore_clusters (s : State) (k : Nat) (v : Core) : (s.setCore k v).clusters = s.clusters := rfl
@[simp] theorem setCore_groups (s : State) (k : Nat) (v : Core) : (s.setCore k v).groups = s.groups := rfl
@[simp] theorem setCore_grids (s : State) (k : Nat) (v : Core) : (s.setCore k v).grids = s.grids := rfl
@[simp] theorem setCore_packages (s : State) (k : Nat) (v : Core) : (s.setCore k v).packages = s.packages := rfl
@[simp] theorem setCore_parts (s : State) (k : Nat) (v : Core) : (s.setCore k v).parts = s.parts := rfl
@[simp] theorem setCore_berths (s : State) (k : Nat) (v : Core) : (s.setCore k v).berths = s.berths := rfl
@[simp] theorem setCore_frames (s : State) (k : Nat) (v : Core) : (s.setCore k v).frames = s.frames := rfl
@[simp] theorem setCore_images (s : State) (k : Nat) (v : Core) : (s.setCore k v).images = s.images := rfl
@[simp] theorem setCore_wakeCopies (s : State) (k : Nat) (v : Core) : (s.setCore k v).wakeCopies = s.wakeCopies := rfl
@[simp] theorem setCore_launches (s : State) (k : Nat) (v : Core) : (s.setCore k v).launches = s.launches := rfl
@[simp] theorem setCore_roots (s : State) (k : Nat) (v : Core) : (s.setCore k v).roots = s.roots := rfl
@[simp] theorem setCore_landings (s : State) (k : Nat) (v : Core) : (s.setCore k v).landings = s.landings := rfl
@[simp] theorem setCore_hostMem (s : State) (k : Nat) (v : Core) : (s.setCore k v).hostMem = s.hostMem := rfl
@[simp] theorem setCore_nextGroup (s : State) (k : Nat) (v : Core) : (s.setCore k v).nextGroup = s.nextGroup := rfl
@[simp] theorem setCore_reports (s : State) (k : Nat) (v : Core) : (s.setCore k v).reports = s.reports := rfl
@[simp] theorem setCore_tows (s : State) (k : Nat) (v : Core) : (s.setCore k v).tows = s.tows := rfl
@[simp] theorem setCore_chans (s : State) (k : Nat) (v : Core) : (s.setCore k v).chans = s.chans := rfl
@[simp] theorem setCore_lost (s : State) (k : Nat) (v : Core) : (s.setCore k v).lost = s.lost := rfl
@[simp] theorem setCore_mem (s : State) (k : Nat) (v : Core) : (s.setCore k v).mem = s.mem := rfl
@[simp] theorem setCore_poison (s : State) (k : Nat) (v : Core) : (s.setCore k v).poison = s.poison := rfl
@[simp] theorem setCore_flaws (s : State) (k : Nat) (v : Core) : (s.setCore k v).flaws = s.flaws := rfl
@[simp] theorem setCore_holders (s : State) (k : Nat) (v : Core) : (s.setCore k v).holders = s.holders := rfl
@[simp] theorem setCore_noRoute (s : State) (k : Nat) (v : Core) : (s.setCore k v).noRoute = s.noRoute := rfl
@[simp] theorem setCore_mute (s : State) (k : Nat) (v : Core) : (s.setCore k v).mute = s.mute := rfl
@[simp] theorem setCore_untold (s : State) (k : Nat) (v : Core) : (s.setCore k v).untold = s.untold := rfl
@[simp] theorem setCore_codeMaps (s : State) (k : Nat) (v : Core) : (s.setCore k v).codeMaps = s.codeMaps := rfl
@[simp] theorem setCore_now (s : State) (k : Nat) (v : Core) : (s.setCore k v).now = s.now := rfl
@[simp] theorem setCore_agenda (s : State) (k : Nat) (v : Core) : (s.setCore k v).agenda = s.agenda := rfl
@[simp] theorem setCore_cur (s : State) (k : Nat) (v : Core) : (s.setCore k v).cur = s.cur := rfl
@[simp] theorem setCore_eager (s : State) (k : Nat) (v : Core) : (s.setCore k v).eager = s.eager := rfl
@[simp] theorem setCore_cursor (s : State) (k : Nat) (v : Core) : (s.setCore k v).cursor = s.cursor := rfl
@[simp] theorem setCore_place (s : State) (k : Nat) (v : Core) : (s.setCore k v).place = s.place := rfl
@[simp] theorem setCore_moorings (s : State) (k : Nat) (v : Core) : (s.setCore k v).moorings = s.moorings := rfl
@[simp] theorem setCore_tick (s : State) (k : Nat) (v : Core) : (s.setCore k v).tick = s.tick := rfl

@[simp] theorem thr_setCore (s : State) (j k : Nat) (v : Core) : (s.setCore k v).thr j = s.thr j := rfl
@[simp] theorem core_setCore (s : State) (k : Nat) (v : Core) : (s.setCore k v).core k = v := tget_tset s.cores {} k v
theorem core_setCore_ne (s : State) {j k : Nat} (v : Core) (h : j ≠ k) : (s.setCore k v).core j = s.core j :=
  tget_tset_ne s.cores {} v h
@[simp] theorem clus_setCore (s : State) (j k : Nat) (v : Core) : (s.setCore k v).clus j = s.clus j := rfl
@[simp] theorem grp_setCore (s : State) (j k : Nat) (v : Core) : (s.setCore k v).grp j = s.grp j := rfl
@[simp] theorem grid_setCore (s : State) (j k : Nat) (v : Core) : (s.setCore k v).grid j = s.grid j := rfl
@[simp] theorem pkg_setCore (s : State) (j k : Nat) (v : Core) : (s.setCore k v).pkg j = s.pkg j := rfl
@[simp] theorem part_setCore (s : State) (j k : Nat) (v : Core) : (s.setCore k v).part j = s.part j := rfl
@[simp] theorem berth_setCore (s : State) (j k : Nat) (v : Core) : (s.setCore k v).berth j = s.berth j := rfl
@[simp] theorem setCore_setCore (s : State) (k : Nat) (v w : Core) : (s.setCore k v).setCore k w = s.setCore k w := by
  simp [State.setCore]
@[simp] theorem modCore_eq (s : State) (k : Nat) (f : Core → Core) : s.modCore k f = s.setCore k (f (s.core k)) := rfl

/-! ### setClus -/

@[simp] theorem setClus_threads (s : State) (k : Nat) (v : Cluster) : (s.setClus k v).threads = s.threads := rfl
@[simp] theorem setClus_cores (s : State) (k : Nat) (v : Cluster) : (s.setClus k v).cores = s.cores := rfl
@[simp] theorem setClus_clusters (s : State) (k : Nat) (v : Cluster) : (s.setClus k v).clusters = tset s.clusters k v := rfl
@[simp] theorem setClus_groups (s : State) (k : Nat) (v : Cluster) : (s.setClus k v).groups = s.groups := rfl
@[simp] theorem setClus_grids (s : State) (k : Nat) (v : Cluster) : (s.setClus k v).grids = s.grids := rfl
@[simp] theorem setClus_packages (s : State) (k : Nat) (v : Cluster) : (s.setClus k v).packages = s.packages := rfl
@[simp] theorem setClus_parts (s : State) (k : Nat) (v : Cluster) : (s.setClus k v).parts = s.parts := rfl
@[simp] theorem setClus_berths (s : State) (k : Nat) (v : Cluster) : (s.setClus k v).berths = s.berths := rfl
@[simp] theorem setClus_frames (s : State) (k : Nat) (v : Cluster) : (s.setClus k v).frames = s.frames := rfl
@[simp] theorem setClus_images (s : State) (k : Nat) (v : Cluster) : (s.setClus k v).images = s.images := rfl
@[simp] theorem setClus_wakeCopies (s : State) (k : Nat) (v : Cluster) : (s.setClus k v).wakeCopies = s.wakeCopies := rfl
@[simp] theorem setClus_launches (s : State) (k : Nat) (v : Cluster) : (s.setClus k v).launches = s.launches := rfl
@[simp] theorem setClus_roots (s : State) (k : Nat) (v : Cluster) : (s.setClus k v).roots = s.roots := rfl
@[simp] theorem setClus_landings (s : State) (k : Nat) (v : Cluster) : (s.setClus k v).landings = s.landings := rfl
@[simp] theorem setClus_hostMem (s : State) (k : Nat) (v : Cluster) : (s.setClus k v).hostMem = s.hostMem := rfl
@[simp] theorem setClus_nextGroup (s : State) (k : Nat) (v : Cluster) : (s.setClus k v).nextGroup = s.nextGroup := rfl
@[simp] theorem setClus_reports (s : State) (k : Nat) (v : Cluster) : (s.setClus k v).reports = s.reports := rfl
@[simp] theorem setClus_tows (s : State) (k : Nat) (v : Cluster) : (s.setClus k v).tows = s.tows := rfl
@[simp] theorem setClus_chans (s : State) (k : Nat) (v : Cluster) : (s.setClus k v).chans = s.chans := rfl
@[simp] theorem setClus_lost (s : State) (k : Nat) (v : Cluster) : (s.setClus k v).lost = s.lost := rfl
@[simp] theorem setClus_mem (s : State) (k : Nat) (v : Cluster) : (s.setClus k v).mem = s.mem := rfl
@[simp] theorem setClus_poison (s : State) (k : Nat) (v : Cluster) : (s.setClus k v).poison = s.poison := rfl
@[simp] theorem setClus_flaws (s : State) (k : Nat) (v : Cluster) : (s.setClus k v).flaws = s.flaws := rfl
@[simp] theorem setClus_holders (s : State) (k : Nat) (v : Cluster) : (s.setClus k v).holders = s.holders := rfl
@[simp] theorem setClus_noRoute (s : State) (k : Nat) (v : Cluster) : (s.setClus k v).noRoute = s.noRoute := rfl
@[simp] theorem setClus_mute (s : State) (k : Nat) (v : Cluster) : (s.setClus k v).mute = s.mute := rfl
@[simp] theorem setClus_untold (s : State) (k : Nat) (v : Cluster) : (s.setClus k v).untold = s.untold := rfl
@[simp] theorem setClus_codeMaps (s : State) (k : Nat) (v : Cluster) : (s.setClus k v).codeMaps = s.codeMaps := rfl
@[simp] theorem setClus_now (s : State) (k : Nat) (v : Cluster) : (s.setClus k v).now = s.now := rfl
@[simp] theorem setClus_agenda (s : State) (k : Nat) (v : Cluster) : (s.setClus k v).agenda = s.agenda := rfl
@[simp] theorem setClus_cur (s : State) (k : Nat) (v : Cluster) : (s.setClus k v).cur = s.cur := rfl
@[simp] theorem setClus_eager (s : State) (k : Nat) (v : Cluster) : (s.setClus k v).eager = s.eager := rfl
@[simp] theorem setClus_cursor (s : State) (k : Nat) (v : Cluster) : (s.setClus k v).cursor = s.cursor := rfl
@[simp] theorem setClus_place (s : State) (k : Nat) (v : Cluster) : (s.setClus k v).place = s.place := rfl
@[simp] theorem setClus_moorings (s : State) (k : Nat) (v : Cluster) : (s.setClus k v).moorings = s.moorings := rfl
@[simp] theorem setClus_tick (s : State) (k : Nat) (v : Cluster) : (s.setClus k v).tick = s.tick := rfl

@[simp] theorem thr_setClus (s : State) (j k : Nat) (v : Cluster) : (s.setClus k v).thr j = s.thr j := rfl
@[simp] theorem core_setClus (s : State) (j k : Nat) (v : Cluster) : (s.setClus k v).core j = s.core j := rfl
@[simp] theorem clus_setClus (s : State) (k : Nat) (v : Cluster) : (s.setClus k v).clus k = v := tget_tset s.clusters {} k v
theorem clus_setClus_ne (s : State) {j k : Nat} (v : Cluster) (h : j ≠ k) : (s.setClus k v).clus j = s.clus j :=
  tget_tset_ne s.clusters {} v h
@[simp] theorem grp_setClus (s : State) (j k : Nat) (v : Cluster) : (s.setClus k v).grp j = s.grp j := rfl
@[simp] theorem grid_setClus (s : State) (j k : Nat) (v : Cluster) : (s.setClus k v).grid j = s.grid j := rfl
@[simp] theorem pkg_setClus (s : State) (j k : Nat) (v : Cluster) : (s.setClus k v).pkg j = s.pkg j := rfl
@[simp] theorem part_setClus (s : State) (j k : Nat) (v : Cluster) : (s.setClus k v).part j = s.part j := rfl
@[simp] theorem berth_setClus (s : State) (j k : Nat) (v : Cluster) : (s.setClus k v).berth j = s.berth j := rfl
@[simp] theorem setClus_setClus (s : State) (k : Nat) (v w : Cluster) : (s.setClus k v).setClus k w = s.setClus k w := by
  simp [State.setClus]
@[simp] theorem modClus_eq (s : State) (k : Nat) (f : Cluster → Cluster) : s.modClus k f = s.setClus k (f (s.clus k)) := rfl

/-! ### setGrp -/

@[simp] theorem setGrp_threads (s : State) (k : Nat) (v : Group) : (s.setGrp k v).threads = s.threads := rfl
@[simp] theorem setGrp_cores (s : State) (k : Nat) (v : Group) : (s.setGrp k v).cores = s.cores := rfl
@[simp] theorem setGrp_clusters (s : State) (k : Nat) (v : Group) : (s.setGrp k v).clusters = s.clusters := rfl
@[simp] theorem setGrp_groups (s : State) (k : Nat) (v : Group) : (s.setGrp k v).groups = tset s.groups k v := rfl
@[simp] theorem setGrp_grids (s : State) (k : Nat) (v : Group) : (s.setGrp k v).grids = s.grids := rfl
@[simp] theorem setGrp_packages (s : State) (k : Nat) (v : Group) : (s.setGrp k v).packages = s.packages := rfl
@[simp] theorem setGrp_parts (s : State) (k : Nat) (v : Group) : (s.setGrp k v).parts = s.parts := rfl
@[simp] theorem setGrp_berths (s : State) (k : Nat) (v : Group) : (s.setGrp k v).berths = s.berths := rfl
@[simp] theorem setGrp_frames (s : State) (k : Nat) (v : Group) : (s.setGrp k v).frames = s.frames := rfl
@[simp] theorem setGrp_images (s : State) (k : Nat) (v : Group) : (s.setGrp k v).images = s.images := rfl
@[simp] theorem setGrp_wakeCopies (s : State) (k : Nat) (v : Group) : (s.setGrp k v).wakeCopies = s.wakeCopies := rfl
@[simp] theorem setGrp_launches (s : State) (k : Nat) (v : Group) : (s.setGrp k v).launches = s.launches := rfl
@[simp] theorem setGrp_roots (s : State) (k : Nat) (v : Group) : (s.setGrp k v).roots = s.roots := rfl
@[simp] theorem setGrp_landings (s : State) (k : Nat) (v : Group) : (s.setGrp k v).landings = s.landings := rfl
@[simp] theorem setGrp_hostMem (s : State) (k : Nat) (v : Group) : (s.setGrp k v).hostMem = s.hostMem := rfl
@[simp] theorem setGrp_nextGroup (s : State) (k : Nat) (v : Group) : (s.setGrp k v).nextGroup = s.nextGroup := rfl
@[simp] theorem setGrp_reports (s : State) (k : Nat) (v : Group) : (s.setGrp k v).reports = s.reports := rfl
@[simp] theorem setGrp_tows (s : State) (k : Nat) (v : Group) : (s.setGrp k v).tows = s.tows := rfl
@[simp] theorem setGrp_chans (s : State) (k : Nat) (v : Group) : (s.setGrp k v).chans = s.chans := rfl
@[simp] theorem setGrp_lost (s : State) (k : Nat) (v : Group) : (s.setGrp k v).lost = s.lost := rfl
@[simp] theorem setGrp_mem (s : State) (k : Nat) (v : Group) : (s.setGrp k v).mem = s.mem := rfl
@[simp] theorem setGrp_poison (s : State) (k : Nat) (v : Group) : (s.setGrp k v).poison = s.poison := rfl
@[simp] theorem setGrp_flaws (s : State) (k : Nat) (v : Group) : (s.setGrp k v).flaws = s.flaws := rfl
@[simp] theorem setGrp_holders (s : State) (k : Nat) (v : Group) : (s.setGrp k v).holders = s.holders := rfl
@[simp] theorem setGrp_noRoute (s : State) (k : Nat) (v : Group) : (s.setGrp k v).noRoute = s.noRoute := rfl
@[simp] theorem setGrp_mute (s : State) (k : Nat) (v : Group) : (s.setGrp k v).mute = s.mute := rfl
@[simp] theorem setGrp_untold (s : State) (k : Nat) (v : Group) : (s.setGrp k v).untold = s.untold := rfl
@[simp] theorem setGrp_codeMaps (s : State) (k : Nat) (v : Group) : (s.setGrp k v).codeMaps = s.codeMaps := rfl
@[simp] theorem setGrp_now (s : State) (k : Nat) (v : Group) : (s.setGrp k v).now = s.now := rfl
@[simp] theorem setGrp_agenda (s : State) (k : Nat) (v : Group) : (s.setGrp k v).agenda = s.agenda := rfl
@[simp] theorem setGrp_cur (s : State) (k : Nat) (v : Group) : (s.setGrp k v).cur = s.cur := rfl
@[simp] theorem setGrp_eager (s : State) (k : Nat) (v : Group) : (s.setGrp k v).eager = s.eager := rfl
@[simp] theorem setGrp_cursor (s : State) (k : Nat) (v : Group) : (s.setGrp k v).cursor = s.cursor := rfl
@[simp] theorem setGrp_place (s : State) (k : Nat) (v : Group) : (s.setGrp k v).place = s.place := rfl
@[simp] theorem setGrp_moorings (s : State) (k : Nat) (v : Group) : (s.setGrp k v).moorings = s.moorings := rfl
@[simp] theorem setGrp_tick (s : State) (k : Nat) (v : Group) : (s.setGrp k v).tick = s.tick := rfl

@[simp] theorem thr_setGrp (s : State) (j k : Nat) (v : Group) : (s.setGrp k v).thr j = s.thr j := rfl
@[simp] theorem core_setGrp (s : State) (j k : Nat) (v : Group) : (s.setGrp k v).core j = s.core j := rfl
@[simp] theorem clus_setGrp (s : State) (j k : Nat) (v : Group) : (s.setGrp k v).clus j = s.clus j := rfl
@[simp] theorem grp_setGrp (s : State) (k : Nat) (v : Group) : (s.setGrp k v).grp k = v := tget_tset s.groups {} k v
theorem grp_setGrp_ne (s : State) {j k : Nat} (v : Group) (h : j ≠ k) : (s.setGrp k v).grp j = s.grp j :=
  tget_tset_ne s.groups {} v h
@[simp] theorem grid_setGrp (s : State) (j k : Nat) (v : Group) : (s.setGrp k v).grid j = s.grid j := rfl
@[simp] theorem pkg_setGrp (s : State) (j k : Nat) (v : Group) : (s.setGrp k v).pkg j = s.pkg j := rfl
@[simp] theorem part_setGrp (s : State) (j k : Nat) (v : Group) : (s.setGrp k v).part j = s.part j := rfl
@[simp] theorem berth_setGrp (s : State) (j k : Nat) (v : Group) : (s.setGrp k v).berth j = s.berth j := rfl
@[simp] theorem setGrp_setGrp (s : State) (k : Nat) (v w : Group) : (s.setGrp k v).setGrp k w = s.setGrp k w := by
  simp [State.setGrp]
@[simp] theorem modGrp_eq (s : State) (k : Nat) (f : Group → Group) : s.modGrp k f = s.setGrp k (f (s.grp k)) := rfl

/-! ### setGrid -/

@[simp] theorem setGrid_threads (s : State) (k : Nat) (v : Grid) : (s.setGrid k v).threads = s.threads := rfl
@[simp] theorem setGrid_cores (s : State) (k : Nat) (v : Grid) : (s.setGrid k v).cores = s.cores := rfl
@[simp] theorem setGrid_clusters (s : State) (k : Nat) (v : Grid) : (s.setGrid k v).clusters = s.clusters := rfl
@[simp] theorem setGrid_groups (s : State) (k : Nat) (v : Grid) : (s.setGrid k v).groups = s.groups := rfl
@[simp] theorem setGrid_grids (s : State) (k : Nat) (v : Grid) : (s.setGrid k v).grids = tset s.grids k v := rfl
@[simp] theorem setGrid_packages (s : State) (k : Nat) (v : Grid) : (s.setGrid k v).packages = s.packages := rfl
@[simp] theorem setGrid_parts (s : State) (k : Nat) (v : Grid) : (s.setGrid k v).parts = s.parts := rfl
@[simp] theorem setGrid_berths (s : State) (k : Nat) (v : Grid) : (s.setGrid k v).berths = s.berths := rfl
@[simp] theorem setGrid_frames (s : State) (k : Nat) (v : Grid) : (s.setGrid k v).frames = s.frames := rfl
@[simp] theorem setGrid_images (s : State) (k : Nat) (v : Grid) : (s.setGrid k v).images = s.images := rfl
@[simp] theorem setGrid_wakeCopies (s : State) (k : Nat) (v : Grid) : (s.setGrid k v).wakeCopies = s.wakeCopies := rfl
@[simp] theorem setGrid_launches (s : State) (k : Nat) (v : Grid) : (s.setGrid k v).launches = s.launches := rfl
@[simp] theorem setGrid_roots (s : State) (k : Nat) (v : Grid) : (s.setGrid k v).roots = s.roots := rfl
@[simp] theorem setGrid_landings (s : State) (k : Nat) (v : Grid) : (s.setGrid k v).landings = s.landings := rfl
@[simp] theorem setGrid_hostMem (s : State) (k : Nat) (v : Grid) : (s.setGrid k v).hostMem = s.hostMem := rfl
@[simp] theorem setGrid_nextGroup (s : State) (k : Nat) (v : Grid) : (s.setGrid k v).nextGroup = s.nextGroup := rfl
@[simp] theorem setGrid_reports (s : State) (k : Nat) (v : Grid) : (s.setGrid k v).reports = s.reports := rfl
@[simp] theorem setGrid_tows (s : State) (k : Nat) (v : Grid) : (s.setGrid k v).tows = s.tows := rfl
@[simp] theorem setGrid_chans (s : State) (k : Nat) (v : Grid) : (s.setGrid k v).chans = s.chans := rfl
@[simp] theorem setGrid_lost (s : State) (k : Nat) (v : Grid) : (s.setGrid k v).lost = s.lost := rfl
@[simp] theorem setGrid_mem (s : State) (k : Nat) (v : Grid) : (s.setGrid k v).mem = s.mem := rfl
@[simp] theorem setGrid_poison (s : State) (k : Nat) (v : Grid) : (s.setGrid k v).poison = s.poison := rfl
@[simp] theorem setGrid_flaws (s : State) (k : Nat) (v : Grid) : (s.setGrid k v).flaws = s.flaws := rfl
@[simp] theorem setGrid_holders (s : State) (k : Nat) (v : Grid) : (s.setGrid k v).holders = s.holders := rfl
@[simp] theorem setGrid_noRoute (s : State) (k : Nat) (v : Grid) : (s.setGrid k v).noRoute = s.noRoute := rfl
@[simp] theorem setGrid_mute (s : State) (k : Nat) (v : Grid) : (s.setGrid k v).mute = s.mute := rfl
@[simp] theorem setGrid_untold (s : State) (k : Nat) (v : Grid) : (s.setGrid k v).untold = s.untold := rfl
@[simp] theorem setGrid_codeMaps (s : State) (k : Nat) (v : Grid) : (s.setGrid k v).codeMaps = s.codeMaps := rfl
@[simp] theorem setGrid_now (s : State) (k : Nat) (v : Grid) : (s.setGrid k v).now = s.now := rfl
@[simp] theorem setGrid_agenda (s : State) (k : Nat) (v : Grid) : (s.setGrid k v).agenda = s.agenda := rfl
@[simp] theorem setGrid_cur (s : State) (k : Nat) (v : Grid) : (s.setGrid k v).cur = s.cur := rfl
@[simp] theorem setGrid_eager (s : State) (k : Nat) (v : Grid) : (s.setGrid k v).eager = s.eager := rfl
@[simp] theorem setGrid_cursor (s : State) (k : Nat) (v : Grid) : (s.setGrid k v).cursor = s.cursor := rfl
@[simp] theorem setGrid_place (s : State) (k : Nat) (v : Grid) : (s.setGrid k v).place = s.place := rfl
@[simp] theorem setGrid_moorings (s : State) (k : Nat) (v : Grid) : (s.setGrid k v).moorings = s.moorings := rfl
@[simp] theorem setGrid_tick (s : State) (k : Nat) (v : Grid) : (s.setGrid k v).tick = s.tick := rfl

@[simp] theorem thr_setGrid (s : State) (j k : Nat) (v : Grid) : (s.setGrid k v).thr j = s.thr j := rfl
@[simp] theorem core_setGrid (s : State) (j k : Nat) (v : Grid) : (s.setGrid k v).core j = s.core j := rfl
@[simp] theorem clus_setGrid (s : State) (j k : Nat) (v : Grid) : (s.setGrid k v).clus j = s.clus j := rfl
@[simp] theorem grp_setGrid (s : State) (j k : Nat) (v : Grid) : (s.setGrid k v).grp j = s.grp j := rfl
@[simp] theorem grid_setGrid (s : State) (k : Nat) (v : Grid) : (s.setGrid k v).grid k = v := tget_tset s.grids {} k v
theorem grid_setGrid_ne (s : State) {j k : Nat} (v : Grid) (h : j ≠ k) : (s.setGrid k v).grid j = s.grid j :=
  tget_tset_ne s.grids {} v h
@[simp] theorem pkg_setGrid (s : State) (j k : Nat) (v : Grid) : (s.setGrid k v).pkg j = s.pkg j := rfl
@[simp] theorem part_setGrid (s : State) (j k : Nat) (v : Grid) : (s.setGrid k v).part j = s.part j := rfl
@[simp] theorem berth_setGrid (s : State) (j k : Nat) (v : Grid) : (s.setGrid k v).berth j = s.berth j := rfl
@[simp] theorem setGrid_setGrid (s : State) (k : Nat) (v w : Grid) : (s.setGrid k v).setGrid k w = s.setGrid k w := by
  simp [State.setGrid]
@[simp] theorem modGrid_eq (s : State) (k : Nat) (f : Grid → Grid) : s.modGrid k f = s.setGrid k (f (s.grid k)) := rfl

/-! ### setPkg -/

@[simp] theorem setPkg_threads (s : State) (k : Nat) (v : Package) : (s.setPkg k v).threads = s.threads := rfl
@[simp] theorem setPkg_cores (s : State) (k : Nat) (v : Package) : (s.setPkg k v).cores = s.cores := rfl
@[simp] theorem setPkg_clusters (s : State) (k : Nat) (v : Package) : (s.setPkg k v).clusters = s.clusters := rfl
@[simp] theorem setPkg_groups (s : State) (k : Nat) (v : Package) : (s.setPkg k v).groups = s.groups := rfl
@[simp] theorem setPkg_grids (s : State) (k : Nat) (v : Package) : (s.setPkg k v).grids = s.grids := rfl
@[simp] theorem setPkg_packages (s : State) (k : Nat) (v : Package) : (s.setPkg k v).packages = tset s.packages k v := rfl
@[simp] theorem setPkg_parts (s : State) (k : Nat) (v : Package) : (s.setPkg k v).parts = s.parts := rfl
@[simp] theorem setPkg_berths (s : State) (k : Nat) (v : Package) : (s.setPkg k v).berths = s.berths := rfl
@[simp] theorem setPkg_frames (s : State) (k : Nat) (v : Package) : (s.setPkg k v).frames = s.frames := rfl
@[simp] theorem setPkg_images (s : State) (k : Nat) (v : Package) : (s.setPkg k v).images = s.images := rfl
@[simp] theorem setPkg_wakeCopies (s : State) (k : Nat) (v : Package) : (s.setPkg k v).wakeCopies = s.wakeCopies := rfl
@[simp] theorem setPkg_launches (s : State) (k : Nat) (v : Package) : (s.setPkg k v).launches = s.launches := rfl
@[simp] theorem setPkg_roots (s : State) (k : Nat) (v : Package) : (s.setPkg k v).roots = s.roots := rfl
@[simp] theorem setPkg_landings (s : State) (k : Nat) (v : Package) : (s.setPkg k v).landings = s.landings := rfl
@[simp] theorem setPkg_hostMem (s : State) (k : Nat) (v : Package) : (s.setPkg k v).hostMem = s.hostMem := rfl
@[simp] theorem setPkg_nextGroup (s : State) (k : Nat) (v : Package) : (s.setPkg k v).nextGroup = s.nextGroup := rfl
@[simp] theorem setPkg_reports (s : State) (k : Nat) (v : Package) : (s.setPkg k v).reports = s.reports := rfl
@[simp] theorem setPkg_tows (s : State) (k : Nat) (v : Package) : (s.setPkg k v).tows = s.tows := rfl
@[simp] theorem setPkg_chans (s : State) (k : Nat) (v : Package) : (s.setPkg k v).chans = s.chans := rfl
@[simp] theorem setPkg_lost (s : State) (k : Nat) (v : Package) : (s.setPkg k v).lost = s.lost := rfl
@[simp] theorem setPkg_mem (s : State) (k : Nat) (v : Package) : (s.setPkg k v).mem = s.mem := rfl
@[simp] theorem setPkg_poison (s : State) (k : Nat) (v : Package) : (s.setPkg k v).poison = s.poison := rfl
@[simp] theorem setPkg_flaws (s : State) (k : Nat) (v : Package) : (s.setPkg k v).flaws = s.flaws := rfl
@[simp] theorem setPkg_holders (s : State) (k : Nat) (v : Package) : (s.setPkg k v).holders = s.holders := rfl
@[simp] theorem setPkg_noRoute (s : State) (k : Nat) (v : Package) : (s.setPkg k v).noRoute = s.noRoute := rfl
@[simp] theorem setPkg_mute (s : State) (k : Nat) (v : Package) : (s.setPkg k v).mute = s.mute := rfl
@[simp] theorem setPkg_untold (s : State) (k : Nat) (v : Package) : (s.setPkg k v).untold = s.untold := rfl
@[simp] theorem setPkg_codeMaps (s : State) (k : Nat) (v : Package) : (s.setPkg k v).codeMaps = s.codeMaps := rfl
@[simp] theorem setPkg_now (s : State) (k : Nat) (v : Package) : (s.setPkg k v).now = s.now := rfl
@[simp] theorem setPkg_agenda (s : State) (k : Nat) (v : Package) : (s.setPkg k v).agenda = s.agenda := rfl
@[simp] theorem setPkg_cur (s : State) (k : Nat) (v : Package) : (s.setPkg k v).cur = s.cur := rfl
@[simp] theorem setPkg_eager (s : State) (k : Nat) (v : Package) : (s.setPkg k v).eager = s.eager := rfl
@[simp] theorem setPkg_cursor (s : State) (k : Nat) (v : Package) : (s.setPkg k v).cursor = s.cursor := rfl
@[simp] theorem setPkg_place (s : State) (k : Nat) (v : Package) : (s.setPkg k v).place = s.place := rfl
@[simp] theorem setPkg_moorings (s : State) (k : Nat) (v : Package) : (s.setPkg k v).moorings = s.moorings := rfl
@[simp] theorem setPkg_tick (s : State) (k : Nat) (v : Package) : (s.setPkg k v).tick = s.tick := rfl

@[simp] theorem thr_setPkg (s : State) (j k : Nat) (v : Package) : (s.setPkg k v).thr j = s.thr j := rfl
@[simp] theorem core_setPkg (s : State) (j k : Nat) (v : Package) : (s.setPkg k v).core j = s.core j := rfl
@[simp] theorem clus_setPkg (s : State) (j k : Nat) (v : Package) : (s.setPkg k v).clus j = s.clus j := rfl
@[simp] theorem grp_setPkg (s : State) (j k : Nat) (v : Package) : (s.setPkg k v).grp j = s.grp j := rfl
@[simp] theorem grid_setPkg (s : State) (j k : Nat) (v : Package) : (s.setPkg k v).grid j = s.grid j := rfl
@[simp] theorem pkg_setPkg (s : State) (k : Nat) (v : Package) : (s.setPkg k v).pkg k = v := tget_tset s.packages {} k v
theorem pkg_setPkg_ne (s : State) {j k : Nat} (v : Package) (h : j ≠ k) : (s.setPkg k v).pkg j = s.pkg j :=
  tget_tset_ne s.packages {} v h
@[simp] theorem part_setPkg (s : State) (j k : Nat) (v : Package) : (s.setPkg k v).part j = s.part j := rfl
@[simp] theorem berth_setPkg (s : State) (j k : Nat) (v : Package) : (s.setPkg k v).berth j = s.berth j := rfl
@[simp] theorem setPkg_setPkg (s : State) (k : Nat) (v w : Package) : (s.setPkg k v).setPkg k w = s.setPkg k w := by
  simp [State.setPkg]
@[simp] theorem modPkg_eq (s : State) (k : Nat) (f : Package → Package) : s.modPkg k f = s.setPkg k (f (s.pkg k)) := rfl

/-! ### setPart -/

@[simp] theorem setPart_threads (s : State) (k : Nat) (v : Part) : (s.setPart k v).threads = s.threads := rfl
@[simp] theorem setPart_cores (s : State) (k : Nat) (v : Part) : (s.setPart k v).cores = s.cores := rfl
@[simp] theorem setPart_clusters (s : State) (k : Nat) (v : Part) : (s.setPart k v).clusters = s.clusters := rfl
@[simp] theorem setPart_groups (s : State) (k : Nat) (v : Part) : (s.setPart k v).groups = s.groups := rfl
@[simp] theorem setPart_grids (s : State) (k : Nat) (v : Part) : (s.setPart k v).grids = s.grids := rfl
@[simp] theorem setPart_packages (s : State) (k : Nat) (v : Part) : (s.setPart k v).packages = s.packages := rfl
@[simp] theorem setPart_parts (s : State) (k : Nat) (v : Part) : (s.setPart k v).parts = tset s.parts k v := rfl
@[simp] theorem setPart_berths (s : State) (k : Nat) (v : Part) : (s.setPart k v).berths = s.berths := rfl
@[simp] theorem setPart_frames (s : State) (k : Nat) (v : Part) : (s.setPart k v).frames = s.frames := rfl
@[simp] theorem setPart_images (s : State) (k : Nat) (v : Part) : (s.setPart k v).images = s.images := rfl
@[simp] theorem setPart_wakeCopies (s : State) (k : Nat) (v : Part) : (s.setPart k v).wakeCopies = s.wakeCopies := rfl
@[simp] theorem setPart_launches (s : State) (k : Nat) (v : Part) : (s.setPart k v).launches = s.launches := rfl
@[simp] theorem setPart_roots (s : State) (k : Nat) (v : Part) : (s.setPart k v).roots = s.roots := rfl
@[simp] theorem setPart_landings (s : State) (k : Nat) (v : Part) : (s.setPart k v).landings = s.landings := rfl
@[simp] theorem setPart_hostMem (s : State) (k : Nat) (v : Part) : (s.setPart k v).hostMem = s.hostMem := rfl
@[simp] theorem setPart_nextGroup (s : State) (k : Nat) (v : Part) : (s.setPart k v).nextGroup = s.nextGroup := rfl
@[simp] theorem setPart_reports (s : State) (k : Nat) (v : Part) : (s.setPart k v).reports = s.reports := rfl
@[simp] theorem setPart_tows (s : State) (k : Nat) (v : Part) : (s.setPart k v).tows = s.tows := rfl
@[simp] theorem setPart_chans (s : State) (k : Nat) (v : Part) : (s.setPart k v).chans = s.chans := rfl
@[simp] theorem setPart_lost (s : State) (k : Nat) (v : Part) : (s.setPart k v).lost = s.lost := rfl
@[simp] theorem setPart_mem (s : State) (k : Nat) (v : Part) : (s.setPart k v).mem = s.mem := rfl
@[simp] theorem setPart_poison (s : State) (k : Nat) (v : Part) : (s.setPart k v).poison = s.poison := rfl
@[simp] theorem setPart_flaws (s : State) (k : Nat) (v : Part) : (s.setPart k v).flaws = s.flaws := rfl
@[simp] theorem setPart_holders (s : State) (k : Nat) (v : Part) : (s.setPart k v).holders = s.holders := rfl
@[simp] theorem setPart_noRoute (s : State) (k : Nat) (v : Part) : (s.setPart k v).noRoute = s.noRoute := rfl
@[simp] theorem setPart_mute (s : State) (k : Nat) (v : Part) : (s.setPart k v).mute = s.mute := rfl
@[simp] theorem setPart_untold (s : State) (k : Nat) (v : Part) : (s.setPart k v).untold = s.untold := rfl
@[simp] theorem setPart_codeMaps (s : State) (k : Nat) (v : Part) : (s.setPart k v).codeMaps = s.codeMaps := rfl
@[simp] theorem setPart_now (s : State) (k : Nat) (v : Part) : (s.setPart k v).now = s.now := rfl
@[simp] theorem setPart_agenda (s : State) (k : Nat) (v : Part) : (s.setPart k v).agenda = s.agenda := rfl
@[simp] theorem setPart_cur (s : State) (k : Nat) (v : Part) : (s.setPart k v).cur = s.cur := rfl
@[simp] theorem setPart_eager (s : State) (k : Nat) (v : Part) : (s.setPart k v).eager = s.eager := rfl
@[simp] theorem setPart_cursor (s : State) (k : Nat) (v : Part) : (s.setPart k v).cursor = s.cursor := rfl
@[simp] theorem setPart_place (s : State) (k : Nat) (v : Part) : (s.setPart k v).place = s.place := rfl
@[simp] theorem setPart_moorings (s : State) (k : Nat) (v : Part) : (s.setPart k v).moorings = s.moorings := rfl
@[simp] theorem setPart_tick (s : State) (k : Nat) (v : Part) : (s.setPart k v).tick = s.tick := rfl

@[simp] theorem thr_setPart (s : State) (j k : Nat) (v : Part) : (s.setPart k v).thr j = s.thr j := rfl
@[simp] theorem core_setPart (s : State) (j k : Nat) (v : Part) : (s.setPart k v).core j = s.core j := rfl
@[simp] theorem clus_setPart (s : State) (j k : Nat) (v : Part) : (s.setPart k v).clus j = s.clus j := rfl
@[simp] theorem grp_setPart (s : State) (j k : Nat) (v : Part) : (s.setPart k v).grp j = s.grp j := rfl
@[simp] theorem grid_setPart (s : State) (j k : Nat) (v : Part) : (s.setPart k v).grid j = s.grid j := rfl
@[simp] theorem pkg_setPart (s : State) (j k : Nat) (v : Part) : (s.setPart k v).pkg j = s.pkg j := rfl
@[simp] theorem part_setPart (s : State) (k : Nat) (v : Part) : (s.setPart k v).part k = v := tget_tset s.parts {} k v
theorem part_setPart_ne (s : State) {j k : Nat} (v : Part) (h : j ≠ k) : (s.setPart k v).part j = s.part j :=
  tget_tset_ne s.parts {} v h
@[simp] theorem berth_setPart (s : State) (j k : Nat) (v : Part) : (s.setPart k v).berth j = s.berth j := rfl
@[simp] theorem setPart_setPart (s : State) (k : Nat) (v w : Part) : (s.setPart k v).setPart k w = s.setPart k w := by
  simp [State.setPart]

/-! ### setBerth -/

@[simp] theorem setBerth_threads (s : State) (k : Nat) (v : Berth) : (s.setBerth k v).threads = s.threads := rfl
@[simp] theorem setBerth_cores (s : State) (k : Nat) (v : Berth) : (s.setBerth k v).cores = s.cores := rfl
@[simp] theorem setBerth_clusters (s : State) (k : Nat) (v : Berth) : (s.setBerth k v).clusters = s.clusters := rfl
@[simp] theorem setBerth_groups (s : State) (k : Nat) (v : Berth) : (s.setBerth k v).groups = s.groups := rfl
@[simp] theorem setBerth_grids (s : State) (k : Nat) (v : Berth) : (s.setBerth k v).grids = s.grids := rfl
@[simp] theorem setBerth_packages (s : State) (k : Nat) (v : Berth) : (s.setBerth k v).packages = s.packages := rfl
@[simp] theorem setBerth_parts (s : State) (k : Nat) (v : Berth) : (s.setBerth k v).parts = s.parts := rfl
@[simp] theorem setBerth_berths (s : State) (k : Nat) (v : Berth) : (s.setBerth k v).berths = tset s.berths k v := rfl
@[simp] theorem setBerth_frames (s : State) (k : Nat) (v : Berth) : (s.setBerth k v).frames = s.frames := rfl
@[simp] theorem setBerth_images (s : State) (k : Nat) (v : Berth) : (s.setBerth k v).images = s.images := rfl
@[simp] theorem setBerth_wakeCopies (s : State) (k : Nat) (v : Berth) : (s.setBerth k v).wakeCopies = s.wakeCopies := rfl
@[simp] theorem setBerth_launches (s : State) (k : Nat) (v : Berth) : (s.setBerth k v).launches = s.launches := rfl
@[simp] theorem setBerth_roots (s : State) (k : Nat) (v : Berth) : (s.setBerth k v).roots = s.roots := rfl
@[simp] theorem setBerth_landings (s : State) (k : Nat) (v : Berth) : (s.setBerth k v).landings = s.landings := rfl
@[simp] theorem setBerth_hostMem (s : State) (k : Nat) (v : Berth) : (s.setBerth k v).hostMem = s.hostMem := rfl
@[simp] theorem setBerth_nextGroup (s : State) (k : Nat) (v : Berth) : (s.setBerth k v).nextGroup = s.nextGroup := rfl
@[simp] theorem setBerth_reports (s : State) (k : Nat) (v : Berth) : (s.setBerth k v).reports = s.reports := rfl
@[simp] theorem setBerth_tows (s : State) (k : Nat) (v : Berth) : (s.setBerth k v).tows = s.tows := rfl
@[simp] theorem setBerth_chans (s : State) (k : Nat) (v : Berth) : (s.setBerth k v).chans = s.chans := rfl
@[simp] theorem setBerth_lost (s : State) (k : Nat) (v : Berth) : (s.setBerth k v).lost = s.lost := rfl
@[simp] theorem setBerth_mem (s : State) (k : Nat) (v : Berth) : (s.setBerth k v).mem = s.mem := rfl
@[simp] theorem setBerth_poison (s : State) (k : Nat) (v : Berth) : (s.setBerth k v).poison = s.poison := rfl
@[simp] theorem setBerth_flaws (s : State) (k : Nat) (v : Berth) : (s.setBerth k v).flaws = s.flaws := rfl
@[simp] theorem setBerth_holders (s : State) (k : Nat) (v : Berth) : (s.setBerth k v).holders = s.holders := rfl
@[simp] theorem setBerth_noRoute (s : State) (k : Nat) (v : Berth) : (s.setBerth k v).noRoute = s.noRoute := rfl
@[simp] theorem setBerth_mute (s : State) (k : Nat) (v : Berth) : (s.setBerth k v).mute = s.mute := rfl
@[simp] theorem setBerth_untold (s : State) (k : Nat) (v : Berth) : (s.setBerth k v).untold = s.untold := rfl
@[simp] theorem setBerth_codeMaps (s : State) (k : Nat) (v : Berth) : (s.setBerth k v).codeMaps = s.codeMaps := rfl
@[simp] theorem setBerth_now (s : State) (k : Nat) (v : Berth) : (s.setBerth k v).now = s.now := rfl
@[simp] theorem setBerth_agenda (s : State) (k : Nat) (v : Berth) : (s.setBerth k v).agenda = s.agenda := rfl
@[simp] theorem setBerth_cur (s : State) (k : Nat) (v : Berth) : (s.setBerth k v).cur = s.cur := rfl
@[simp] theorem setBerth_eager (s : State) (k : Nat) (v : Berth) : (s.setBerth k v).eager = s.eager := rfl
@[simp] theorem setBerth_cursor (s : State) (k : Nat) (v : Berth) : (s.setBerth k v).cursor = s.cursor := rfl
@[simp] theorem setBerth_place (s : State) (k : Nat) (v : Berth) : (s.setBerth k v).place = s.place := rfl
@[simp] theorem setBerth_moorings (s : State) (k : Nat) (v : Berth) : (s.setBerth k v).moorings = s.moorings := rfl
@[simp] theorem setBerth_tick (s : State) (k : Nat) (v : Berth) : (s.setBerth k v).tick = s.tick := rfl

@[simp] theorem thr_setBerth (s : State) (j k : Nat) (v : Berth) : (s.setBerth k v).thr j = s.thr j := rfl
@[simp] theorem core_setBerth (s : State) (j k : Nat) (v : Berth) : (s.setBerth k v).core j = s.core j := rfl
@[simp] theorem clus_setBerth (s : State) (j k : Nat) (v : Berth) : (s.setBerth k v).clus j = s.clus j := rfl
@[simp] theorem grp_setBerth (s : State) (j k : Nat) (v : Berth) : (s.setBerth k v).grp j = s.grp j := rfl
@[simp] theorem grid_setBerth (s : State) (j k : Nat) (v : Berth) : (s.setBerth k v).grid j = s.grid j := rfl
@[simp] theorem pkg_setBerth (s : State) (j k : Nat) (v : Berth) : (s.setBerth k v).pkg j = s.pkg j := rfl
@[simp] theorem part_setBerth (s : State) (j k : Nat) (v : Berth) : (s.setBerth k v).part j = s.part j := rfl
@[simp] theorem berth_setBerth (s : State) (k : Nat) (v : Berth) : (s.setBerth k v).berth k = v := tget_tset s.berths {} k v
theorem berth_setBerth_ne (s : State) {j k : Nat} (v : Berth) (h : j ≠ k) : (s.setBerth k v).berth j = s.berth j :=
  tget_tset_ne s.berths {} v h
@[simp] theorem setBerth_setBerth (s : State) (k : Nat) (v w : Berth) : (s.setBerth k v).setBerth k w = s.setBerth k w := by
  simp [State.setBerth]
@[simp] theorem modBerth_eq (s : State) (k : Nat) (f : Berth → Berth) : s.modBerth k f = s.setBerth k (f (s.berth k)) := rfl

/-! ### The terms of a claim -/

@[simp] theorem withFlags_eq (s : State) (f : Flags → Flags) : s.withFlags f = s.setThr s.cur { s.me with f := f s.me.f } := rfl
@[simp] theorem withA_eq (s : State) (v : Word) : s.withA v = s.setThr s.cur { s.me with a := v } := rfl
@[simp] theorem withVa_eq (s : State) (v : BitVec 1024) : s.withVa v = s.setThr s.cur { s.me with va := v } := rfl
@[simp] theorem withPtr_eq (s : State) (n : BitVec 3) (v : Word) : s.withPtr n v = s.setThr s.cur (s.me.setPtr n v) := rfl
/-- An issue begins with the thread as it is, but for the ring stages and the threshold that it keeps (R291, R351). -/
theorem issued_eq (s : State) :
    s.issued = State.setThr { s with cursor := 0, place := 0 } s.cur { s.me with views := s.stagesHeld, ths := some s.thHeld } := rfl

@[simp] theorem issued_cur (s : State) : s.issued.cur = s.cur := rfl
@[simp] theorem issued_grp (s : State) (k : Nat) : s.issued.grp k = s.grp k := rfl
@[simp] theorem issued_clus (s : State) (k : Nat) : s.issued.clus k = s.clus k := rfl
@[simp] theorem issued_core (s : State) (k : Nat) : s.issued.core k = s.core k := rfl
@[simp] theorem issued_mem (s : State) : s.issued.mem = s.mem := rfl
@[simp] theorem issued_tows (s : State) : s.issued.tows = s.tows := rfl

/-- Only what the executing thread keeps of its first issue may differ. -/
theorem issued_thr (s : State) (k : Nat) :
    s.issued.thr k = { s.thr k with views := (s.issued.thr k).views, ths := (s.issued.thr k).ths } := by
  rw [issued_eq]
  by_cases hk : k = s.cur
  · subst hk; rw [thr_setThr]; rfl
  · rw [thr_setThr_ne _ _ hk]; rfl

@[simp] theorem issued_thr_group (s : State) (k : Nat) : (s.issued.thr k).group = (s.thr k).group := by rw [issued_thr]
@[simp] theorem issued_thr_live (s : State) (k : Nat) : (s.issued.thr k).live = (s.thr k).live := by rw [issued_thr]
@[simp] theorem issued_thr_tid (s : State) (k : Nat) : (s.issued.thr k).tid = (s.thr k).tid := by rw [issued_thr]
@[simp] theorem issued_thr_a (s : State) (k : Nat) : (s.issued.thr k).a = (s.thr k).a := by rw [issued_thr]
@[simp] theorem issued_thr_va (s : State) (k : Nat) : (s.issued.thr k).va = (s.thr k).va := by rw [issued_thr]
@[simp] theorem issued_thr_vm (s : State) (k : Nat) : (s.issued.thr k).vm = (s.thr k).vm := by rw [issued_thr]
@[simp] theorem issued_thr_ptrs (s : State) (k : Nat) : (s.issued.thr k).ptrs = (s.thr k).ptrs := by rw [issued_thr]
@[simp] theorem issued_thr_lc (s : State) (k : Nat) : (s.issued.thr k).lc = (s.thr k).lc := by rw [issued_thr]
@[simp] theorem issued_thr_f (s : State) (k : Nat) : (s.issued.thr k).f = (s.thr k).f := by rw [issued_thr]
@[simp] theorem issued_thr_h (s : State) (k : Nat) : (s.issued.thr k).h = (s.thr k).h := by rw [issued_thr]
@[simp] theorem issued_thr_pc (s : State) (k : Nat) : (s.issued.thr k).pc = (s.thr k).pc := by rw [issued_thr]
@[simp] theorem issued_thr_trap (s : State) (k : Nat) : (s.issued.thr k).trap = (s.thr k).trap := by rw [issued_thr]
@[simp] theorem issued_thr_block (s : State) (k : Nat) : (s.issued.thr k).block = (s.thr k).block := by rw [issued_thr]
@[simp] theorem issued_thr_wait (s : State) (k : Nat) : (s.issued.thr k).wait = (s.thr k).wait := by rw [issued_thr]
@[simp] theorem issued_thr_got (s : State) (k : Nat) : (s.issued.thr k).got = (s.thr k).got := by rw [issued_thr]
@[simp] theorem issued_thr_sent (s : State) (k : Nat) : (s.issued.thr k).sent = (s.thr k).sent := by rw [issued_thr]
@[simp] theorem issued_thr_kept (s : State) (k : Nat) : (s.issued.thr k).kept = (s.thr k).kept := by rw [issued_thr]
@[simp] theorem issued_thr_drawn (s : State) (k : Nat) : (s.issued.thr k).drawn = (s.thr k).drawn := by rw [issued_thr]
@[simp] theorem issued_thr_pending (s : State) (k : Nat) : (s.issued.thr k).pending = (s.thr k).pending := by rw [issued_thr]
@[simp] theorem issued_thr_freed (s : State) (k : Nat) : (s.issued.thr k).freed = (s.thr k).freed := by rw [issued_thr]

theorem issued_me (s : State) : s.issued.me = { s.me with views := s.issued.me.views, ths := s.issued.me.ths } := by
  unfold State.me; rw [issued_cur]; exact issued_thr s s.cur

@[simp] theorem issued_me_group (s : State) : s.issued.me.group = s.me.group := by rw [issued_me]
@[simp] theorem issued_me_live (s : State) : s.issued.me.live = s.me.live := by rw [issued_me]
@[simp] theorem issued_me_tid (s : State) : s.issued.me.tid = s.me.tid := by rw [issued_me]
@[simp] theorem issued_me_a (s : State) : s.issued.me.a = s.me.a := by rw [issued_me]
@[simp] theorem issued_me_va (s : State) : s.issued.me.va = s.me.va := by rw [issued_me]
@[simp] theorem issued_me_vm (s : State) : s.issued.me.vm = s.me.vm := by rw [issued_me]
@[simp] theorem issued_me_ptrs (s : State) : s.issued.me.ptrs = s.me.ptrs := by rw [issued_me]
@[simp] theorem issued_me_lc (s : State) : s.issued.me.lc = s.me.lc := by rw [issued_me]
@[simp] theorem issued_me_f (s : State) : s.issued.me.f = s.me.f := by rw [issued_me]
@[simp] theorem issued_me_h (s : State) : s.issued.me.h = s.me.h := by rw [issued_me]
@[simp] theorem issued_me_pc (s : State) : s.issued.me.pc = s.me.pc := by rw [issued_me]
@[simp] theorem issued_towOf (s : State) (k : Nat) : s.issued.towOf k = s.towOf k := by simp [State.towOf]
@[simp] theorem me_setThr (s : State) (t : Thread) : (s.setThr s.cur t).me = t := tget_tset s.threads {} s.cur t

end Sys2Proof.Machine
end

