-- ==== Sys2Proof/Laws/Issue.lean ====
section
/-! SUPPORT. What one issue of an instruction can do, and how the parts of a body run one after the other. -/
namespace Sys2Proof.Machine

/-! ### Bodies -/

theorem does_pure {α : Type} (v : α) (s : State) : Does (pure v) s v s := rfl

theorem does_bind {α β : Type} {m : Exec α} {k : α → Exec β} {s t u : State} {v : α} {w : β}
    (hm : Does m s v t) (hk : Does (k v) t w u) : Does (m >>= k) s w u := by
  unfold Does at *
  simp only [StateT.run_bind, hm]
  exact hk

theorem does_modify (f : State → State) (s : State) : Does (modify f) s () (f s) := rfl
theorem does_get (s : State) : Does (get : Exec State) s s s := rfl
theorem does_set (s t : State) : Does (set t : Exec PUnit) s () t := rfl
theorem does_modMe (f : Thread → Thread) (s : State) : Does (modMe f) s () (s.modThr s.cur f) := rfl
theorem does_getMe (s : State) : Does getMe s s.me s := rfl
theorem does_getGrp (s : State) : Does getGrp s (s.grp s.myGrp) s := rfl
theorem does_modMyGrp (f : Group → Group) (s : State) : Does (modMyGrp f) s () (s.modGrp s.myGrp f) := rfl
theorem does_setA (v : Word) (s : State) : Does (setA v) s () (s.withA v) := rfl
theorem does_modFlags (f : Flags → Flags) (s : State) : Does (modFlags f) s () (s.withFlags f) := rfl

theorem does_orFstat (x : BitVec 5) (s : State) : Does (orFstat x) s () (s.raising x) := by
  unfold orFstat State.raising
  split
  · exact does_pure () s
  · exact does_modMyGrp _ s

/-- A body has one end. -/
theorem does_unique {α : Type} {m : Exec α} {s t u : State} {v w : α} (h1 : Does m s v t) (h2 : Does m s w u) :
    v = w ∧ t = u := by
  unfold Does at h1 h2
  rw [h1] at h2
  simpa using h2

/-! ### An issue -/

/-- The thread whose flags decide. -/
def decider (ctl : Bool) (s : State) : Nat :=
  if ctl then (match s.towOf s.cur with | some w => if w.frozen.isNone then w.tug else s.cur | none => s.cur) else s.cur

theorem decider_issued (ctl : Bool) (s : State) : decider ctl s.issued = decider ctl s := by
  unfold decider; rw [issued_cur, issued_towOf]

/-- What one issue does, with the deciding thread named. -/
theorem issue_eq (len : Nat) (p : Pred) (ctl : Bool) (body : Exec (Option Addr)) (s : State) :
    issue len p ctl body s =
      if predHolds p (s.thr (decider ctl s)).f = true then
        (match body.run s.issued with
          | .ok (dest, u) => .next (u.complete len dest)
          | .error (.trap c o epc x info) => .next (s.issued.takeTrap s.cur c o epc x info)
          | .error (.wait w u) => .next (u.modThr s.cur (fun t => { s.issued.me.progress t with wait := w }))
          | .error (.rests w u) => .next (u.modThr s.cur (fun t => { t with wait := w }))
          | .error (.ends u) => .next u)
      else .next (s.issued.complete len none) := by
  have h : issue len p ctl body s =
      if predHolds p (s.issued.thr (decider ctl s.issued)).f = true then
        (match body.run s.issued with
          | .ok (dest, u) => .next (u.complete len dest)
          | .error (.trap c o epc x info) => .next (s.issued.takeTrap s.issued.cur c o epc x info)
          | .error (.wait w u) => .next (u.modThr s.issued.cur (fun t => { s.issued.me.progress t with wait := w }))
          | .error (.rests w u) => .next (u.modThr s.issued.cur (fun t => { t with wait := w }))
          | .error (.ends u) => .next u)
      else .next (s.issued.complete len none) := rfl
  rw [h, decider_issued, issued_thr_f, issued_cur]

/-- A body that comes to its end completes the instruction. -/
theorem issue_completes {len : Nat} {p : Pred} {ctl : Bool} {body : Exec (Option Addr)} {s u : State} {dest : Option Addr}
    (hp : predHolds p (s.thr (decider ctl s)).f = true) (hb : Does body s.issued dest u) :
    issue len p ctl body s = .next (u.complete len dest) := by
  rw [issue_eq, if_pos hp, show body.run s.issued = _ from hb]

/-- A body that traps takes the trap, and nothing else remains of it. -/
theorem issue_traps {len : Nat} {p : Pred} {ctl : Bool} {body : Exec (Option Addr)} {s : State} {c : BitVec 10}
    {o : BitVec 2} {epc : Option Addr} {x : Option Word} {info : Word}
    (hp : predHolds p (s.thr (decider ctl s)).f = true) (hb : body.run s.issued = .error (.trap c o epc x info)) :
    issue len p ctl body s = .next (s.issued.takeTrap s.cur c o epc x info) := by
  rw [issue_eq, if_pos hp, hb]

/-- A body that sets the thread's next state itself. -/
theorem issue_ends {len : Nat} {p : Pred} {ctl : Bool} {body : Exec (Option Addr)} {s u : State}
    (hp : predHolds p (s.thr (decider ctl s)).f = true) (hb : body.run s.issued = .error (.ends u)) :
    issue len p ctl body s = .next u := by
  rw [issue_eq, if_pos hp, hb]

/-- A body that waits leaves the thread's registers as they were at the issue. -/
theorem issue_waits {len : Nat} {p : Pred} {ctl : Bool} {body : Exec (Option Addr)} {s u : State} {w : Wait}
    (hp : predHolds p (s.thr (decider ctl s)).f = true) (hb : body.run s.issued = .error (.wait w u)) :
    issue len p ctl body s = .next (u.modThr s.cur (fun t => { s.issued.me.progress t with wait := w })) := by
  rw [issue_eq, if_pos hp, hb]

/-- A body that waits after it has written registers keeps what it has written. -/
theorem issue_rests {len : Nat} {p : Pred} {ctl : Bool} {body : Exec (Option Addr)} {s u : State} {w : Wait}
    (hp : predHolds p (s.thr (decider ctl s)).f = true) (hb : body.run s.issued = .error (.rests w u)) :
    issue len p ctl body s = .next (u.modThr s.cur (fun t => { t with wait := w })) := by
  rw [issue_eq, if_pos hp, hb]

/-- An instruction whose predicate fails goes on at the next sequential address. -/
theorem issue_skips {len : Nat} {p : Pred} {ctl : Bool} {body : Exec (Option Addr)} {s : State}
    (hp : predHolds p (s.thr (decider ctl s)).f = false) : issue len p ctl body s = .next (s.issued.complete len none) := by
  rw [issue_eq, if_neg (by simp [hp])]

/-- An issue always answers a next state. -/
theorem issue_next (len : Nat) (p : Pred) (ctl : Bool) (body : Exec (Option Addr)) (s : State) :
    ∃ t, issue len p ctl body s = .next t := by
  rw [issue_eq]
  split
  · split <;> exact ⟨_, rfl⟩
  · exact ⟨_, rfl⟩

theorem straight_completes {h : Hdr} {body : Exec Unit} {s u : State} (hl : s.lets h.pred) (hb : Does body s.issued () u) :
    straight h body s = .next (u.complete h.form.bytes none) :=
  issue_completes (ctl := false) hl (does_bind hb (does_pure none u))

theorem straightS_completes {p : Pred} {body : Exec Unit} {s u : State} (hl : s.lets p) (hb : Does body s.issued () u) :
    straightS p body s = .next (u.complete 8 none) :=
  issue_completes (ctl := false) hl (does_bind hb (does_pure none u))

end Sys2Proof.Machine
end

