-- ==== Sys2Proof/Laws/Memory.lean ====
section
/-! SUPPORT. The memory operations: what a read gives after a write, and that each keeps the canonical form. -/
namespace Sys2Proof.Machine

/-! ### The canonical form -/

theorem Memory.wf_iff (m : Memory) :
    Memory.wf m = true ↔ (∀ e ∈ m, e.2 ≠ unlistedByte) ∧ List.Pairwise (fun x y : Host.Cell => x.1 < y.1) m := by
  simp only [Memory.wf, Bool.and_eq_true, List.all_eq_true, bne_iff_ne, decide_eq_true_eq]

theorem Memory.wf_cons {k : Nat} {c : Byte} {r : Memory} :
    Memory.wf ((k, c) :: r) = true ↔ c ≠ unlistedByte ∧ (∀ e ∈ r, k < e.1) ∧ Memory.wf r = true := by
  simp only [Memory.wf_iff, List.forall_mem_cons, List.pairwise_cons]
  constructor
  · rintro ⟨⟨h1, h2⟩, h3, h4⟩; exact ⟨h1, h3, h2, h4⟩
  · rintro ⟨h1, h3, h2, h4⟩; exact ⟨⟨h1, h2⟩, h3, h4⟩

theorem Memory.wf_nil : Memory.wf [] = true := by simp [Memory.wf]

theorem Memory.wf_filter {m : Memory} (p : Host.Cell → Bool) (h : Memory.wf m = true) : Memory.wf (m.filter p) = true := by
  rw [Memory.wf_iff] at *
  exact ⟨fun e he => h.1 e (List.mem_of_mem_filter he), h.2.filter p⟩

theorem memGet_of_lt {m : Memory} {a : Nat} (h : ∀ e ∈ m, a < e.1) : memGet m a = unlistedByte := by
  induction m with
  | nil => rfl
  | cons e r ih =>
    obtain ⟨k, c⟩ := e
    have hk : a < k := h (k, c) (by simp)
    rw [memGet, if_neg (Nat.ne_of_lt hk)]
    exact ih (fun e he => h e (by simp [he]))

/-! ### One byte -/

theorem mem_memSet {m : Memory} {a : Nat} {b : Byte} {e : Host.Cell} (h : e ∈ memSet m a b) : e = (a, b) ∨ e ∈ m := by
  induction m with
  | nil =>
    simp only [memSet] at h
    split at h
    · simp at h
    · left; simpa using h
  | cons f r ih =>
    obtain ⟨k, c⟩ := f
    simp only [memSet] at h
    split at h
    · split at h
      · right; exact h
      · simpa using h
    · split at h
      · split at h
        · right; simp [h]
        · rcases List.mem_cons.1 h with h | h
          · exact .inl h
          · right; simp [h]
      · rcases List.mem_cons.1 h with h | h
        · right; simp [h]
        · rcases ih h with h | h
          · exact .inl h
          · right; simp [h]

theorem memSet_wf {m : Memory} (a : Nat) (b : Byte) (h : Memory.wf m = true) : Memory.wf (memSet m a b) = true := by
  induction m with
  | nil =>
    simp only [memSet]
    split
    · exact Memory.wf_nil
    · rename_i hb; exact Memory.wf_cons.2 ⟨hb, by simp, Memory.wf_nil⟩
  | cons e r ih =>
    obtain ⟨k, c⟩ := e
    obtain ⟨hc, hk, hr⟩ := Memory.wf_cons.1 h
    simp only [memSet]
    split
    · rename_i hak
      split
      · exact h
      · rename_i hb
        refine Memory.wf_cons.2 ⟨hb, ?_, h⟩
        intro e he
        rcases List.mem_cons.1 he with he | he
        · subst he; exact hak
        · exact Nat.lt_trans hak (hk e he)
    · split
      · rename_i hka
        split
        · exact hr
        · rename_i hb
          subst hka
          exact Memory.wf_cons.2 ⟨hb, hk, hr⟩
      · rename_i h1 h2
        refine Memory.wf_cons.2 ⟨hc, ?_, ih hr⟩
        intro e he
        rcases mem_memSet he with he | he
        · subst he; show k < a; omega
        · exact hk e he

theorem memGet_memSet {m : Memory} (a : Nat) (b : Byte) (h : Memory.wf m = true) : memGet (memSet m a b) a = b := by
  induction m with
  | nil =>
    simp only [memSet]
    split
    · rename_i hb; simp [memGet, hb]
    · simp [memGet]
  | cons e r ih =>
    obtain ⟨k, c⟩ := e
    obtain ⟨hc, hk, hr⟩ := Memory.wf_cons.1 h
    simp only [memSet]
    split
    · rename_i hak
      split
      · rename_i hb
        rw [hb]
        refine memGet_of_lt (fun e he => ?_)
        rcases List.mem_cons.1 he with he | he
        · subst he; exact hak
        · exact Nat.lt_trans hak (hk e he)
      · simp [memGet]
    · split
      · rename_i hka
        split
        · rename_i hb
          rw [hb, hka]
          exact memGet_of_lt hk
        · simp [memGet]
      · rename_i h2
        rw [memGet, if_neg h2]
        exact ih hr

theorem memGet_memSet_ne {m : Memory} {a x : Nat} (b : Byte) (hx : x ≠ a) : memGet (memSet m a b) x = memGet m x := by
  induction m with
  | nil =>
    simp only [memSet]
    split
    · rfl
    · simp [memGet, hx]
  | cons e r ih =>
    obtain ⟨k, c⟩ := e
    simp only [memSet]
    split
    · split
      · rfl
      · rw [memGet, if_neg hx]
    · split
      · rename_i hka
        split
        · rw [memGet, if_neg (by omega)]
        · rw [memGet, memGet, if_neg hx, if_neg (by omega)]
      · simp only [memGet, ih]

/-! ### Several bytes -/

theorem memWrite_wf {m : Memory} (bs : List Byte) (a : Nat) (h : Memory.wf m = true) : Memory.wf (memWrite m a bs) = true := by
  induction bs generalizing m a with
  | nil => exact h
  | cons b bs ih => exact ih (a + 1) (memSet_wf a b h)

theorem memMasked_wf {m : Memory} (bs : List (Nat × Byte)) (a : Nat) (h : Memory.wf m = true) :
    Memory.wf (memMasked m a bs) = true := by
  induction bs generalizing m with
  | nil => exact h
  | cons e bs ih => obtain ⟨o, b⟩ := e; exact ih (memSet_wf (a + o) b h)

theorem memClear_wf {m : Memory} (a n : Nat) (h : Memory.wf m = true) : Memory.wf (memClear m a n) = true :=
  Memory.wf_filter _ h

theorem stampLanding_wf {m : Memory} (loc : Nat) (v : Bool × Nat) (h : Memory.wf m = true) :
    Memory.wf (stampLanding m loc v) = true := memSet_wf _ _ (memSet_wf _ _ h)

/-- A write leaves every other byte alone. -/
theorem memGet_memWrite_out {m : Memory} (bs : List Byte) {a x : Nat} (h : x < a ∨ a + bs.length ≤ x) :
    memGet (memWrite m a bs) x = memGet m x := by
  induction bs generalizing m a with
  | nil => rfl
  | cons b bs ih =>
    simp only [List.length_cons] at h
    rw [memWrite, ih (by omega), memGet_memSet_ne b (by omega)]

@[simp] theorem memBytes_length (m : Memory) (a n : Nat) : (memBytes m a n).length = n := by
  induction n generalizing a with
  | zero => rfl
  | succ n ih => simp [memBytes, ih]

theorem memBytes_congr {m m' : Memory} {a n : Nat} (h : ∀ x, a ≤ x → x < a + n → memGet m x = memGet m' x) :
    memBytes m a n = memBytes m' a n := by
  induction n generalizing a with
  | zero => rfl
  | succ n ih =>
    rw [memBytes, memBytes, h a (by omega) (by omega), ih (fun x h1 h2 => h x (by omega) (by omega))]

/-- What is written is read back. -/
theorem memBytes_memWrite {m : Memory} (bs : List Byte) (a : Nat) (h : Memory.wf m = true) :
    memBytes (memWrite m a bs) a bs.length = bs := by
  induction bs generalizing m a with
  | nil => rfl
  | cons b bs ih =>
    rw [List.length_cons, memBytes, memWrite, memGet_memWrite_out bs (by omega), memGet_memSet a b h, ih (a + 1) (memSet_wf a b h)]

theorem memBytes_memWrite_out {m : Memory} (bs : List Byte) {a x n : Nat} (h : x + n ≤ a ∨ a + bs.length ≤ x) :
    memBytes (memWrite m a bs) x n = memBytes m x n :=
  memBytes_congr (fun y h1 h2 => memGet_memWrite_out bs (by omega))

/-- A memory in canonical form is settled by what its bytes read as at one location at a time. -/
theorem memGet_of_mem {m : Memory} (h : Memory.wf m = true) {e : Host.Cell} (he : e ∈ m) : memGet m e.1 = e.2 := by
  induction m with
  | nil => simp at he
  | cons f r ih =>
    obtain ⟨k, c⟩ := f
    obtain ⟨hc, hk, hr⟩ := Memory.wf_cons.1 h
    rcases List.mem_cons.1 he with he | he
    · subst he; simp [memGet]
    · rw [memGet, if_neg (Nat.ne_of_gt (hk e he))]
      exact ih hr he

theorem reset_mem_wf : Memory.wf State.reset.mem = true ∧ Memory.wf State.reset.hostMem = true :=
  ⟨Memory.wf_nil, Memory.wf_nil⟩

end Sys2Proof.Machine
end

