-- ==== Sys2Proof/Tests/Slice0.lean ====
section
/-! SUPPORT. Tests of the model, by steps on small states, and a witness of the hypotheses of each statement. -/
namespace Sys2Proof.Tests
open Sys2Proof Sys2Proof.Machine
set_option Elab.async false

/-! ### Helpers -/

/-- m, begun in s, comes to its end with a value and a state that k accepts. -/
def runs {α : Type} (m : Exec α) (s : State) (k : α → State → Bool) : Bool :=
  match m.run s with
  | .ok (v, t) => k v t
  | .error _ => false

/-- What `runs` says, in the terms of the statements. -/
theorem runs_does {α : Type} {m : Exec α} {s : State} {k : α → State → Bool} (h : runs m s k = true) :
    ∃ v t, Does m s v t ∧ k v t = true := by
  unfold runs at h
  split at h
  · exact ⟨_, _, by assumption, h⟩
  · cases h

/-- An instruction or step answers a next state that k accepts. -/
def goes (i : Instr) (s : State) (k : State → Bool) : Bool :=
  match exec i s with
  | .next t => k t
  | _ => false

theorem goes_next {i : Instr} {s : State} {k : State → Bool} (h : goes i s k = true) : ∃ t, exec i s = .next t ∧ k t = true := by
  unfold goes at h
  split at h
  · exact ⟨_, by assumption, h⟩
  · cases h

/-- The same of a step of the machine. -/
def steps (s : State) (k : State → Bool) : Bool :=
  match step s with
  | .next t => k t
  | _ => false

/-- The executing thread takes a trap of a cause. -/
def traps (c : BitVec 10) (t : State) : Bool := t.me.trap.h && t.me.trap.cause == c.setWidth 64 && t.me.pc == 0x20000

/-- Group 1 on cluster 0 of package 0, with two threads on core 0 and one on core 1, banks 4 and 5 as scratchpad and bank 6 in the
near cache, ring descriptor 2, barrier 3, tiles 0 and 1, array 0; its grid has the vector 0x20000; its page at 0x10000 is
mapped to the location 0x40000. Thread 0 executes. -/
def s0 : State where
  packages := [(0, { phase := .full, slices := [{ part := 1, clusters := [0, 1], units := [0], ports := [] }] })]
  parts := [(1, {})]
  threads := [(0, { group := some 1, live := true, pc := 0x10000 }), (1, { group := some 1, live := true, tid := 1, pc := 0x10000 }),
    (16, { group := some 1, live := true, tid := 2, pc := 0x10000 })]
  groups := [(1, { grid := 9, cluster := 0, slots := [0, 1, 16], banks := [4, 5, 6], rings := [2], bars := [3], tiles := [0, 1], arrays := [0] })]
  grids := [(9, { part := 1, st := .dealt, count := 1, next := 1, man := [0, 0x20000, 0, 0, 0x30000] })]
  clusters := [(0, { banks := [(4, { mode := .sp, group := some 1 }), (5, { mode := .sp, group := some 1 }), (6, { group := some 1 })], tlb := [{ root := 0, va := 0x10000, size := 16, pa := 0x40000, rd := true, wr := true, ex := false, uc := false }] })]

/-- The address of byte o of the scratchpad. -/
def sp (o : Nat) : Word := BitVec.ofNat 64 (2 ^ 55 + o)

/-- p0 to p2 in the scratchpad, p3 with stride code -2, p4 and p5 in the page, p6 and p7 in the scratchpad. -/
def s1 : State :=
  s0.modThr 0 (fun t =>
    { t with ptrs := #v[sp 0x100, sp 0x200, sp 0x300, 0xFE00000000000000 + sp 0x400, 0x10000, 0x10100, sp 0x600, sp 0x700] })

/-- s1 with thread 0 changed. -/
def me (f : Thread → Thread) : State := s1.modThr 0 f
/-- s with n bytes of v at offset o of the scratchpad. -/
def put (o v n : Nat) (s : State) : State := { s with mem := memWrite s.mem (bankLoc 0 4 o) (leBytes v n) }
/-- n bytes at offset o of the scratchpad. -/
def got (s : State) (o n : Nat) : Nat := leVal (memBytes s.mem (bankLoc 0 4 o) n)
/-- s with thread 0's `a`. -/
def acc (v : Word) : State := me (fun t => { t with a := v })

def hS : Hdr := ⟨.S, .always⟩
def hM : Hdr := ⟨.M, .always⟩
def hL : Hdr := ⟨.L, .always⟩
def hT : Hdr := ⟨.S, .th⟩
def plain : Qual := ⟨.plain, .co⟩

/-! ### Decoding (R18 to R32) -/

/-- Each word of the table's numbering decodes to its instruction. -/
def decodes (l : List (Nat × Nat × Instr)) : Bool := l.all (fun e => decodeTableWord e.1 e.2.1 == some e.2.2)

/-- The words that chapter 02 of the spec gives, for the instructions that it gives them for. -/
theorem test_decode_words : decodes [
    (64, 0x000000000911C109, (.add ⟨.S, .always⟩ .i32 .a (.mem 2 .postInc))),
    (64, 0x000000002512440D, (.vfma ⟨.S, .always⟩ (.mem 1 .postInc) (.mem 2 .postInc))),
    (64, 0x0000000000000009, (.halt .always)),
    (64, 0x0000000000000001, (.nop .S)),
    (96, 0x00010003000000060DC1C102, (.lda ⟨.M, .always⟩ .i64 ⟨.plain, .co⟩ (.mem 3 (.disp 24)) 3)),
    (128, 0x0080000000002000000000000C69430F, (.pset ⟨.L, .always⟩ 4 (.imm 0x80000000002000))),
    (96, 0x000000000000000000000002, (.nop .M))] = true := by decide +kernel

/-- The words that chapter 03 of the spec gives, for the instructions that it gives them for. -/
theorem test_decode_threads : decodes [
    (64, 0x000000000C16400D, (.enq ⟨.S, .always⟩ .i64 1 (.mem 3 .postInc))),
    (64, 0x000000000C11C011, (.deq ⟨.S, .always⟩ .i64 .a 1)),
    (64, 0x0000000240218015, (.qlink .always 2 9)),
    (64, 0x0000000400000019, (.fork ⟨.S, .always⟩ 16 0 0)),
    (96, 0x00010001000000040000001A, (.fork ⟨.M, .always⟩ 16 0 1)),
    (64, 0x00000002000A001D, (.join ⟨.S, .always⟩ 5 8 0)),
    (64, 0x00000000C0018021, (.tow 3)),
    (64, 0x0000000000000025, .cast)] = true := by decide +kernel

/-- The words that chapter 04 of the spec gives, for the instructions that it gives them for. -/
theorem test_decode_scalar : decodes [
    (64, 0x000000004C61C10D, (.sub ⟨.S, .always⟩ .i64 .a (.imm 1))),
    (64, 0x000001908861C151, (.cmp ⟨.S, .always⟩ .i32 2 .a (.imm 100))),
    (64, 0x000000002491C201, (.fadd ⟨.S, .always⟩ .f32 .a (.mem 1 .postInc))),
    (64, 0x000000026C71C225, (.fcvt ⟨.S, .always⟩ .bf16 .a .a .f32 .rne)),
    (96, 0x3000000000000000087C0106, (.sta ⟨.M, .always⟩ .i32 ⟨.rel, .cl⟩ (.mem 6 .ind) .a)),
    (64, 0x000000100C674309, (.padd ⟨.S, .always⟩ 3 (.imm 64))),
    (64, 0x000000000D5B4311, (.pmov .always 5 2)),
    (64, 0xFFFFFFFE8810002D, (.bc ⟨.S, .always⟩ 2 true 0x3FFFFFFFA 0)),
    (64, 0x00000004006EC031, (.call ⟨.S, .always⟩ (.rel 16) 7)),
    (64, 0x00000000000E4035, (.ret .always 7)),
    (64, 0x0000000118018041, (.ldlc ⟨.S, .always⟩ .ui32 (.imm 4))),
    (64, 0x000000000861C101, (.lda ⟨.S, .always⟩ .i32 ⟨.plain, .co⟩ (.imm 0) 0)),
    (64, 0xFFFFFFFF8000003D, (.loop ⟨.S, .always⟩ false 0x3FFFFFFFE 0)),
    (64, 0x0000000008760105, (.sta ⟨.S, .always⟩ .i32 ⟨.plain, .co⟩ (.mem 3 .ind) .a))] = true := by decide +kernel

/-- The words that chapter 06 of the spec gives, for the instructions that it gives them for. -/
theorem test_decode_vector : decodes [
    (64, 0x000000002893C501, (.vld ⟨.S, .always⟩ .f16 ⟨.plain, .co⟩ (.mem 1 .postInc) 0)),
    (96, 0x00060000000000003C93C502, (.vld ⟨.M, .always⟩ (.pb 3) ⟨.plain, .co⟩ (.mem 1 .postInc) 0)),
    (64, 0x000000002CF44505, (.vst ⟨.S, .always⟩ .bf16 ⟨.plain, .co⟩ (.mem 2 .postInc) false)),
    (64, 0x000000000873C401, (.vadd ⟨.S, .always⟩ .i32 .va .a)),
    (64, 0x00000000A473C515, (.vcmp ⟨.S, .always⟩ .f32 2 false .va .a)),
    (64, 0x00003FFF24F1C53D, (.vxsum ⟨.S, .always⟩ .f32 .va false 0xFFFC))] = true := by decide +kernel

/-- The words that chapter 07 of the spec gives, for the instructions that it gives them for. -/
theorem test_decode_storage : decodes [
    (64, 0x0000040000044601, (.pf ⟨.S, .always⟩ .l1 (.bytes 2 .postInc (.nb 0x1000)))),
    (64, 0x4000004000060605, (.inv ⟨.S, .always⟩ .nc (.bytes 3 .ind (.nb 256)))),
    (64, 0x6000000000000609, (.wbk ⟨.S, .always⟩ .nc .all)),
    (64, 0x2000000000000615, (.tlbinv ⟨.S, .always⟩ .all)),
    (64, 0x0000000B0000460D, (.bank ⟨.S, .always⟩ 1 (.imm 1 12) false)),
    (96, 0x000200000000000B0000460E, (.bank ⟨.M, .always⟩ 1 (.imm 1 12) true)),
    (64, 0x000000008061C611, (.bankq .always (.imm 2)))] = true := by decide +kernel

/-- The words that chapter 08 of the spec gives, for the instructions that it gives them for. -/
theorem test_decode_ordering : decodes [
    (64, 0x000000004C660641, (.amoAdd ⟨.S, .always⟩ .i64 ⟨.plain, .co⟩ (.mem 3 .ind) (.imm 1))),
    (64, 0x000000000C7A065D, (.uadd ⟨.S, .always⟩ .i64 (.mem 5 .ind) .a)),
    (64, 0x00000006B8620669, (.amoNib ⟨.S, .always⟩ ⟨.plain, .co⟩ (.mem 1 .ind) (.imm 26))),
    (96, 0x380000000000000002060662, (.cas64 ⟨.M, .always⟩ ⟨.ar, .cl⟩ (.mem 3 .ind) (.mem 4 .ind))),
    (96, 0x780000000000000000040666, (.cas128 ⟨.M, .always⟩ ⟨.ar, .pk⟩ (.mem 2 .ind))),
    (96, 0x28000000000000000103C62A, (.ldq ⟨.M, .always⟩ ⟨.acq, .cl⟩ (.mem 2 .ind))),
    (96, 0x700000000000000000000622, (.fence .always ⟨.rel, .pk⟩)),
    (64, 0x0000000000000625, (.ifence .always))] = true := by decide +kernel

/-- The words that chapter 09 of the spec gives, for the instructions that it gives them for. -/
theorem test_decode_traps : decodes [
    (64, 0x000000040001CD09, (.rdsr .always .a 16)),
    (64, 0x000000FFCC61C121, (.and ⟨.S, .always⟩ .i64 .a (.imm 0x3FF))),
    (64, 0x0000000000000D05, (.eret .always)),
    (64, 0x0000000080018D01, (.trap .always 2))] = true := by decide +kernel

/-- The words that chapter 10 of the spec gives, for the instructions that it gives them for. -/
theorem test_decode_stack : decodes [
    (96, 0x00000000000000020C435302, (.lp ⟨.M, .own⟩ 1 (.mem 0 (.disp 8)))),
    (64, 0x000000008001CD0D, (.wrsr .always 2 .a)),
    (96, 0x00020000000000020C65010A, (.add ⟨.M, .always⟩ .i64 (.mem 2 (.disp 8)) (.imm 1))),
    (96, 0x00000000000000040D590306, (.stp ⟨.M, .always⟩ (.mem 4 (.disp 16)) 2))] = true := by decide +kernel

/-- The words that chapter 11 of the spec gives, for the instructions that it gives them for. -/
theorem test_decode_ferry : decodes [
    (96, 0x000000000000000001808702, (.fcopy ⟨.M, .always⟩ 2 (.mem 3 .ind) 0)),
    (96, 0x000000000000000001808706, (.fcopyTry ⟨.M, .always⟩ 2 (.mem 3 .ind) 0)),
    (128, 0x00000000400020000000000001804703, (.fcopy ⟨.L, .always⟩ 1 (.mem 3 .ind) 0x40002000)),
    (128, 0x0000000000000000000000400180070B, (.fcopyOn ⟨.L, .always⟩ 0 (.mem 3 .ind) 256 0)),
    (64, 0x0000000000008721, (.hwait .always (.handle 2))),
    (64, 0x000000000021C725, (.htest .always 2 false)),
    (64, 0x0000000000008729, (.hcancel .always 2)),
    (64, 0x00000000C061C72D, (.fmark .always (.imm 3))),
    (64, 0x0000001000680741, (.landInit ⟨.S, .always⟩ (.mem 4 .ind) (.imm 64))),
    (64, 0x0000000040680745, (.landWait ⟨.S, .always⟩ (.mem 4 .ind) (.imm 1)))] = true := by decide +kernel

/-- The words that chapter 12 of the spec gives, for the instructions that it gives them for. -/
theorem test_decode_ragged : decodes [
    (64, 0x000000000C134301, (.lp ⟨.S, .always⟩ 1 (.mem 0 .postInc))),
    (64, 0x0000000000001749, (.shapeFence .own))] = true := by decide +kernel

/-- The words that chapter 13 of the spec gives, for the instructions that it gives them for. -/
theorem test_decode_rings : decodes [
    (96, 0x00000000000000000D808A02, (.ringInit ⟨.M, .always⟩ 2 (.mem 3 .ind))),
    (128, 0x0000122001000100000000000C600A03, (.ringInit ⟨.L, .always⟩ 0 (.imm 0x122001000100))),
    (64, 0x000000000001CA05, (.ringArrive .always 0 false)),
    (64, 0x000000000011CA09, (.ringStat .always 1)),
    (64, 0x0000000158318A21, (.barInit .always 3 (.imm 5))),
    (64, 0x000000000031CA25, (.barArrive .always 3)),
    (64, 0x000000001831CA29, (.barWait .always 3 .a)),
    (64, 0x000000000001CA41, (.podbar ⟨.S, .always⟩ .both 0)),
    (96, 0x00010001000000000001CA42, (.podbar ⟨.M, .always⟩ .both 1))] = true := by decide +kernel

/-- The words that chapter 14 of the spec gives, for the instructions that it gives them for. -/
theorem test_decode_matrix : decodes [
    (96, 0x000000000000000001004802, (.mw ⟨.M, .always⟩ 1 (.mem 2 .ind))),
    (96, 0x000000000000000001808806, (.mx ⟨.M, .always⟩ 2 (.mem 3 .ind))),
    (128, 0x00000000400010000000000000000807, (.mx ⟨.L, .always⟩ 0 (.abs 0x40001000))),
    (128, 0x0000000050000000000000000200C80B, (.mxg .always 3 (.mem 4 .ind) 0x50000000)),
    (96, 0x00000000000000000280480E, (.mxgAdd .always 1 (.mem 5 .ind))),
    (64, 0x0000000000004811, (.mxgClose .always 1)),
    (64, 0x0000000700600815, (.mchain .always 0 ⟨false, true, 3, 0⟩)),
    (64, 0x0000000040600819, (.mq .always 0 true)),
    (64, 0x000000000011C81D, (.mstat .always 1))] = true := by decide +kernel

/-- The words that chapter 15 of the spec gives, for the instructions that it gives them for. -/
theorem test_decode_tiles : decodes [
    (64, 0xFFFFFFFB80610901, (.xclr ⟨.S, .always⟩ 4 (.imm 0xFFEE))),
    (64, 0x0000000A64F10905, (.xadd ⟨.S, .always⟩ .f32 4 (.imm 5 1) .va)),
    (64, 0x0000000A6C444909, (.xrd ⟨.S, .always⟩ .bf16 (.mem 2 .postInc) 4 (.imm 5 1) false)),
    (64, 0x000000000001090D, (.xscale .always 4 .none)),
    (64, 0x0000004000610921, (.xrankInit .always 4 (.imm 2 0))),
    (64, 0x0000000001010925, (.xrankIns ⟨.S, .always⟩ 4 (.imm 0) (.mem 2 .ind))),
    (64, 0x0000000001810929, (.xrankMerge ⟨.S, .always⟩ 4 (.imm 0) (.mem 3 .ind))),
    (64, 0x000000000048092D, (.xrankRd ⟨.S, .always⟩ (.mem 4 .ind) 4 (.imm 0))),
    (64, 0x0000000000610931, (.xthr .always (.row 4 0)))] = true := by decide +kernel

/-- The words that chapter 16 of the spec gives, for the instructions that it gives them for. -/
theorem test_decode_moe : decodes [
    (64, 0x1C0058E00C67430D, (.pset ⟨.S, .always⟩ 3 (.imm 0x70016380))),
    (96, 0x0200000000000004006D0742, (.landInit ⟨.M, .always⟩ (.mem 6 (.disp 16)) (.imm 256))),
    (96, 0x0002000000000008006D0746, (.landWait ⟨.M, .always⟩ (.mem 6 (.disp 32)) (.imm 1)))] = true := by decide +kernel

/-- The words that chapter 17 of the spec gives, for the instructions that it gives them for. -/
theorem test_decode_manifests : decodes [
    (64, 0x000014030C700B01, (.mfPatch ⟨.S, .always⟩ (.imm 12) 5 .a)),
    (96, 0x00800000000014030C600B02, (.mfPatch ⟨.M, .always⟩ (.imm 12) 5 (.imm 64))),
    (64, 0x000000030001CB05, (.mfArm .always (.imm 12) false)),
    (64, 0x000000030001CB09, (.launch ⟨.S, .always⟩ (.imm 12) false 0)),
    (96, 0x002A0000000000030001CB0A, (.launch ⟨.M, .always⟩ (.imm 12) true 5)),
    (96, 0x00000000000000030181CB0E, (.launchInd ⟨.M, .always⟩ (.imm 12) (.mem 3 .ind))),
    (128, 0x0000000040000040000000030001CB0F, (.launchInd ⟨.L, .always⟩ (.imm 12) (.abs 0x40000040))),
    (64, 0x000000000001CB11, (.gcancel .always)),
    (64, 0x0000000000000B15, (.gabort .always)),
    (64, 0x000000004071CB19, (.gstat .always false true))] = true := by decide +kernel

/-- The words that chapter 18 of the spec gives, for the instructions that it gives them for. -/
theorem test_decode_halo : decodes [
    (64, 0x00000001CC61C12D, (.shl ⟨.S, .always⟩ .i64 .a (.imm 7))),
    (64, 0x00000006CC61C135, (.sar ⟨.S, .always⟩ .i64 .a (.imm 27))),
    (96, 0x00000000000001408841C152, (.cmp ⟨.M, .always⟩ .i32 2 .a (.mem 0 (.disp 80))))] = true := by decide +kernel

/-- The words that chapter 19 of the spec gives, for the instructions that it gives them for. -/
theorem test_decode_wake : decodes [
    (96, 0x000200010000000400000C06, (.wbr .always 1 1 16)),
    (96, 0x000600020000000200000C02, (.wsel .always 2 3 8)),
    (96, 0x000000030000040000044C0A, (.wpf .always 3 .l1 2 .postInc 0x1000)),
    (96, 0x000500020000000298018C0E, (.wunr .always .ui32 (.imm 10) true 2 2)),
    (96, 0x00000002000000000001CC12, (.wrd .always 2)),
    (96, 0x00050002000000001801CC16, (.wnote .always .ui32 .loop .a 2))] = true := by decide +kernel

/-- Words put together from the fields of R22 and R23 and the field table of R101. -/
theorem test_decode_control_fields : decodes [
    (64, 0x0000000000002005, .yield .nown),
    (64, 0x0000000400000029, .br ⟨.S, .always⟩ false 0x10 0),
    (64, 0xFFFFFFFF80100029, .br ⟨.S, .always⟩ true 0x3FFFFFFFE 0),
    (64, 0x0000000000074039, .jmp ⟨.S, .always⟩ (.ptr 3)),
    (64, 0x0000000000084039, .jmp ⟨.S, .always⟩ (.mem 4 .postInc))] = true := by decide +kernel

/-- Words put together from the fields of R22 and R23 and the field table of R88. -/
theorem test_decode_integer_fields : decodes [
    (64, 0x00000000092AC111, .mul ⟨.S, .always⟩ .i32 (.mem 5 .preDec) (.mem 2 .postStride)),
    (64, 0x000000000DACC115, .mulh ⟨.S, .always⟩ .i64 (.mem 6 .preDec) (.mem 3 .postStride)),
    (64, 0x00000000122EC119, .div ⟨.S, .always⟩ .ui8 (.mem 7 .preDec) (.mem 4 .postStride)),
    (64, 0x0000000016A0C11D, .rem ⟨.S, .always⟩ .ui16 (.mem 0 .preDec) (.mem 5 .postStride)),
    (64, 0x000000001FA4C125, .or ⟨.S, .always⟩ .ui64 (.mem 2 .preDec) (.mem 7 .postStride)),
    (64, 0x000000000026C129, .xor ⟨.S, .always⟩ .i8 (.mem 3 .preDec) (.mem 0 .postStride)),
    (64, 0x00000000092AC131, .shr ⟨.S, .always⟩ .i32 (.mem 5 .preDec) (.mem 2 .postStride)),
    (64, 0x00000000122EC139, .min ⟨.S, .always⟩ .ui8 (.mem 7 .preDec) (.mem 4 .postStride)),
    (64, 0x0000000016A0C13D, .max ⟨.S, .always⟩ .ui16 (.mem 0 .preDec) (.mem 5 .postStride)),
    (64, 0x000000001351D141, .neg ⟨.S, .own⟩ .ui8 .a (.ptr 6)),
    (64, 0x000000001751D145, .not ⟨.S, .own⟩ .ui16 .a (.ptr 6)),
    (64, 0x000000001B51D149, .clz ⟨.S, .own⟩ .ui32 .a (.ptr 6)),
    (64, 0x000000001F51D14D, .popc ⟨.S, .own⟩ .ui64 .a (.ptr 6)),
    (64, 0x000001924C620155, .tst ⟨.S, .always⟩ .i64 9 (.mem 1 .ind) (.imm 100)),
    (64, 0xFFFFFFF7CC620155, .tst ⟨.S, .always⟩ .i64 15 (.mem 1 .ind) (.imm 0xFFFFFFFFFFFFFFFD)),
    (64, 0x0000000009020159, .sel ⟨.S, .always⟩ .i32 (.mem 1 .ind) (.mem 2 .ind)),
    (64, 0x000000000402015D, .ext ⟨.S, .always⟩ .i16 (.mem 1 .ind))] = true := by decide +kernel

/-- Words put together from the fields of R22 and R23 and the field table of R96, R99. -/
theorem test_decode_float_fields : decodes [
    (64, 0x000000002491F205, .fsub ⟨.S, .th⟩ .f32 .a (.mem 1 .postInc)),
    (64, 0x000000002911F209, .fmul ⟨.S, .th⟩ .f16 .a (.mem 2 .postInc)),
    (64, 0x000000002D91F20D, .fdiv ⟨.S, .th⟩ .bf16 .a (.mem 3 .postInc)),
    (64, 0x000000002211F211, .fsqrt ⟨.S, .th⟩ .f64 .a (.mem 4 .postInc)),
    (64, 0x000000002B11F219, .fmin ⟨.S, .th⟩ .f16 .a (.mem 6 .postInc)),
    (64, 0x000000002F91F21D, .fmax ⟨.S, .th⟩ .bf16 .a (.mem 7 .postInc)),
    (64, 0x0000000025024215, .ffma ⟨.S, .always⟩ .f32 (.mem 1 .postInc) (.mem 2 .ind)),
    (64, 0x00000001A101C221, .fcmp ⟨.S, .always⟩ .f64 6 .a (.mem 2 .ind)),
    (64, 0x0000000E0881C225, .fcvt ⟨.S, .always⟩ .i32 .a (.mem 1 .ind) .f64 .rup)] = true := by decide +kernel

/-- Words put together from the fields of R22 and R23 and the field table of R136, R140, R146. -/
theorem test_decode_lanes_fields : decodes [
    (64, 0x000000001893D405, .vsub ⟨.S, .own⟩ .ui32 .va (.mem 1 .postInc)),
    (64, 0x000000002513E409, .vmul ⟨.S, .nown⟩ .f32 .va (.mem 2 .postInc)),
    (64, 0x000000001A13D411, .vmin ⟨.S, .own⟩ .ui32 .va (.mem 4 .postInc)),
    (64, 0x000000002693E415, .vmax ⟨.S, .nown⟩ .f32 .va (.mem 5 .postInc)),
    (64, 0x000000000B13C419, .vabs ⟨.S, .always⟩ .i32 .va (.mem 6 .postInc)),
    (64, 0x000000002793D41D, .vneg ⟨.S, .own⟩ .f32 .va (.mem 7 .postInc)),
    (64, 0x000000000813E421, .vand ⟨.S, .nown⟩ .i32 .va (.mem 0 .postInc)),
    (64, 0x000000000893C425, .vor ⟨.S, .always⟩ .i32 .va (.mem 1 .postInc)),
    (64, 0x000000000913D429, .vxor ⟨.S, .own⟩ .i32 .va (.mem 2 .postInc)),
    (64, 0x000000000993E42D, .vshl ⟨.S, .nown⟩ .i32 .va (.mem 3 .postInc)),
    (64, 0x000000000A13C431, .vshr ⟨.S, .always⟩ .i32 .va (.mem 4 .postInc)),
    (64, 0x000000001A93D435, .vmov ⟨.S, .own⟩ .ui32 .va (.mem 5 .postInc)),
    (64, 0x000000001873C519, .vsel ⟨.S, .always⟩ .ui32 .va .a),
    (64, 0x0000000668F3C51D, .vcvt ⟨.S, .always⟩ .f16 .va .va .f32 .rz),
    (64, 0x000000001A83C521, .vperm ⟨.S, .always⟩ (.mem 5 .ind)),
    (64, 0x0000000024F6C525, .vrcp ⟨.S, .always⟩ (.mem 3 .preDec) .va),
    (64, 0x0000000024F6C529, .vrsq ⟨.S, .always⟩ (.mem 3 .preDec) .va),
    (64, 0x0000000024F6C52D, .vexp2 ⟨.S, .always⟩ (.mem 3 .preDec) .va),
    (64, 0x0000000024F6C531, .vlog2 ⟨.S, .always⟩ (.mem 3 .preDec) .va),
    (64, 0x0000000024F1C535, .vredmax ⟨.S, .always⟩ .f32 .va),
    (64, 0x000000000881C539, .vredmin ⟨.S, .always⟩ .i32 (.mem 1 .ind))] = true := by decide +kernel

/-- Words put together from the fields of R22 and R23 and the field table of R140, R205. -/
theorem test_decode_vecmem_fields : decodes [
    (64, 0x0000000031D3C509, .vldx ⟨.S, .always⟩ .f8e4 3 0),
    (64, 0x000000000479450D, .vstx ⟨.S, .always⟩ .i16 4 .a),
    (64, 0x000000002C93C511, .vbc ⟨.S, .always⟩ .bf16 (.mem 1 .postInc)),
    (64, 0x0000000000F4462D, .stq ⟨.S, .always⟩ ⟨.plain, .co⟩ (.mem 2 .postInc))] = true := by decide +kernel

/-- Words put together from the fields of R22 and R23 and the field table of R205. -/
theorem test_decode_atomic_fields : decodes [
    (64, 0x0000000004760645, .amoAnd ⟨.S, .always⟩ .i16 ⟨.plain, .co⟩ (.mem 3 .ind) .a),
    (64, 0x0000000008760649, .amoOr ⟨.S, .always⟩ .i32 ⟨.plain, .co⟩ (.mem 3 .ind) .a),
    (64, 0x000000000C76064D, .amoXor ⟨.S, .always⟩ .i64 ⟨.plain, .co⟩ (.mem 3 .ind) .a),
    (64, 0x0000000010760651, .amoMin ⟨.S, .always⟩ .ui8 ⟨.plain, .co⟩ (.mem 3 .ind) .a),
    (64, 0x0000000014760655, .amoMax ⟨.S, .always⟩ .ui16 ⟨.plain, .co⟩ (.mem 3 .ind) .a),
    (64, 0x0000000018760659, .amoSwap ⟨.S, .always⟩ .ui32 ⟨.plain, .co⟩ (.mem 3 .ind) .a)] = true := by decide +kernel
/-- Words that are no instruction: LEN 00, group 0xF, a reserved operand specifier, an immediate destination, TYPE in `halt`, a
reserved COND of `fcmp`, `.th` on a branch, a `.s` branch forward, bank 3, ORD plain with a scope, a set wake field in an `add`,
SLOT in `br` without W, a TYPE 0xF in an S form (R18, R23, R26 to R32, R98, R101, R183). -/
theorem test_decode_refuses : [(64, 0x0000000000000004), (64, 0x0000000000000FFD), (64, 0x000000000915C109),
    (64, 0x0000000009118109), (64, 0x0000000004000009), (64, 0x000000022101C221), (64, 0x0000000400003029),
    (64, 0x0000000400100029), (64, 0x00000008C000460D), (96, 0x200000000000000008760106), (96, 0x00010003000000060DC1C10A),
    (96, 0x000000010000000400000002A), (64, 0x000000003C93C501)].all (fun e => (decodeTableWord e.1 e.2).isNone) = true := by
  decide +kernel

/-! ### Well-formedness: a term that each check refuses -/


/-- Threads and control: `.th`, an L form, a floating-point type, a pointer destination, banks 1 to 3, a site in an S form, a
forward `.s` branch, targets of the wrong form. -/
theorem test_ill_formed_control : ([.yield .th, .halt .th, .enq hS .f32 0 .a, .enq hL .i32 0 .a, .deq hS .i32 (.imm 0) 0,
    .deq hS .i32 .va 0, .qlink .always 0 3, .fork hL 0 0 0, .fork hS 0 0 1, .join hT 0 0 0, .br hS true 1 0, .bc hL 0 false 0 0,
    .call hS (.abs 0) 7, .call hL (.rel 0) 7, .call hS (.mem 0 (.disp 8)) 7, .ret .th 7, .jmp hM (.ptr 0), .jmp hS (.mem 0 (.disp 8)),
    .jmp hS (.abs 0), .loop hS true 0 0, .ldlc hS .f32 .a, .ldlc hS .ui32 (.imm 0x200000000)] : List Instr).all (fun i => !i.wf) = true := by
  decide

/-- Scalars: types, operand classes, two immediates in an S form, displacements in an S form, an immediate out of its field, a
qualifier in an S form or of the wrong kind, a scope without a qualifier, COND of `fcmp`, extended operands of `fcvt`. -/
theorem test_ill_formed_scalar : ([.lda hS .f4 plain .a 0, .lda hS .i32 ⟨.acq, .cl⟩ .a 0, .lda hM .i32 ⟨.rel, .cl⟩ .a 0,
    .lda hM .i32 ⟨.plain, .cl⟩ .a 0, .lda hS .i32 plain .a 1, .lda hS .i32 plain .va 0, .sta hS .i32 plain .a .a,
    .sta hM .i32 ⟨.acq, .cl⟩ (.mem 0 .ind) .a, .add hS .f32 .a .a, .add hS .i32 (.imm 1) .a, .add hS .i32 (.ptr 1) .a,
    .add hS .i32 .a .va, .add hS .i32 (.mem 0 (.disp 8)) .a, .add hL .i32 (.mem 0 (.disp 8)) (.mem 1 (.disp 8)),
    .add hS .i64 .a (.imm 0x200000000), .add hM .i64 (.mem 0 (.disp 8)) (.imm 0x4000), .neg hL .i32 .a .a,
    .cmp hS .i32 0 .a (.imm 0x20000000), .cmp hS .i32 0 (.imm 1) (.imm 2), .sel hS .f32 .a .a, .ext hT .i32 .a, .ext hL .i32 .a,
    .fadd hS .i32 .a .a, .fadd hS .f16 .a (.imm 0x10000), .fadd hS .f64 .a (.imm 0), .fsqrt hL .f32 .a .a, .ffma hS .f8e4 .a .a,
    .fcmp hS .f64 8 .a .a, .fcmp hS .f32 0 .a (.imm 0), .fcvt hS .f4 .a .a .f32 .rne, .fcvt hS .i32 .a (.imm 1) .i64 .rne,
    .fcvt hL .i32 .a .a .f32 .rne, .lp hS 0 .a, .lp hS 0 (.mem 0 (.disp 8)), .stp hS .a 0, .padd hS 0 (.ptr 1), .pset hS 0 (.mem 0 .ind),
    .pset hS 0 (.imm 0x80000000000000), .pmov .th 0 0] : List Instr).all (fun i => !i.wf) = true := by decide

/-- Vectors, storage and atomics: lane types, classes, block code 0, a block type in an S form, `inv` of the home, a whole-range `pf`,
mode 11 and bank 3 of `bank`, Z in an S form, a plain fence, forms. -/
theorem test_ill_formed_vector : ([.vadd hS .i16 .va .a, .vadd hT .i32 .va .a, .vadd hS .i32 .a .va, .vadd hL .i32 .va .a, .vfma hS (.ptr 0) .va,
    .vabs hS .ui32 .va .va, .vand hS .f32 .va .va, .vld hM (.pb 0) plain (.mem 0 .ind) 0, .vld hS (.pb 3) plain (.mem 0 .ind) 0,
    .vld hS .i64 plain (.mem 0 .ind) 0, .vld hS .f32 plain .a 0, .vst hM .f32 ⟨.acq, .cl⟩ (.mem 0 .ind) false, .vldx hS .f4 0 0,
    .vldx hS .f32 0 1, .vstx hS .f32 0 .va, .vbc hS .f64 .a, .vcmp hS .i32 6 false .va .a, .vcmp hS .f32 8 false .va .a,
    .vsel hS .f16 .va .a, .vcvt hS .i8 .va .va .f32 .rne, .vcvt hS .i32 .va .va .f16 .rne, .vperm hS (.ptr 0), .vrcp hS .a .va,
    .vredmax hS .i16 .va, .vxsum hS .f32 .a false 0, .vxsum hS .i32 .va true 0, .vxsum hS .i32 .va false 1, .pf hS .l1 .all,
    .inv hS .home .all, .wbk hL .l1 .all, .tlbinv hS (.bytes 0 .preDec .acc), .bank hS 0 (.imm 3 4) false, .bank hS 0 (.imm 0 3) false,
    .bank hS 0 .acc true, .bankq .always (.imm 28), .fence .always plain, .ifence .th, .ldq hS plain .va, .stq hM ⟨.ar, .cl⟩ (.mem 0 .ind),
    .amoAdd hS .f32 plain (.mem 0 .ind) .a, .amoAdd hS .i32 plain .a .a, .amoMin hS .i32 ⟨.rel, .cl⟩ (.mem 0 .ind) .a,
    .uadd hS .i16 (.mem 0 .ind) .a, .cas64 hS plain (.mem 0 .ind) .a, .cas128 hS plain (.mem 0 .ind), .amoNib hL plain (.mem 0 .ind) .a]
    : List Instr).all (fun i => !i.wf) = true := by decide

/-- Engines, rings, arrays, tiles, manifests, the wake, system registers; and every internal step, which no word encodes. -/
theorem test_ill_formed_system : ([.fcopy hS 0 (.mem 0 .ind) 0, .fcopy hM 0 .a 0, .fcopy hM 0 (.mem 0 .ind) 64, .fcopyOn hM 0 (.mem 0 .ind) 0 0,
    .fcopyOn hL 0 (.mem 0 (.disp 8)) 0 0, .fcopyOn hL 0 (.mem 0 .ind) 0x10000000 0, .fcopyOn hL 0 (.mem 0 .ind) 0x8000001 0,
    .hwait .always (.token (.ptr 0)), .htest .th 0 false, .landInit hS .a .a, .landWait hL (.mem 0 .ind) .a, .ringInit hS 0 .a,
    .ringArrive .th 0 false, .barInit .always 0 (.mem 0 .ind), .barWait .always 0 (.ptr 0), .podbar hS .both 1, .mw hS 0 (.mem 0 .ind),
    .mx hM 0 (.abs 0), .mxg .always 0 .a 0, .mxgAdd .always 0 .a, .mq .th 0 false, .xclr hT 0 .none, .xadd hS .f16 0 .acc .va,
    .xrd hS .f16 .va 0 .acc false, .xrd hS .f16 (.mem 0 .ind) 0 .acc true, .xrankInit .always 0 (.imm 6 0), .xrankIns hS 0 .acc .a,
    .xrankMerge hS 0 .acc .a, .xrankRd hS .va 0 .acc, .xthr .th .off, .mfPatch hS (.imm 0) 0 (.imm 0), .mfPatch hS .acc 0 .a,
    .mfPatch hL (.imm 0) 0 .a, .launch hS .acc true 0, .launch hL .acc false 0, .launchInd hM .acc (.abs 0), .gstat .th false false,
    .wsel .always 0 1 0, .wsel .always 1 0 0, .wbr .always 1 0 0, .wpf .always 0 .l1 0 .ind 0, .wpf .always 1 .l1 0 .preDec 0,
    .wunr .always .f32 .a false 1 0, .wnote .always .ui32 .branch .a 0, .trap .th 0, .rdsr .always (.ptr 0) 0,
    .rdsr .always (.mem 0 (.disp 8)) 0, .wrsr .always 0 (.imm 0), .l1Drop 0 0, .gridComplete 0, .powerOn 0] : List Instr).all
    (fun i => !i.wf) = true := by decide

/-! ### Scalars (R79 to R100) -/

/-- The value, the flags and the next pc. -/
def left (v : Word) (f : Flags) (t : State) : Bool := t.me.a == v && t.me.f == f && t.me.pc == 0x10008

/-- R91, by hand at the edges of each width. -/
theorem test_integer_two :
    goes (.add hS .i32 .a (.imm 1)) (acc 0x7FFFFFFF) (left 0xFFFFFFFF80000000 { n := true, v := true }) ∧
    goes (.add hS .ui32 .a (.imm 1)) (acc 0xFFFFFFFF) (left 0 { z := true, c := true }) ∧
    goes (.sub hS .i64 .a (.imm 1)) (acc 0) (left 0xFFFFFFFFFFFFFFFF { n := true, c := true }) ∧
    goes (.sub hS .i8 .a (.imm 1)) (acc 0x80) (left 0x7F { v := true }) ∧
    goes (.mul hS .i16 .a (.imm 0xFFFFFFFFFFFFFFFF)) (acc 0x8000) (left 0xFFFFFFFFFFFF8000 { n := true, c := true, v := true }) ∧
    goes (.mul hS .ui16 .a (.imm 3)) (acc 5) (left 15 {}) ∧
    goes (.mulh hS .i32 .a (.imm 2)) (acc 0xFFFFFFFF) (left 0xFFFFFFFFFFFFFFFF { n := true }) ∧
    goes (.mulh hS .ui32 .a (.imm 2)) (acc 0xFFFFFFFF) (left 1 {}) ∧
    goes (.div hS .i32 .a (.imm 2)) (acc 0xFFFFFFF9) (left 0xFFFFFFFFFFFFFFFD { n := true }) ∧
    goes (.div hS .i8 .a (.imm 0xFFFFFFFFFFFFFFFF)) (acc 0x80) (left 0xFFFFFFFFFFFFFF80 { n := true, v := true }) ∧
    goes (.rem hS .i32 .a (.imm 2)) (acc 0xFFFFFFF9) (left 0xFFFFFFFFFFFFFFFF { n := true }) ∧
    goes (.rem hS .i8 .a (.imm 0xFFFFFFFFFFFFFFFF)) (acc 0x80) (left 0 { z := true, v := true }) ∧
    goes (.div hS .i32 .a (.imm 0)) (acc 7) (traps 0x020) ∧ goes (.rem hS .ui64 .a (.imm 0)) (acc 7) (traps 0x020) := by
  decide +kernel

/-- R91: the logic, the shifts with their last bit out, and the orders. -/
theorem test_integer_bits :
    goes (.and hS .ui8 .a (.imm 0xF0)) (acc 0x3C) (left 0x30 {}) ∧ goes (.or hS .ui8 .a (.imm 0xF0)) (acc 0x0C) (left 0xFC { n := true }) ∧
    goes (.xor hS .ui8 .a (.imm 0xFF)) (acc 0xFF) (left 0 { z := true }) ∧
    goes (.shl hS .ui16 .a (.imm 1)) (acc 0x8001) (left 2 { c := true }) ∧ goes (.shl hS .ui16 .a (.imm 16)) (acc 0x8001) (left 0x8001 { n := true }) ∧
    goes (.shr hS .i8 .a (.imm 1)) (acc 0x81) (left 0x40 { c := true }) ∧
    goes (.sar hS .i8 .a (.imm 3)) (acc 0x84) (left 0xFFFFFFFFFFFFFFF0 { n := true, c := true }) ∧
    goes (.min hS .i8 .a (.imm 1)) (acc 0xFF) (left 0xFFFFFFFFFFFFFFFF { n := true }) ∧ goes (.min hS .ui8 .a (.imm 1)) (acc 0xFF) (left 1 {}) ∧
    goes (.max hS .i8 .a (.imm 1)) (acc 0xFF) (left 1 {}) ∧ goes (.max hS .ui8 .a (.imm 1)) (acc 0xFF) (left 0xFF { n := true }) := by
  decide +kernel

/-- R92, R94, R95. -/
theorem test_integer_one :
    goes (.neg hS .i16 .a .a) (acc 0x8000) (left 0xFFFFFFFFFFFF8000 { n := true, c := true, v := true }) ∧
    goes (.neg hS .ui8 .a .a) (acc 0) (left 0 { z := true }) ∧ goes (.not hS .ui8 .a .a) (acc 0x0F) (left 0xF0 { n := true }) ∧
    goes (.clz hS .i16 .a (.imm 1)) s1 (left 15 {}) ∧ goes (.clz hS .i16 .a (.imm 0)) s1 (left 16 {}) ∧
    goes (.popc hS .ui64 .a (.imm 0xFFFFFFFFFFFFFFFF)) s1 (left 64 {}) ∧
    goes (.sel hS .i32 (.imm 5) .a) (me (fun t => { t with a := 0xFFFFFFFF, f := { p := true } })) (left 5 { p := true }) ∧
    goes (.sel hS .i32 (.imm 5) .a) (acc 0xFFFFFFFF) (left 0xFFFFFFFFFFFFFFFF {}) ∧
    goes (.ext hS .i8 .a) (acc 0x1280) (left 0xFFFFFFFFFFFFFF80 { n := true }) ∧ goes (.ext hS .ui8 .a) (acc 0x1280) (left 0x80 { n := true }) := by
  decide +kernel

/-- R93: flags only; signed and unsigned conditions differ; `tst` clears C and V. -/
theorem test_compare :
    goes (.cmp hS .i32 2 .a (.imm 100)) (acc 0xFFFFFFFF) (left 0xFFFFFFFF { n := true, p := true }) ∧
    goes (.cmp hS .i32 6 .a (.imm 100)) (acc 0xFFFFFFFF) (left 0xFFFFFFFF { n := true }) ∧
    goes (.cmp hS .ui8 0xE .a (.imm 0)) (me (fun t => { t with f := { t := true } })) (left 0 { z := true, p := true, t := true }) ∧
    goes (.tst hS .i64 1 .a (.imm 8)) (me (fun t => { t with a := 0x18, f := { c := true, v := true } })) (left 0x18 { p := true }) := by
  decide +kernel

/-- R90, R85, R87: a load extends and sets flags, a store writes its width; post-increment, stride and pre-decrement; alignment. -/
theorem test_load_store :
    goes (.lda hS .i16 plain (.mem 0 .postInc) 0) (put 0x100 0x8001 2 s1)
      (fun t => t.me.a == 0xFFFFFFFFFFFF8001 && t.me.f == { n := true } && t.me.ptr 0 == sp 0x102) ∧
    goes (.lda hS .f32 plain (.mem 3 .postStride) 0) (put 0x400 0x80000000 4 s1)
      (fun t => t.me.a == 0x80000000 && t.me.f == {} && t.me.ptr 3 == 0xFE00000000000000 + sp 0x3F8) ∧
    goes (.sta hS .i32 plain (.mem 1 .preDec) .a) (put 0x200 0xFF 1 (acc 0x11223344AABBCCDD))
      (fun t => got t 0x1FC 5 == 0xFFAABBCCDD && t.me.ptr 1 == sp 0x1FC) ∧
    goes (.lda hM .i32 plain (.mem 0 (.disp 2)) 0) s1 (traps 0x0C0) ∧
    goes (.sta hS .ui8 plain (.mem 4 .ind) .a) (acc 0x5A) (fun t => (t.near 0 0x800).dirty == 1 && t.mem == []) := by
  decide +kernel

def flt (v : Word) (f : Flags) (x : BitVec 5) (t : State) : Bool := left v f t && (t.grp 1).fstat == x

/-- R97, R98, R99, R112 to R117: FP32 by hand. 1 + 2^-24 is a tie; 0 by 0; the largest number doubled; -0 equals 0; 2.5 to an
integer; a NaN to an integer is 0. -/
theorem test_float :
    goes (.fadd hS .f32 .a (.imm 0x33800000)) (acc 0x3F800000) (flt 0x3F800000 {} xInexact) ∧
    goes (.fsub hS .f32 .a (.imm 0x3F800000)) (acc 0x3F800000) (flt 0 { z := true } 0) ∧
    goes (.fmul hS .f32 .a (.imm 0x40000000)) (acc 0xFF7FFFFF) (flt 0xFF800000 { n := true } (xOverflow ||| xInexact)) ∧
    goes (.fdiv hS .f32 .a (.imm 0)) (acc 0x3F800000) (flt 0x7F800000 {} xDivZero) ∧
    goes (.fdiv hS .f32 .a (.imm 0)) (acc 0) (flt 0x7FC00000 { v := true } xInvalid) ∧
    goes (.fsqrt hS .f64 .a .a) (acc 0x4000000000000000) (flt 0x3FF6A09E667F3BCD {} xInexact) ∧
    goes (.ffma hS .f32 (.imm 0x40000000) (.ptr 0)) (me (fun t => { t with a := 0x3F800000, ptrs := t.ptrs.set 0 0x40400000 })) (flt 0x40E00000 {} 0) ∧
    goes (.fmin hS .f32 .a (.imm 0x7FC00000)) (acc 0x3F800000) (flt 0x3F800000 {} 0) ∧
    goes (.fmax hS .bf16 .a (.imm 0x4000)) (acc 0x3F80) (flt 0x4000 {} 0) ∧
    goes (.fcmp hS .f32 0 .a (.ptr 0)) (me (fun t => { t with a := 0x80000000, ptrs := t.ptrs.set 0 0 })) (flt 0x80000000 { z := true, p := true } 0) ∧
    goes (.fcmp hS .f64 2 .a .a) (acc 0x7FF8000000000000) (flt 0x7FF8000000000000 { v := true } xInvalid) ∧
    goes (.fcvt hS .i32 .a .a .f32 .rne) (acc 0x40200000) (flt 2 {} xInexact) ∧
    goes (.fcvt hS .i8 .a .a .f32 .rz) (acc 0x43800000) (flt 0x7F { v := true } xInvalid) ∧
    goes (.fcvt hS .bf16 .a .a .f32 .rup) (acc 0x3F800001) (flt 0x3F81 {} xInexact) := by
  decide +kernel

/-- R100: STRIDE stays, ADDR wraps within 56 bits. -/
theorem test_pointers :
    goes (.padd hS 3 (.imm 0xFFFFFFFFFFFFFFF8)) s1 (fun t => t.me.ptr 3 == 0xFE00000000000000 + sp 0x3F8) ∧
    goes (.pset hS 3 (.imm 8)) s1 (fun t => t.me.ptr 3 == 8) ∧ goes (.pmov .always 5 3) s1 (fun t => t.me.ptr 5 == 0xFE00000000000000 + sp 0x400) ∧
    goes (.lp hS 0 (.mem 0 .postInc)) (put 0x100 0x123456789ABCDEF 8 s1) (fun t => t.me.ptr 0 == 0x123456789ABCDEF) ∧
    goes (.stp hS (.mem 1 .ind) 3) s1 (fun t => got t 0x200 8 == 0xFE80000000000400) := by
  decide +kernel

/-! ### Control transfers and threads (R56 to R76, R101 to R107) -/

/-- R101 to R105: displacements count 4-byte units from the instruction. -/
theorem test_control :
    goes (.br hS true 0x3FFFFFFFE 0) s1 (fun t => t.me.pc == 0xFFF8) ∧
    goes (.bc hS 1 false 4 0) (me (fun t => { t with f := { z := true } })) (fun t => t.me.pc == 0x10008) ∧
    goes (.call hS (.rel 16) 7) s1 (fun t => t.me.pc == 0x10040 && t.me.ptr 7 == sp 0x6F8 && got t 0x6F8 8 == 0x10008) ∧
    goes (.ret .always 7) (put 0x700 0x12340 8 s1) (fun t => t.me.pc == 0x12340 && t.me.ptr 7 == sp 0x708) ∧
    goes (.jmp hS (.ptr 4)) s1 (fun t => t.me.pc == 0x10000) ∧
    goes (.loop hS false 8 0) (me (fun t => { t with lc := 2 })) (fun t => t.me.pc == 0x10020 && t.me.lc == 1) ∧
    goes (.loop hS false 8 0) (me (fun t => { t with lc := 1 })) (fun t => t.me.pc == 0x10008 && t.me.lc == 0) ∧
    goes (.ldlc hS .i8 (.imm 0xFFFFFFFFFFFFFFFF)) s1 (fun t => t.me.lc == 0xFFFFFFFF) := by
  decide +kernel

/-- R20: an instruction never starts in the last 4 bytes of a block. -/
theorem test_next_pc : nextPc 0x10014 8 = 0x10020 ∧ nextPc 0x10010 8 = 0x10018 ∧ nextPc 0x10000 12 = 0x1000C := by decide +kernel

/-- R57 to R62, R66, R68: `halt` keeps the slot; a queue passes a value on; a fork counts and pushes; an empty queue moors (KIND 1);
the last `join` goes on. -/
theorem test_threads :
    goes (.nop .M) s1 (fun t => t.me.pc == 0x1000C) ∧ goes (.yield .always) s1 (fun t => t.me.yielding.isSome) ∧
    goes (.halt .always) s1 (fun t => !t.me.live && t.me.group == some 1) ∧
    goes (.enq hS .i32 0 .a) ((acc 0xFFFFFFFF).setPort 0 0 { group := some 1 })
      (fun t => (t.port 0 0).entries == [{ val := 0xFFFFFFFFFFFFFFFF }]) ∧
    goes (.deq hS .ui8 .a 0) (s1.setPort 0 0 { group := some 1, entries := [{ val := 0x1234 }, { val := 5 }] })
      (fun t => t.me.a == 0x34 && (t.port 0 0).entries == [{ val := 5 }]) ∧
    goes (.deq hS .i64 .a 0) (s1.setPort 0 0 { group := some 1 }) (fun t => t.me.wait == .moored 1 0 0 0 0 && t.me.pc == 0x10000) ∧
    goes (.qlink .always 0 6) (s1.setPort 0 0 { group := some 1 }) (traps 0x0B2) ∧
    goes (.fork hS 16 1 0) s1 (fun t => t.me.f.p && got t 0x200 4 == 1 && (t.core 0).deque.map (·.pc) == [0x10040]) ∧
    goes (.join hS 1 8 0) (put 0x200 2 4 s1) (fun t => !t.me.live && got t 0x200 4 == 1) ∧
    goes (.join hS 1 8 0) (put 0x200 1 4 s1) (fun t => t.me.live && t.me.pc == 0x10020 && got t 0x200 4 == 0) := by
  decide +kernel

/-- R69, R70, R73: the thread of the next core has boarded; the tow starts and both go on; a `cast` of the tug ends it. -/
theorem test_tow :
    goes (.tow 0) s0 (fun t => t.me.wait == .moored 8 0 0 0 0) ∧
    goes (.tow 1) (s0.modThr 16 (fun t => { t with wait := .moored 8 0 0 0 0, sent := some none }))
      (fun t => t.me.pc == 0x10008 && (t.thr 16).pc == 0x10008 && (t.towOf 16).isSome) ∧
    goes .cast s0 (fun t => t.me.pc == 0x10008) := by
  decide +kernel

/-! ### Vectors (R132 to R150) -/

/-- Thread 0 with lane i of `va` as f gives it, and a mask. -/
def vec (m : W32) (f : Nat → W32) : State := me (fun t => { t with va := vecOf f, vm := m })
/-- Lanes 0 to 3. -/
def quad (t : State) (a b c d : W32) : Bool := (List.range 4).map (lane t.me.va) == [a, b, c, d]

/-- R137, R133: mod 2^32; signed and unsigned orders and shifts; inactive lanes stay. -/
theorem test_lanes_int :
    goes (.vadd hS .i32 .va .a) ((vec 5 (fun i => BitVec.ofNat 32 (2 ^ 32 - 1 - i))).modThr 0 (fun t => { t with a := 2 }))
      (fun t => quad t 1 0xFFFFFFFE 0xFFFFFFFF 0xFFFFFFFC) ∧
    goes (.vsub hS .ui32 .va (.imm 1)) (vec 1 (fun _ => 0)) (fun t => quad t 0xFFFFFFFF 0 0 0) ∧
    goes (.vmul hS .i32 .va .va) (vec 3 (fun _ => 0x10001)) (fun t => quad t 0x20001 0x20001 0x10001 0x10001) ∧
    goes (.vmin hS .i32 .va (.imm 1)) (vec 1 (fun _ => 0xFFFFFFFF)) (fun t => quad t 0xFFFFFFFF 0xFFFFFFFF 0xFFFFFFFF 0xFFFFFFFF) ∧
    goes (.vmax hS .ui32 .va (.imm 1)) (vec 1 (fun _ => 0xFFFFFFFF)) (fun t => lane t.me.va 0 == 0xFFFFFFFF) ∧
    goes (.vabs hS .i32 .va .va) (vec 1 (fun _ => 0x80000000)) (fun t => lane t.me.va 0 == 0x80000000) ∧
    goes (.vneg hS .f32 .va .va) (vec 1 (fun _ => 0x7F800001)) (fun t => quad t 0xFF800001 0x7F800001 0x7F800001 0x7F800001 && (t.grp 1).fstat == 0) ∧
    goes (.vand hS .ui32 .va (.imm 0xF0)) (vec 1 (fun _ => 0x3C)) (fun t => lane t.me.va 0 == 0x30) ∧
    goes (.vor hS .ui32 .va (.imm 0xF0)) (vec 1 (fun _ => 0x3C)) (fun t => lane t.me.va 0 == 0xFC) ∧
    goes (.vxor hS .ui32 .va (.imm 0xF0)) (vec 1 (fun _ => 0x3C)) (fun t => lane t.me.va 0 == 0xCC) ∧
    goes (.vshl hS .i32 .va (.imm 33)) (vec 1 (fun _ => 0x80000001)) (fun t => lane t.me.va 0 == 2) ∧
    goes (.vshr hS .i32 .va (.imm 4)) (vec 1 (fun _ => 0x80000000)) (fun t => lane t.me.va 0 == 0xF8000000) ∧
    goes (.vshr hS .ui32 .va (.imm 4)) (vec 1 (fun _ => 0x80000000)) (fun t => lane t.me.va 0 == 0x08000000) ∧
    goes (.vmov hS .i32 .va (.imm 7)) (vec 2 (fun _ => 1)) (fun t => quad t 1 7 1 1) := by
  decide +kernel

/-- R138, R148: one rounding; the special inputs; a power of two. -/
theorem test_lanes_float :
    goes (.vfma hS .va .va) (vec 1 (fun _ => 0x40400000)) (fun t => lane t.me.va 0 == 0x41400000) ∧
    goes (.vadd hS .f32 .va .a) (vec 1 (fun _ => 0x33800000) |>.modThr 0 (fun t => { t with a := 0x3F800000 }))
      (fun t => lane t.me.va 0 == 0x3F800000 && (t.grp 1).fstat == xInexact) ∧
    goes (.vmax hS .f32 .va (.imm 0)) (vec 1 (fun _ => 0x80000000)) (fun t => lane t.me.va 0 == 0) ∧
    goes (.vrcp hS .va .va) (vec 1 (fun _ => 0x40400000)) (fun t => lane t.me.va 0 == 0x3EAAAAAB) ∧
    goes (.vrsq hS .va .va) (vec 1 (fun _ => 0x80000000)) (fun t => lane t.me.va 0 == 0xFF800000 && (t.grp 1).fstat == xDivZero) ∧
    goes (.vexp2 hS .va .va) (vec 1 (fun _ => 0x40400000)) (fun t => lane t.me.va 0 == 0x41000000 && (t.grp 1).fstat == 0) ∧
    goes (.vlog2 hS .va .va) (vec 1 (fun _ => 0x41000000)) (fun t => lane t.me.va 0 == 0x40400000 && (t.grp 1).fstat == 0) ∧
    goes (.vcvt hS .i32 .va .va .f32 .rz) (vec 1 (fun _ => 0xC0200000)) (fun t => lane t.me.va 0 == 0xFFFFFFFE) ∧
    goes (.vcvt hS .bf16 .va .va .f32 .rne) (vec 1 (fun _ => 0x3F808000)) (fun t => lane t.me.va 0 == 0x3F800000) := by
  decide +kernel

/-- R144, R145, R147, R149, R150. -/
theorem test_lanes_other :
    goes (.vcmp hS .i32 2 false .va (.imm 1)) (vec 7 (fun i => BitVec.ofNat 32 i))
      (fun t => t.me.vm == 1 && t.me.a == 1 && t.me.f == { p := true }) ∧
    goes (.vcmp hS .ui32 0 true .va (.imm 40)) (vec 0 (fun i => BitVec.ofNat 32 i)) (fun t => t.me.vm == 0 && t.me.f == { z := true }) ∧
    goes (.vcmp hS .f32 1 false .va .va) (vec 1 (fun _ => 0x7FC00000)) (fun t => t.me.vm == 1 && (t.grp 1).fstat == 0) ∧
    goes (.vsel hS .i32 .va (.imm 9)) (vec 5 (fun i => BitVec.ofNat 32 i)) (fun t => quad t 0 9 2 9) ∧
    goes (.vperm hS (.imm 33)) (vec 3 (fun i => BitVec.ofNat 32 (7 * i))) (fun t => quad t 7 7 14 21) ∧
    goes (.vredmax hS .i32 .va) (vec 7 (fun i => BitVec.ofNat 32 (2 ^ 32 - 1 - i))) (fun t => t.me.a == 0xFFFFFFFFFFFFFFFF && t.me.f == { n := true }) ∧
    goes (.vredmin hS .ui32 .va) (vec 0 (fun _ => 1)) (fun t => t.me.a == 0xFFFFFFFF) ∧
    goes (.vredmax hS .f32 .va) (vec 0 (fun _ => 1)) (fun t => t.me.a == 0x7FC00000 && t.me.f == { v := true }) ∧
    goes (.vxsum hS .i32 .va false 0) (vec 0xFFFFFFFF (fun _ => 0x80000000)) (fun t => t.me.a == 0xFFFFFFF000000000) ∧
    goes (.vxsum hS .f32 .va false 0xFFFC) (vec 7 (fun i => if i = 0 then 0x3F800000 else 0x3E000000)) (fun t => t.me.a == 0x3FA00000) ∧
    goes (.vxsum hS .f32 .va true 0xFFFC) (vec 1 (fun _ => 0x3F800000)) (fun t => t.me.a == 16) := by
  decide +kernel

/-- R141 (with its PB4 record), R142, R143: widening, narrowing, a misaligned gather, a scatter to one address. -/
theorem test_vector_memory :
    goes (.vld hM (.pb 3) plain (.mem 0 .ind) 0) (put 0x100 0x01E600000081 6 s1) (fun t => quad t 0x40400000 0xBF800000 0x3F000000 0) ∧
    goes (.vld hS .i8 plain (.mem 0 .postInc) 0) (put 0x100 0x7F80 2 (vec 2 (fun _ => 5)))
      (fun t => quad t 5 0x7F 5 5 && t.me.ptr 0 == sp 0x120) ∧
    goes (.vst hS .bf16 plain (.mem 0 .ind) false) (put 0x100 0xAAAAAAAA 4 (vec 2 (fun _ => 0x3F808000))) (fun t => got t 0x100 4 == 0x3F80AAAA) ∧
    goes (.vst hS .f4 plain (.mem 0 .ind) false) (put 0x100 0x5A 1 (vec 2 (fun _ => 0x3F800000))) (fun t => got t 0x100 1 == 0x2A) ∧
    goes (.vldx hS .ui16 0 0) (put 0xFE 0x1234 2 (vec 1 (fun _ => 0xFFFFFFFF))) (fun t => quad t 0x1234 0xFFFFFFFF 0xFFFFFFFF 0xFFFFFFFF) ∧
    goes (.vldx hS .i32 0 0) (me (fun t => { t with ptrs := t.ptrs.set 0 (sp 0x102) })) (traps 0x0C0) ∧
    goes (.vstx hS .ui8 0 (.imm 7)) (vec 3 (fun _ => 3)) (fun t => got t 0x102 3 == 0x0700) ∧
    goes (.vbc hS .f16 .a) (vec 1 (fun _ => 1) |>.modThr 0 (fun t => { t with a := 0x3C00 })) (fun t => quad t 0x3F800000 1 1 1) := by
  decide +kernel

/-! ### Storage and ordering (R161 to R213) -/

/-- The page's first line, with two valid bytes in the near cache, the first of them dirty. -/
def nearDirty (s : State) : State := s.modClus 0 (fun c => { c with near := [(0x800, { data := 0x5A, valid := 3, dirty := 1 })] })

/-- R175 to R183. -/
theorem test_storage :
    goes (.pf hS .l1 (.bytes 4 .postInc (.nb 300))) s1 (fun t => (t.core 0).prefetch.map (·.va) == [0x10000, 0x10080, 0x10100] && t.me.ptr 4 == 0x1012C) ∧
    goes (.prefetchLineLookup 0) (s1.modCore 0 (fun c => { c with prefetch := [⟨1, 0x10080, .l1⟩] }))
      (fun t => (t.core 0).prefetch.isEmpty && thas (t.core 0).l1 0x801) ∧
    goes (.inv hS .nc .all) (nearDirty s1) (fun t => memGet t.mem 0x40000 == 0x5A && (t.clus 0).near == []) ∧
    goes (.wbk hS .nc .all) (nearDirty s1) (fun t => memGet t.mem 0x40000 == 0x5A && (t.near 0 0x800).dirty == 0 && (t.near 0 0x800).valid == 3) ∧
    goes (.tlbinv hS (.bytes 4 .ind (.nb 1))) s1 (fun t => (t.clus 0).tlb == []) ∧
    goes (.bank hS 1 (.imm 1 6) false) s1 (fun t => (t.me.handle 1).st == .pending && (t.bank 0 6).queue.length == 1) ∧
    goes (.bankSwitchComplete 0 6) (s1.setBank 0 6 { group := some 1, queue := [⟨.sp, true, some (0, 1, 0), []⟩] })
      (fun t => (t.bank 0 6).mode == .sp && (t.bank 0 6).queue == []) ∧
    goes (.bankq .always (.imm 2)) s1 (fun t => t.me.a == 0x38006 && t.me.f == {}) ∧
    goes (.bankq .always (.imm 3)) s1 (fun t => t.me.a == 0x30000 && t.me.f == { z := true }) ∧
    goes (.lda hS .i32 plain (.mem 4 .ind) 0) (s1.modClus 0 (fun c => { c with tlb := [] }))
      (fun t => t.me.wait == .walk && (t.clus 0).misses.map (·.key) == [1]) ∧
    goes (.walkStart 0 0) (s1.modClus 0 (fun c => { c with misses := [{ root := 0, key := 1, threads := [0] }] }))
      (fun t => (t.pkg 0).walks == [⟨0, 0, 1⟩] && (t.clus 0).misses.all (·.started)) ∧
    goes (.walkComplete 0 0 1) ((me (fun t => { t with wait := .walk })).modClus 0 (fun c => { c with misses := [{ root := 0, key := 1, threads := [0], started := true }] }))
      (fun t => (t.clus 0).misses == [] && t.me.walked == some (1, .fault 0x100) && t.me.wait == .ready) := by
  decide +kernel

/-- R206 to R213. -/
theorem test_atomics :
    goes (.amoAdd hS .i32 plain (.mem 0 .ind) (.imm 1)) (put 0x100 0xFFFFFFFF 4 s1)
      (fun t => t.me.a == 0xFFFFFFFFFFFFFFFF && got t 0x100 4 == 0 && t.me.f == { n := true }) ∧
    goes (.amoAnd hS .ui8 plain (.mem 0 .ind) (.imm 0xF0)) (put 0x100 0x3C 1 s1) (fun t => t.me.a == 0x3C && got t 0x100 1 == 0x30) ∧
    goes (.amoOr hS .ui8 plain (.mem 0 .ind) (.imm 0xF0)) (put 0x100 0x3C 1 s1) (fun t => got t 0x100 1 == 0xFC) ∧
    goes (.amoXor hS .ui8 plain (.mem 0 .ind) (.imm 0xF0)) (put 0x100 0x3C 1 s1) (fun t => got t 0x100 1 == 0xCC) ∧
    goes (.amoMin hS .i8 plain (.mem 0 .ind) (.imm 1)) (put 0x100 0xFF 1 s1) (fun t => got t 0x100 1 == 0xFF) ∧
    goes (.amoMax hS .ui8 plain (.mem 0 .ind) (.imm 1)) (put 0x100 0xFF 1 s1) (fun t => got t 0x100 1 == 0xFF) ∧
    goes (.amoMin hS .ui8 plain (.mem 0 .ind) (.imm 1)) (put 0x100 0xFF 1 s1) (fun t => got t 0x100 1 == 1) ∧
    goes (.amoSwap hS .ui16 plain (.mem 0 .ind) .a) (put 0x100 7 2 (acc 0x12345)) (fun t => t.me.a == 7 && got t 0x100 3 == 0x2345) ∧
    goes (.uadd hS .ui32 (.mem 4 .ind) (.imm 3)) s1 (fun t => (t.core 0).upd == [(0x800, [⟨0, 4, 3⟩])] && t.holders == [(0x800, [0])] && t.mem == []) ∧
    goes (.cas64 hM plain (.mem 0 .ind) (.imm 9)) (put 0x100 5 8 (acc 5)) (fun t => t.me.a == 5 && got t 0x100 8 == 9 && t.me.f == { p := true, z := true }) ∧
    goes (.cas64 hM plain (.mem 0 .ind) (.imm 9)) (put 0x100 6 8 (acc 5)) (fun t => t.me.a == 6 && got t 0x100 8 == 6 && t.me.f == {}) ∧
    goes (.cas128 hM plain (.mem 0 .ind)) (vec 0 (fun i => BitVec.ofNat 32 (i / 4)) |> put 0x100 0 16)
      (fun t => t.me.f.p && got t 0x100 16 == 0x00000001000000010000000100000001 && lane t.me.va 4 == 1) ∧
    goes (.cas128 hM plain (.mem 0 .preDec)) (me (fun t => { t with ptrs := t.ptrs.set 0 (sp 0x108) })) (traps 0x0C3) ∧
    goes (.amoNib hS plain (.mem 0 .ind) (.imm 0x1A)) (put 0x100 0x3C 1 s1) (fun t => t.me.a == 0x3C && got t 0x100 1 == 0xAC) ∧
    goes (.ldq hS plain (.mem 0 .postInc)) (put 0x100 0x44444444333333332222222211111111 16 (vec 0 (fun _ => 9)))
      (fun t => quad t 0x11111111 0x22222222 0x33333333 0x44444444 && lane t.me.va 4 == 9 && t.me.ptr 0 == sp 0x110) ∧
    goes (.stq hS plain (.mem 0 .ind)) (vec 0 (fun i => BitVec.ofNat 32 i)) (fun t => got t 0x100 16 == 0x00000003000000020000000100000000) ∧
    goes (.fence .always ⟨.ar, .pk⟩) (nearDirty s1) (fun t => memGet t.mem 0x40000 == 0x5A && (t.clus 0).near == [] && t.me.pc == 0x1000C) ∧
    goes (.ifence .always) (s1.modCore 0 (fun c => { c with codeLines := [1] })) (fun t => (t.core 0).codeLines == []) := by
  decide +kernel

/-- A write of 7 to the page's first byte, under way. -/
def w7 : Msg := { thread := some 0, loc := 0x40000, va := 0x10000, op := .write [7], near := true }

/-- R187 to R203: the steps of the reference machine. -/
theorem test_reference_machine :
    goes (.l1Drop 0 5) (s1.modCore 0 (fun c => { c with l1 := [(5, 0), (6, 0)] })) (fun t => (t.core 0).l1.map (·.1) == [6]) ∧
    goes (.nearCacheAccept 0) (s1.modCore 0 (fun c => { c with path := [w7] })) (fun t => (t.core 0).path == [] && (t.near 0 0x800).dirty == 1) ∧
    goes (.nearCacheRead 0) (((nearDirty s1).modCore 0 (fun c => { c with path := [{ w7 with op := .read 1, reply := some 0 }] })).modThr 0 (fun t => { t with got := [none] }))
      (fun t => t.me.got == [some [0x5A]]) ∧
    goes (.nearCacheWriteback 0 0x800) (nearDirty s1) (fun t => t.mem == [] && (t.chan (.near 0) (t.homeOf 0x40000)).length == 1) ∧
    goes (.nearCacheDrop 0 0x40001) (nearDirty s1) (fun t => (t.near 0 0x800).valid == 1) ∧
    goes (.send (.core 0)) (s1.modCore 0 (fun c => { c with path := [{ w7 with near := false }] })) (fun t => (t.core 0).path == [] && t.chans.length == 1) ∧
    goes (.deliver (.core 0) (s1.homeOf 0x40000)) (s1.setChan (.core 0) (s1.homeOf 0x40000) [w7]) (fun t => memGet t.mem 0x40000 == 7 && t.chans == []) ∧
    goes (.strip (.core 0) (s1.homeOf 0x40080)) (s1.setChan (.core 0) (s1.homeOf 0x40080) [{ w7 with loc := 0x40080, rel := some .cl }])
      (fun t => t.chan (.core 0) (s1.homeOf 0x40080) == [{ w7 with loc := 0x40080 }] && (t.grp 1).smiss == 1) ∧
    goes (.merge 0 0x800) { s1.modCore 0 (fun c => { c with upd := [(0x800, [⟨0, 4, 3⟩, ⟨0, 4, 4⟩])] }) with holders := [(0x800, [0])] }
      (fun t => memGet t.mem 0x40000 == 7 && t.holders == [] && (t.core 0).upd == []) := by
  decide +kernel

/-! ### Witnesses: for each statement, states and operands that meet the hypotheses of each clause

`runs m s k` says that m ends in s (`runs_does`); what k then asks of the value and the state are the clause's other
hypotheses. -/

/-- The two values of `operands`, where `.th` does not skip. -/
def both {α β : Type} (k : α → β → State → Bool) : Option (α × β) → State → Bool
  | some (x, y), u => k x y u
  | none, _ => false

/-- `ReadsTwo` is met, with values that k accepts. -/
def readsTwo (h : Hdr) (ty : Ty) (dst src : Opnd) (s : State) (k : Dest → Word → Word → State → Bool) : Bool :=
  predHolds h.pred s.me.f &&
  runs (operands h.pred (specStep dst (tyBytes ty) (tyBytes ty))
    (do
      let d ← openDest dst (tyBytes ty) ⟨true, true⟩ false opA
      let x ← readDest d (tyBytes ty) opA
      pure (d, x))
    (readSrc src (tyBytes ty) opB) ty) s.issued (both (fun dx y u => k dx.1 dx.2 y u))

theorem readsTwo_reads {h : Hdr} {ty : Ty} {dst src : Opnd} {s : State} {k : Dest → Word → Word → State → Bool}
    (w : readsTwo h ty dst src s k = true) :
    s.lets h.pred ∧ ∃ d x y u, ReadsTwo h ty dst src s d x y u ∧ k d x y u = true := by
  simp only [readsTwo, Bool.and_eq_true] at w
  obtain ⟨v, t, h1, h2⟩ := runs_does w.2
  cases v with
  | none => cases h2
  | some p => exact ⟨w.1, _, _, _, _, h1, h2⟩

/-- `ReadsOne` is met. -/
def readsOne (h : Hdr) (ty sty : Ty) (dst src : Opnd) (s : State) (k : Dest → Word → State → Bool) : Bool :=
  predHolds h.pred s.me.f &&
  runs (operands h.pred (specStep dst (tyBytes ty) (tyBytes ty)) (openDest dst (tyBytes ty) ⟨false, true⟩ false opA)
    (readSrc src (tyBytes sty) opB) sty) s.issued (both k)

theorem readsOne_reads {h : Hdr} {ty sty : Ty} {dst src : Opnd} {s : State} {k : Dest → Word → State → Bool}
    (w : readsOne h ty sty dst src s k = true) : s.lets h.pred ∧ ∃ d y u, ReadsOne h ty sty dst src s d y u ∧ k d y u = true := by
  simp only [readsOne, Bool.and_eq_true] at w
  obtain ⟨v, t, h1, h2⟩ := runs_does w.2
  cases v with
  | none => cases h2
  | some p => exact ⟨w.1, _, _, _, h1, h2⟩

/-- `ReadsBoth` is met. -/
def readsBoth (h : Hdr) (ty : Ty) (o1 o2 : Opnd) (s : State) (k : Word → Word → State → Bool) : Bool :=
  predHolds h.pred s.me.f &&
  runs (operands h.pred (specStep o1 (tyBytes ty) (tyBytes ty)) (readSrc o1 (tyBytes ty) opA)
    (readSrc o2 (tyBytes ty) opB) ty) s.issued (both k)

theorem readsBoth_reads {h : Hdr} {ty : Ty} {o1 o2 : Opnd} {s : State} {k : Word → Word → State → Bool}
    (w : readsBoth h ty o1 o2 s k = true) : s.lets h.pred ∧ ∃ x y u, ReadsBoth h ty o1 o2 s x y u ∧ k x y u = true := by
  simp only [readsBoth, Bool.and_eq_true] at w
  obtain ⟨v, t, h1, h2⟩ := runs_does w.2
  cases v with
  | none => cases h2
  | some p => exact ⟨w.1, _, _, _, h1, h2⟩

/-- The executing thread is outside running tows. -/
def alone (s : State) : Bool := (s.towOf s.cur).isNone
def yes {α : Type} (_ : α) (_ : State) : Bool := true
/-- A store of a result into d ends. -/
def writes (d : Dest) (ty : Ty) (r : Nat) (u : State) : Bool := runs (writeDest d ty r opA) u yes

theorem witness_IntegerTwoOperandResults :
    readsTwo hS .i32 (.mem 0 .ind) (.imm 3) s1 (fun d _ y u => writes d .i32 5 u && lowOf .i32 y != 0) ∧
    readsTwo hM .ui64 (.mem 0 (.disp 8)) (.mem 4 .postInc) s1 (fun d _ y u => writes d .ui64 5 u && lowOf .ui64 y == 0) ∧
    readsTwo ⟨.S, .own⟩ .i8 .a (.imm 0xFF) (me (fun t => { t with a := 0x80, f := { p := true } }))
      (fun d x y u => writes d .i8 0 u && tval .i8 (lowOf .i8 x) == -128 && tval .i8 (lowOf .i8 y) == -1) := by
  decide +kernel

theorem witness_IntegerOneOperandResults :
    readsOne hS .i16 .i16 (.mem 1 .preDec) (.mem 0 .postInc) s1 (fun d _ u => writes d .i16 1 u) ∧
    readsOne hS .ui64 .ui64 .a (.imm 0x8000000000000000) s1 (fun d y u => writes d .ui64 1 u && y == 0x8000000000000000) := by
  decide +kernel

theorem witness_CompareSelectExtendResults :
    readsBoth hS .i32 .a (.mem 0 .ind) s1 (fun x y u => x == y && alone u) ∧
    readsBoth hS .i32 .a (.imm 1) (acc 0xFFFFFFFF) (fun x _ u => sval 32 (lowOf .i32 x) == -1 && alone u) ∧
    runs (readSrc (.mem 0 .postInc) 2 opA) s1.issued yes ∧
    (List.range 10).all (fun c => goes (.cmp hS .i32 (BitVec.ofNat 4 c) .a (.imm 1)) (acc 0xFFFFFFFF)
      (fun t => t.me.f.p == [1, 2, 4, 7, 9].contains c)) := by
  decide +kernel

theorem witness_LoadAndStoreAccumulator :
    runs (readWin (.mem 0 .ind) 4 (windowOk .i32) plain opB) s1.issued (fun v _ => v.2 == none) ∧
    runs (readWin (.mem 0 .ind) 8 (windowOk .ui64) plain opB)
      ((me (fun t => { t with ptrs := t.ptrs.set 0 0xA0000000001000 })).setPort 0 1 { group := some 1, entries := [{ val := 7 }] }).issued
      (fun v u => v == (7, some 1) && runs (freeHead 1) (u.withA 7) yes) ∧
    runs (readWin (.mem 0 .ind) 4 (windowOk .f32) plain opB) (put 0x100 0x3F800000 4 s1).issued
      (fun v u => !belowTh (u.threshold u.myGrp) .f32 (lowOf .f32 v.1)) ∧
    runs (operands Pred.always (specStep (.mem 1 .ind) 4 4) (openDest (.mem 1 .ind) 4 ⟨false, true⟩ (windowOk .i32) opA)
      (readSrc .a 4 opB) .i32) s1.issued
      (both (fun d y u => match d with
        | .mem loc uc x => runs (storeQ ⟨.rel, .cl⟩ loc uc x (leBytes (lowOf .i32 y) 4) 0 opA) u yes
        | _ => false)) ∧
    runs (operands Pred.always (specStep (.mem 0 .ind) 8 8) (openDest (.mem 0 .ind) 8 ⟨false, true⟩ (windowOk .ui64) opA)
      (readSrc .a 8 opB) .ui64) (me (fun t => { t with ptrs := t.ptrs.set 0 0xA0000000004008 })).issued
      (both (fun d _ u => d == .sysreg 1 0xA0000000004008 && runs (do relPart plain; writeDest d .ui64 3 opA) u yes)) := by
  decide +kernel

theorem witness_FloatResults :
    readsTwo hS .f32 .a (.mem 0 .ind) s1 (fun d _ _ u => writes d .f32 0x7FC00000 u) ∧
    readsTwo hS .f64 (.mem 0 .ind) .a s1 (fun d _ _ u => writes d .f64 1 u) ∧
    readsOne hS .bf16 .bf16 (.mem 0 .ind) (.ptr 4) s1 (fun d _ u => writes d .bf16 1 u) ∧
    readsBoth hS .f16 .a (.mem 0 .ind) s1 (fun _ _ _ => true) := by
  decide +kernel

theorem witness_FloatCompareAndConvert :
    readsBoth hS .f32 .a (.mem 0 .ind) (acc 0x7F800001) (fun x _ _ => ((Fmt.ofTy .f32).decode (lowOf .f32 x)).sNan) ∧
    readsOne hS .i8 .f64 (.mem 1 .ind) (.mem 0 .ind) s1 (fun d _ u => writes d .i8 1 u) ∧
    readsOne hS .f8e4 .i64 .a .a s1 (fun d _ u => writes d .f8e4 1 u) := by
  decide +kernel

theorem witness_PointerResults :
    runs (readWin (.mem 0 .ind) 8 true ⟨.plain, .co⟩ opB) s1.issued (fun v _ => v.2 == none) ∧
    runs (openDest (.mem 4 .ind) 8 ⟨false, true⟩ true opA) s1.issued (fun d u => writes d .ui64 (u.me.ptr 3).toNat u) ∧
    runs (readSrc (.mem 0 .postInc) 8 opB) s1.issued yes ∧ predHolds .nown s1.me.f := by
  decide +kernel

theorem witness_CompletionGoesOn : alone s1 ∧ (s1.complete 8 none).me.pc = 0x10008 ∧
    ((me (fun t => { t with pc := 0x10014 })).complete 8 none).me.pc = 0x10020 := by
  decide +kernel

theorem witness_OperandForms :
    runs (specAddr 3 .postStride 4 4) s1 (fun x _ => x == 0x80000000000400) ∧
    runs (specAddr 0 (.disp 2) 4 4) s1 (fun x _ => x.toNat % 4 != 0) := by
  decide +kernel

/-- sys.th of a full list of one pair. -/
def thresholded : State :=
  { s1 with
    groups := s1.groups.map (fun e => (e.1, { e.2 with thsel := 0x800 }))
    clusters := s1.clusters.map (fun e => (e.1, { e.2 with tiles := [(0, { group := some 1, rows := [(0, { ranked := true, logk := 0, pairs := [(0xFFFFFFFF, 0)] })] })] })) }

theorem witness_Predicates : predHolds .own s1.me.f = false ∧ predHolds .nown (me (fun t => { t with f := { p := true } })).me.f = false ∧
    runs (do
      let d ← openDest (.mem 0 .ind) 4 ⟨true, true⟩ false opA
      let x ← readDest d 4 opA
      let y ← readSrc (.mem 1 .ind) 4 opB
      pure (d, x, y) : Exec (Dest × Word × Word)) s1.issued
      (fun v u => !belowTh (u.threshold u.myGrp) .f32 (lowOf .f32 v.2.2)) ∧
    runs (do
      let d ← openDest .a 4 ⟨true, true⟩ false opA
      let x ← readDest d 4 opA
      let y ← readSrc (.mem 1 .ind) 4 opB
      pure (d, x, y) : Exec (Dest × Word × Word)) thresholded.issued
      (fun v u => belowTh (u.threshold u.myGrp) .f32 (lowOf .f32 v.2.2) && decide (u.me.got.length ≤ u.cursor) &&
        (u.thSeen u.myGrp u.cur).all (fun w => belowTh w .f32 (lowOf .f32 v.2.2))) ∧
    runs (do
      let d ← openDest .a 4 ⟨true, true⟩ false opA
      let x ← readDest d 4 opA
      let y ← readSrc (.mem 1 .ind) 4 opB
      pure (d, x, y) : Exec (Dest × Word × Word)) (thresholded.modGrp 1 (fun g => { g with thLog := [{ time := thresholded.now, who := some 1, eff := .select 0 0x800 }] })).issued
      (fun v u => belowTh (u.threshold u.myGrp) .f32 (lowOf .f32 v.2.2) && decide (u.me.got.length ≤ u.cursor) &&
        (u.thSeen u.myGrp u.cur).any (fun w => !belowTh w .f32 (lowOf .f32 v.2.2))) := by
  decide +kernel

/-- Code at 0x10000 with instructions at its first two places. -/
def coded : State := { s1 with codeMaps := [{ root := 0, va := 0x10000, size := 16, frame := 0x50000, first := 0, starts := [0, 2] }] }

theorem witness_ControlTransfers :
    (alone s1 && predHolds .always s1.me.f && !s1.abortSet 0 && s1.startOk 1 0xFFF8 && decide (s1.me.lc.toNat ≤ 1)) ∧
    decide (1 < (me (fun t => { t with lc := 2 })).me.lc.toNat) ∧
    (!coded.startOk 1 0x10004 && coded.startOk 1 0x10008 && !coded.startOk 1 (ptrAddr (coded.me.ptr 5))) ∧
    runs (locate (ptrAddr (s1.me.ptr 7) - 8) 8 ⟨false, true⟩ opA) s1.issued (fun l u1 =>
      runs (callTarget (.mem 0 .ind)) u1 (fun d u2 => !u2.following && u2.startOk u2.myGrp d &&
        runs (storeAt l.1 l.2 (ptrAddr (s1.me.ptr 7) - 8) (leBytes 0x10008 8) opA) u2 yes)) ∧
    runs (readSrc (.mem 7 .postInc) 8 opA) s1.issued (fun v u => !u.following && u.startOk u.myGrp (v.setWidth 56)) ∧
    runs (readSrc (.mem 0 .ind) 8 opA) s1.issued (fun v u => !u.following && u.startOk u.myGrp (v.setWidth 56)) ∧
    (let s := coded.modThr 0 (fun t => { t with trap := { t.trap with h := true, epc := 0x10004 } })
     s.me.trap.h && !s.startOk 1 (s.me.trap.epc.setWidth 56)) := by
  decide +kernel

/-- The tow of thread 0 with the follower 16; a trap has frozen it, where `frozen` says so, after the follower had completed the
faulting instruction. -/
def towed (frozen : Option Addr) : State :=
  { s1.modThr 16 (fun t => { t with wait := .moored 8 0 0 0 0, a := 5 }) with
    tows := [{ tug := 0, followers := [16], running := true, frozen := frozen, done := if frozen.isSome then [16] else [], next := some 0x10200 }] }

/-- R73, R74. -/
theorem test_cast :
    goes .cast (towed none) (fun t => t.tows == [] && t.me.pc == 0x10008 && (t.thr 16).pc == 0x10008 && (t.thr 16).wait == .ready && (t.thr 16).a == 5) ∧
    goes .cast (towed (some 0x10100)) (fun t => t.tows == [] && t.me.pc == 0x10008 && (t.thr 16).pc == 0x10200 && (t.thr 16).wait == .ready) ∧
    goes .cast { towed none with cur := 16 } (fun t => t.tows.length == 1) := by
  decide +kernel

theorem witness_ThreadInstructions :
    ((towed none).towOf 0 = (towed none).tows.head? ∧ (towed none).towOf 16 = (towed none).tows.head? ∧ (towed (some 0x10100)).towOf 0 ≠ none ∧
      (towed (some 0x10100)).tows.all (fun w => !w.followers.contains 0 && w.tug == 0)) ∧
    (alone s1 && slotOf s1.cur == 0 && decide (s1.myCore % 16 + 15 ≤ 15) && s1.tows.all (fun w => !w.followers.contains s1.cur)) ∧
    (let s := s0.modThr 16 (fun t => { t with wait := .moored 8 0 0 0 0, sent := some none })
     alone s && (s.thr 16).live && (s.thr 16).group == s.me.group && s.boarded 16) := by
  decide +kernel

/-- s with port 0 allotted. -/
def ported (es : List PortEntry) : State := s1.setPort 0 0 { group := some 1, entries := es }

theorem witness_QueueInstructions :
    runs (reserveTail 0 none 0) (ported []).issued (fun _ u1 => runs (readSrc (.mem 0 .ind) 4 opA) u1 (fun v u2 =>
      runs (fillTail 0 (extendTo .i32 (lowOf .i32 v))) u2 yes)) ∧
    runs (reserveHead 0 none 0) (ported [{ val := 7 }]).issued (fun v u1 => runs (openDest (.mem 0 .ind) 4 ⟨false, true⟩ false opA) u1
      (fun d u2 => runs (writeDest d .i32 (lowOf .i32 v) opA) u2 (fun _ u3 => runs (freeHead 0) u3 yes))) ∧
    (s1.port 0 0).group ≠ s1.me.group ∧
    (let s := (ported []).setBank 0 6 { mode := .fifo, group := some 1 }
     (s.port 0 0).link == none && (s.bank 0 6).mode == .fifo && (s.bank 0 6).group == s.me.group && (s.bank 0 6).port == none) ∧
    (let s := ported (List.replicate 7 { val := 1 })
     !s.inFlight s.cur && decide ((s.port 0 0).entries.length < (s.port 0 0).depth)) := by
  decide +kernel

theorem witness_ForkAndJoin :
    (runs (counterAt 1) (put 0x200 7 4 s1).issued (fun l u => u.me.got == [] && !u.inFlight u.cur && u.clear u.myCore (u.homeOf l.1) && isBank l.1 &&
      u.readError l.1 4 == none && u.landings == [] && !u.locked l.1) ∧ Memory.wf (put 0x200 7 4 s1).mem ∧ s1.startOk s1.myGrp 0x10040) ∧
    runs (counterAt 1) s1.issued (fun l u1 => decide ((u1.core u1.myCore).deque.length < 64) &&
      runs (releaseSteps .cl) u1 (fun _ u2 => runs (access { loc := l.1, va := l.2, op := .rmw .add (leBytes 1 4), rel := some .cl, kind := 1 } opA) u2 yes)) ∧
    runs (counterAt 1) (s1.modCore 0 (fun c => { c with deque := List.replicate 64 ⟨1, 0, 0, 0, 0, .replicate 8 0⟩ })).issued
      (fun _ u1 => (u1.core u1.myCore).deque.length == 64) ∧
    [1, 2].all (fun n => runs (counterAt 1) (put 0x200 n 4 s1).issued (fun l u1 => runs (releaseSteps .cl) u1 (fun _ u2 =>
      runs (access { loc := l.1, va := l.2, op := .rmw .add (leBytes (2 ^ 32 - 1) 4), rel := some .cl, kind := 1 } opA) { u2 with eager := true }
        (fun old u3 => leVal old == n && u2.startOk u2.myGrp 0x10040 && runs (acquireSteps .cl) u3 yes)))) := by
  decide +kernel

theorem witness_TrapEntry :
    (s1.towOf 0).isNone ∧ (s1.thr 0).trap.h = false ∧ (s1.man 1 1).extractLsb' 0 56 ≠ 0 ∧
    (me (fun t => { t with trap := { t.trap with h := true } })).me.trap.h = true ∧
    ((s1.modGrid 9 (fun g => { g with man := [] })).man 1 1).extractLsb' 0 56 = 0 := by
  decide +kernel

theorem witness_TrapAndReturn :
    (s1.me.trap.h = false) ∧
    (let s := me (fun t => { t with trap := { t.trap with h := true, epc := 0x10040 } })
     alone s && s.me.trap.h && s.startOk s.myGrp (s.me.trap.epc.setWidth 56)) ∧
    (let s := coded.modThr 0 (fun t => { t with trap := { t.trap with h := true, epc := 0x10040 } })
     alone s && s.me.trap.h && !s.startOk s.myGrp (s.me.trap.epc.setWidth 56)) ∧
    coded.startOk ((coded.thr 0).group.getD 0) 0x10008 = true ∧
    goes (.trap .always 2) s1 (fun t => t.me.trap.cause == 0xBF2 && t.me.pc == 0x20000 && t.me.trap.epc == 0x10008 && t.me.ptr 7 == 0x30000 &&
      goes (.eret .always) t (fun u => u.me.pc == 0x10008 && u.me.ptrs == s1.me.ptrs && !u.me.trap.h)) := by
  decide +kernel

theorem witness_SystemRegisterAccess :
    runs (openDest (.mem 0 .ind) 8 ⟨false, true⟩ false opA) s1.issued (fun d u => match u.readSys 0x001 with
      | some v => writes d .ui64 v.toNat u
      | none => false) ∧
    runs (readSrc (.mem 0 .ind) 8 opA) s1.issued (fun v u => v.getLsbD 11 == false && u.me.trap.h == false) ∧
    runs (readSrc (.ptr 0) 8 opA) (me (fun t => { t with ptrs := t.ptrs.set 0 0x900, trap := { t.trap with h := true } })).issued
      (fun v u => !(u.grp u.myGrp).tiles.contains (v.extractLsb' 7 4).toNat && v.getLsbD 11 && u.me.trap.h) ∧
    goes (.wrsr .always 0x000 (.ptr 0)) (me (fun t => { t with ptrs := t.ptrs.set 0 0xFFF })) (fun u => u.readSys 0x000 == some 0x3F) ∧
    goes (.wrsr .always 0x018 .a) s1 (traps 0x0D1) ∧ goes (.rdsr .always .a 0x01A) s1 (traps 0x0D0) := by
  decide +kernel

/-- A thread's turn at the start of coded's page, which holds `add.i32 a, (p2)+`. -/
def fetching : State := { coded with agenda := [(0, .thread 0 true)], mem := memWrite [] 0x50000 (leBytes 0x911C109 8) }

/-- The 32 bytes of an instruction word of 8 and zeros. -/
def block8 (w : Nat) : List Byte := leBytes w 32

/-- R21: the bytes come from the buffer where it holds the block, else from the L1's code line, else from memory. -/
theorem witness_StepRunsDecodedInstruction :
    (let s0 := State.pass { fetching with agenda := [] } 0
     s0.canIssue 0 && (s0.codeAt 1 0x10000).isSome && s0.flaws == []) ∧
    steps fetching (fun t => t.me.pc == 0x10008 && t.me.ptr 2 == sp 0x304 && t.agenda == [] &&
      t.me.block == some (0x10000, block8 0x911C109) && (t.core 0).codeLines.map (·.1) == [lineOf 0x50000]) ∧
    steps ({ fetching with mem := [] }.modThr 0 (fun t => { t with block := some (0x10000, block8 0x911C109) }))
      (fun t => t.me.pc == 0x10008 && t.me.ptr 2 == sp 0x304 && (t.core 0).codeLines == []) ∧
    steps ({ fetching with mem := [] }.modCore 0 (fun c => { c with codeLines := [(lineOf 0x50000, 0x911C109)] }))
      (fun t => t.me.pc == 0x10008 && t.me.block == some (0x10000, block8 0x911C109)) := by
  decide +kernel

theorem witness_FetchOutcomes :
    (State.pass { fetching with codeMaps := [], agenda := [] } 0).canIssue 0 ∧
    steps { fetching with codeMaps := [] } (fun t => traps 0x107 t && t.me.trap.eaddr == 0x10000) ∧
    lineOf 0x5007F = lineOf (0x50000 + (0x10000 - 0x10000)) ∧
    steps { fetching with flaws := [0x5007F] } (fun t => t.me.trap.cause == 0xF81 && t.me.pc == 0x20000) ∧
    steps ({ fetching with flaws := [0x50000] }.modThr 0 (fun t => { t with block := some (0x10000, block8 0x911C109) }))
      (fun t => t.me.pc == 0x10008) ∧
    ((match step { fetching with mem := [] } with | .fault f => f == .nonInstruction 0 | _ => false) : Bool) ∧
    ((match step { fetching with mem := [], agenda := [] } with | .fault f => f == .nonInstruction 1 | _ => false) : Bool) := by
  decide +kernel

theorem witness_AcceptedBytesAreTheEncoding :
    ((match decode (bytesOfBits 0x911C109 8 ++ [1]) with | .ok r => r == (.add hS .i32 .a (.mem 2 .postInc), [1]) | .error _ => false) : Bool) ∧
    ((match decode (bytesOfBits 0x911C108 8) with | .ok _ => false | .error _ => true) : Bool) := by
  decide +kernel

theorem witness_EncodeThenDecode :
    (Instr.add hL .i64 (.mem 7 (.disp 0xFFFFFFFE00000000)) (.imm 0x8000000000000000)).wf ∧
    (Instr.bc hM 0xF true 0x200000000 0xFFFF).wf ∧ (Instr.vld hM (.pb 7) ⟨.acq, .pd⟩ (.mem 0 (.disp 0x1FFFFFFFF)) 1).wf ∧
    (Instr.mfPatch hM (.imm 0xFFF) 31 (.imm 0x3FFF)).wf := by
  decide

theorem witness_StepKeepsMemoryCanonical :
    Memory.wf fetching.mem ∧ Memory.wf fetching.hostMem ∧ steps fetching (fun t => Memory.wf t.mem) := by
  decide +kernel

theorem witness_MemoryReadAfterWrite :
    Memory.wf [(3, 1), (5, 2)] ∧ memWrite [(3, 1), (5, 2)] 4 [7, 0] = [(3, 1), (4, 7)] ∧ memClear [(3, 1), (4, 7)] 4 1 = [(3, 1)] := by
  decide +kernel

theorem witness_AccessEffects :
    (s1.me.got[s1.cursor]? = none) ∧
    runs (access { loc := bankLoc 0 4 0, va := 0, op := .read 4 } opA) s1 yes ∧
    runs (access { loc := bankLoc 0 4 0, va := 0, op := .rmw .add [1, 0] } opA) (put 0 0xFFFF 2 s1) (fun bs t => bs == [0xFF, 0xFF] && got t 0 2 == 0) ∧
    runs (access { loc := 0x4007F, va := 0x1007F, op := .write [5], near := true } opA) s1 yes ∧
    s1.hasWay s1.myClus ∧ thas (s1.core 0).upd (lineOf 0x4007F) = false ∧
    runs (access { loc := 0x40000, va := 0x10000, op := .write [5], near := true, posted := true } opA) { s1 with eager := false }
      (fun _ t => (t.core 0).path.length == 1) := by
  decide +kernel

theorem witness_VectorTwoOperandResults :
    predHolds .always s1.me.f ∧ (Ty.laneInt .ui32) ∧
    [0, 0xFFFFFFFF].all (fun m => [Opnd.va, .mem 0 .ind].all (fun o =>
      let s := vec m (fun _ => 1)
      runs (openVec o s.me.vm ⟨true, true⟩ opA) s.issued (fun d u1 => runs (readVDest d opA) u1 (fun _ u2 =>
        runs (vecSrc (.mem 1 .postInc) s.me.vm opB) u2 (fun _ u3 => runs (writeVDest d (fun _ => 7) opA) u3 yes))))) := by
  decide +kernel

theorem witness_VectorOneOperandResults :
    [Opnd.va, .mem 0 .ind].all (fun o =>
      runs (openVec o s1.me.vm ⟨false, true⟩ opA) s1.issued (fun d u1 => runs (vecSrc (.mem 1 .postStride) s1.me.vm opB) u1
        (fun _ u2 => runs (writeVDest d (fun _ => 7) opA) u2 yes))) := by
  decide +kernel

theorem witness_VectorMaskAndReductionResults :
    runs (vecSrc .va s1.me.vm opA) s1.issued (fun _ u1 => runs (vecSrc (.mem 0 .ind) s1.me.vm opB) u1 yes) ∧
    runs (vecSrc (.mem 0 .ind) 0xFFFFFFFF opA) (vec 0 (fun _ => 1)).issued (fun _ u1 => runs (vecSrc .a 0xFFFFFFFF opB) u1 yes) ∧
    runs (vecSrc (.mem 0 .ind) s1.me.vm opB) s1.issued (fun _ u => u.me.vm == s1.me.vm && u.me.va == s1.me.va) ∧
    activeLanes (vec 0 (fun _ => 1)).me.vm = [] ∧ activeLanes (0x80000001 : W32) = [0, 31] := by
  decide +kernel

theorem witness_VectorMemoryResults :
    runs (vecAddr 0 .ind .f16 opB) s1.issued (fun x u1 => runs (locateParts x ⟨true, false⟩ opB (vecParts .f16 s1.me.vm)) u1
      (fun ps u2 => runs (loadPieces plain opB ps) u2 (fun _ u3 => runs (acqPart ⟨.acq, .pd⟩) u3 yes))) ∧
    (vec 0 (fun _ => 1)).me.vm = 0 ∧
    runs (vecAddr 1 .postInc (.pb 3) opA) s1.issued (fun x u1 => runs (locateParts x ⟨false, true⟩ opA (vecParts (.pb 3) 0xFFFFFFFF)) u1
      (fun ps u2 => runs (relOnce ⟨.rel, .cl⟩) u2 (fun _ u3 =>
        runs (storePieces ⟨.rel, .cl⟩ (narrowVec (.pb 3) (fun _ => .rne) s1.me).1 opA [] ps) u3 yes))) ∧
    (let s := vec 6 (fun _ => 0x3F800000)
     runs (vecAddr 0 .ind .f4 opA) s.issued (fun x u1 =>
      runs (locateBoth x opA (partBytes .f4 s.me.vm) (vecParts .f4 s.me.vm)) u1 (fun l a1 =>
      runs (loadPieces plain opA l.1) a1 (fun old u2 => runs (relOnce plain) u2 (fun _ u3 =>
      runs (storePieces plain ((narrowVec .f4 (fun _ => .rne) s.me).1 + keptNibbles s.me.vm old) opA [] l.2) u3 yes))))) ∧
    (let s := vec 0x80000001 (fun i => BitVec.ofNat 32 (2 * i))
     let xs := gatherAt (ptrAddr (s.me.ptr 0)) 2 s.me
     runs (alignAll 2 opB xs) s.issued (fun _ u1 => runs (locateLanes 2 ⟨true, false⟩ opB xs) u1 (fun ps u2 =>
       runs (loadPieces plain opB ps) u2 yes)) &&
     runs (alignAll 2 opA xs) s.issued (fun _ u1 => runs (locateLanes 2 ⟨false, true⟩ opA xs) u1 (fun ps u2 =>
       runs (vecSrc (.mem 1 .ind) s.me.vm opB) u2 (fun y u3 =>
         runs (storePieces plain (packLanes .i16 (fun _ => .rne) y (activeLanes s.me.vm)).1 opA [] ps) u3 yes)))) ∧
    runs (readSrc (.mem 0 .ind) 2 opB) s1.issued yes := by
  decide +kernel

theorem witness_FencesAndQuads :
    runs (relPart ⟨.ar, .pd⟩) s1.issued (fun _ u => runs (acqPart ⟨.ar, .pd⟩) u yes) ∧ s1.inFlight s1.cur = false ∧
    runs (quadAddr 0 .postInc opB) s1.issued (fun x u1 => runs (locate x 16 ⟨true, false⟩ opB) u1 (fun l u2 =>
      runs (loadAt ⟨.acq, .cl⟩ l.1 l.2 x 16 opB) u2 yes)) ∧
    runs (quadAddr 4 .ind opA) s1.issued (fun x u1 => runs (locate x 16 ⟨false, true⟩ opA) u1 (fun l u2 =>
      runs (storeQ ⟨.rel, .dm⟩ l.1 l.2 x (leBytes 5 16) 4 opA) u2 yes)) := by
  decide +kernel

theorem witness_AtomicResults :
    runs (target (.mem 0 .postInc) 4) s1.issued (fun l u1 => runs (readSrc (.mem 1 .ind) 4 opB) u1 (fun v u2 =>
      runs (atomicStep ⟨.ar, .pk⟩ l.1 l.2.2 .minS (leBytes v.toNat 4) 1) u2 yes && l.2.1 &&
      runs (access { loc := l.1, va := l.2.2, op := .rmw .add (leBytes v.toNat 4), posted := true } opA) u2 yes)) ∧
    runs (target (.mem 4 .ind) 4) s1.issued (fun l u1 => runs (readSrc .a 4 opB) u1 (fun v u2 =>
      !l.2.1 && !thas (u2.core u2.myCore).upd (lineOf l.1) && runs (access { loc := l.1, va := l.2.2, op := .claim ⟨0, 4, v⟩ } opA) u2 yes)) ∧
    runs (target (.mem 4 .ind) 4) (s1.modCore 0 (fun c => { c with upd := [(0x800, [])] })).issued (fun l u1 => runs (readSrc .a 4 opB) u1
      (fun _ u2 => !l.2.1 && thas (u2.core u2.myCore).upd (lineOf l.1) && u2.me.got == [] && !u2.linePending u2.cur (lineOf l.1))) ∧
    runs (target (.mem 0 .ind) 8) s1.issued (fun l u1 => runs (readSrc .a 8 opB) u1 (fun v u2 =>
      runs (atomicStep plain l.1 l.2.2 (.cas (leBytes 0 8)) (leBytes v.toNat 8) 2) u2 yes)) ∧
    runs (target (.mem 0 .ind) 16) s1.issued (fun l u =>
      runs (atomicStep plain l.1 l.2.2 (.cas (leBytes 0 16)) (leBytes 1 16) 3) u yes) ∧
    runs (target (.mem 0 .ind) 1) s1.issued (fun l u1 => runs (readSrc (.imm 0x1A) 1 opB) u1 (fun v u2 =>
      runs (atomicStep plain l.1 l.2.2 (.nib (v.getLsbD 4)) (leBytes v.toNat 1) 1) u2 (fun b _ => b.length == 1))) ∧
    (0 < 1 ∧ 255 < 2 ^ (8 * 1) ∧ 128 < 2 ^ (8 * 1)) := by
  decide +kernel

theorem witness_RangesAndTranslation :
    runs (rangeOf (.bytes 4 .postInc (.nb 300))) s1.issued (fun r u => r.2 == 300 && !u.inFlight u.cur && !u.writebacksOut u.myClus) ∧
    runs (rangeOf .all) s1.issued yes ∧
    (let p : PfLine := ⟨1, 0x10080, .l1⟩
     let s := s1.modCore 0 (fun c => { c with prefetch := [p] })
     (s.core 0).prefetch == [p] && !p.va.getLsbD 55 &&
     (match (s.clus 0).tlb.find? (fun l => l.covers (s.rootOf 1) p.va.toNat) with
       | some l => (match s.leafCheck l p.va.toNat 0 ⟨true, false⟩ with | .ok pa => pa == 0x40080 && !l.uc && !thas (s.core 0).upd (lineOf pa) | _ => false)
       | none => false)) ∧
    ((s1.clus 0).tlb.find? (fun l => l.covers (s1.rootOf 1) 0x30000) = none ∧ (s1.clus 0).misses.length < 512) ∧
    (let m : Miss := { root := 0, key := 3, threads := [0] }
     let s := s1.modClus 15 (fun c => { c with misses := [m] })
     15 / 16 == 0 * 4 + 0 && (s.clus 15).misses.contains m && !m.started && decide ((s.pkg 0).walks.length < 64)) ∧
    (let m : Miss := { root := 0, key := 3, threads := [0], started := true }
     let s := (me (fun t => { t with wait := .walk })).modClus 0 (fun c => { c with misses := [m] })
     (s.clus 0).misses.find? (fun m => m.root == 0 && m.key == 3 && m.started) == some m && s.me.wait == .walk && m.drops == []) := by
  decide +kernel

/-- Tables at 0x100000 to 0x104000, with a leaf for the page at 0x30000 in the last (R171, R172). -/
def walked : State :=
  let w (m : Memory) (a v : Nat) : Memory := memWrite m a (leBytes v 8)
  { s1 with
    roots := [(0, 0x100000)]
    mem := w (w (w (w (w [] 0x100000 0x101001) 0x101000 0x102001) 0x102000 0x103001) 0x103000 0x104001) 0x104018 0x7000F }

theorem test_walk : ((match walked.walk 0 0x30000 with
    | .leaf l => l.pa == 0x70000 && l.size == 16 && l.rd && l.wr && !l.ex
    | _ => false) : Bool) ∧ walked.walk 0 0x40000 = .fault 0x100 := by
  decide +kernel

theorem witness_BankSwitching :
    (s1.bank 0 6).group = s1.me.group ∧ (s1.bank 0 6).port = none ∧ (s1.bank 0 6).ring = none ∧ s1.bankArmed 0 6 = false ∧
    (s1.bank 0 7).group = none ∧
    ((s1.setBank 0 6 { group := some 1, port := some (0, 0) }).bank 0 6).port ≠ none ∧
    ((s1.setBank 0 6 { group := some 1, ring := some 2 }).bank 0 6).ring ≠ none ∧ (s1.grp 1).banks[2]? = some 6 ∧
    (let s := (me (fun t => t.setHandle 1 { st := .pending, seq := 5 })).setBank 0 5 { mode := .sp, group := some 1, queue := [⟨.nc, false, some (0, 1, 5), []⟩] }
     (s.bank 0 5).mode == .sp && (s.thr 0).group == some ((s.bank 0 5).group.getD 0) && (s.me.handle 1).seq == 5 &&
     (s.me.handle 1).st == .pending && (s.bank 0 5).port == none && (s.bank 0 5).queue.head?.any (fun q => !s.switchWaits 0 5 q)) := by
  decide +kernel

theorem witness_ReferenceMachineSteps :
    (w7.near ∧ s1.hasWay (clusterOf 0) ∧ w7.loc % 128 + 1 ≤ 128) ∧
    ((nearDirty s1).nearHolds 0 w7.loc 2 ∧ thas (s1.core 0).upd (lineOf w7.loc) = false ∧ (nearDirty s1).lineSent 0 { w7 with op := .read 2 } = false) ∧
    ((nearDirty s1).near 0 0x800).dirty ≠ 0 ∧ ((nearDirty s1).near 0 (lineOf 0x40001)).dirty.getLsbD (0x40001 % 128) = false ∧
    (let m : Msg := { w7 with near := false }
     (s1.modCore 0 (fun c => { c with path := [m] })).leaves 0 m) ∧
    (w7.near ∧ s1.lineSent 0 w7 = false) ∧
    (let m : Msg := { thread := some 0, loc := bankLoc 0 4 8, va := 0, op := .write [7], owner := some 1 }
     let s := s1.setChan (.core 0) (.bank 0 4) [m]
     s.chan (.core 0) (.bank 0 4) == [m] && !s.afterWriteback (.core 0) (.bank 0 4) m && isBank m.loc && !m.near && m.rel == none &&
       m.host.isNone && m.beat.isNone && s.homeError m == none && !s.locked m.loc && s.landings == [] && Memory.wf s.mem) ∧
    (let m : Msg := { thread := some 0, loc := bankLoc 0 4 8, va := 0, op := .read 4, reply := some 0, owner := some 1 }
     let s : State := { s1.setChan (.core 0) (.bank 0 4) [m] with flaws := [bankLoc 0 4 8] }
     s.homeError m == some 0x380 && !s.afterWriteback (.core 0) (.bank 0 4) m &&
       goes (.deliver (.core 0) (.bank 0 4)) s (fun t => t.me.err == some (0, 0x380) && t.chans == [])) ∧
    (let m : Msg := { beat := some ⟨0, 3, 1, 0, 0⟩, loc := bankLoc 0 4 8, op := .read 1 }
     goes (.send (.engine 0)) (s1.modClus 0 (fun c => { c with outbox := [m] })) (fun t => t.chan (.engine 0) (.bank 0 4) == [m] && (t.clus 0).outbox == [])) ∧
    s1.inScope .cl (clusterOf (coreOf 0)) (s1.homeOf 0x40080) = false ∧
    thas ((s1.modCore 0 (fun c => { c with upd := [(0x800, [])] })).core 0).upd 0x800 := by
  decide +kernel


/-! ### Rings and barriers (R289 to R303) -/

/-- N = 4, d = 2, pontoons of 4096 bytes, P = 2, 256 bytes per stage, from slot 0. -/
def parm : Word := 0x122001000100
/-- Ring 0 of the group, not initialised. -/
def ring0 : State := s1.setRing 0 2 (some 1, none)
/-- Ring 0 in stage s with c arrivals. -/
def ringIn (s : W32) (c : Nat) : State := (s1.setRing 0 2 (some 1, some { parm := parm, s := s, c := c })).setLandInfo (bankLoc 0 4 0x4000) (true, 0)
/-- The thread has moored at the instruction that it was at. -/
def moored (k : BitVec 4) (o : Nat) (v : W32) (t : State) : Bool :=
  t.me.pc == 0x10000 && (match t.me.wait with | .moored k' o' v' _ _ => k' == k && o' == o && v' == v | _ => false)
/-- B of the grid's pod barrier. -/
def podB (b : Word) (s : State) : State := s.setGrid 9 { s.grid 9 with man := [0, 0x20000, 0x40000, 0, 0, 0, 0, b] }
/-- The abort of the grid has reached the package; the entry is 0x40000. -/
def aborted (s : State) : State := s.setGrid 9 { (podB 2 s).grid 9 with reached := [0] }

theorem test_ring_init :
    goes (.ringInit hM 0 (.imm parm)) ring0 (fun t => (t.ring 0 2).2 == some { parm := parm } && got t 0x4000 16 == 2 ^ 127 + 0x100 &&
      (t.bank 0 4).ring == some 2 && (t.bank 0 5).ring == none && t.me.pc == 0x1000C) ∧
    goes (.ringInit hM 0 (.imm 0)) (ringIn 5 1) (fun t => (t.ring 0 2).2 == none) ∧
    goes (.ringInit hM 0 (.imm 0x124001000100)) ring0 (traps 0x312) ∧
    goes (.ringInit hM 0 (.imm (parm + 0x20000000000000))) ring0 (traps 0x312) ∧
    goes (.ringInit hM 1 (.imm parm)) ring0 (traps 0x311) ∧
    goes (.ringInit hM 0 (.imm parm)) ((ringIn 5 1).setLandInfo (bankLoc 0 4 0x4000) (true, 1)) (traps 0x313) := by
  decide +kernel

/-- R298, R294: an arrival for the next stage; the last arrival rotates where the landing word allows it; a wrap of b. -/
theorem test_ring_arrive :
    goes (.ringArrive .always 0 false) (ringIn 0 0) (fun t => moored 6 0 1 t && (t.ring 0 2).2 == some { parm := parm, c := 1 } && t.me.kept == some 1) ∧
    goes (.ringArrive .always 0 false) (ringIn 0xFFFFFFFF 1) (fun t => t.me.pc == 0x10008 && t.me.a == 0xFFFFFFFF &&
      (t.ring 0 2).2 == some { parm := parm, s := 0 }) ∧
    goes (.ringArrive .always 0 true) (put 0x4000 0x100 4 (ringIn 0 1)) (fun t => t.me.pc == 0x10008 && (t.ring 0 2).2 == some { parm := parm, c := 2 }) ∧
    goes (.ringArrive .always 0 true) (put 0x4000 0x100 4 (ringIn 0 2)) (fun t => t.me.a == 1) ∧
    goes (.ringArrive .always 0 true) (ringIn 0 0xFFFF) (traps 0x314) ∧
    goes (.ringStat .always 0) (ringIn 7 3) (fun t => t.me.a == 0x700030125 && t.me.f == {}) ∧
    goes (.ringStat .always 0) ring0 (fun t => t.me.a == 0 && t.me.f == { z := true }) := by
  decide +kernel

theorem witness_RingInstructions :
    runs (readSrc (.imm 0) 8 opB) (ringIn 5 1).issued (fun v u => v == 0 && (u.grp u.myGrp).rings[0]? == some 2 &&
      (u.grp u.myGrp).cluster == u.myClus && (match (u.ring 0 2).2 with | some x => !u.ringBusy 1 0 x | none => false)) ∧
    runs (readSrc (.mem 0 .ind) 8 opB) (put 0x100 0x122001000100 8 ring0).issued (fun v u => v == parm && parmOk v && u.ringRangeOk u.myGrp 2 v) ∧
    (parmOk 0x124001000100 = false ∧ ring0.ringRangeOk 1 2 0x20122001000100 = false) ∧
    ((ringIn 0 0).abortSet 0 = false ∧ (ringIn 0 0).inFlight 0 = false ∧ (ringIn 0 0).me.kept = none) ∧
    (reached 0 (0xFFFFFFFF + 1) ∧ reached 0 (0 + 1) = false) ∧ (ringIn 0 0).me.freed = false ∧
    runs sampleAbort (ringIn 0 0).issued yes ∧
    (let s := (ringIn 1 0).modThr 0 (fun t => { t with freed := true, kept := some 1 })
     s.me.freed && runs (acquireSteps .pk) s.issued yes) ∧ runs (acquireSteps .pk) (ringIn 0 2).issued yes ∧
    (let s := ringIn 0 0
     let a : Acc := { loc := bankLoc 0 4 0x300, va := 0x90060000000000, op := .write [7] }
     s.me.got[s.cursor]? == none && a.more == [] && s.writeAhead a.va == some (0, 3) && s.clear s.myCore (s.homeOf a.loc)) ∧
    (let m : Msg := { thread := some 0, loc := bankLoc 0 4 0x300, va := 0x90060000000000, op := .write [7] }
     let s := (ringIn 0 2).modThr 0 (fun t => { t with wait := .moored 7 0 3 0 0, pending := [m] })
     let v : Ring := { parm := parm, c := 2 }
     let u := s.setRing 0 2 (some 1, some (s.rotations 1 v 3))
     s.ring 0 2 == (some 1, some v) && (s.grp 1).st == .placed && s.rotations 1 v 3 == { parm := parm, s := 1 } &&
       (s.grp 1).rings.findIdx (· == 2) == 0 && u.heldWrites 1 0 == [.thread 0] && s.me.pending == [m] && m.rel == none && !m.near &&
       isBank m.loc && !s.locked m.loc && s.landings.all (fun e => decide (m.loc + 1 ≤ e.1)) && Memory.wf s.mem && got (s.rotate 0 2) 0x300 1 == 7) := by
  decide +kernel

/-- R300 to R302. -/
theorem test_barriers :
    goes (.barInit .always 0 (.imm 2)) (s1.setBar 0 3 { group := some 1, c := 5 }) (fun t => t.bar 0 3 == { group := some 1, count := 2, c := 1, phase := 2 }) ∧
    goes (.barInit .always 0 (.imm 0x10000)) s1 (traps 0x321) ∧
    goes (.barArrive .always 0) (s1.setBar 0 3 { group := some 1, count := 2, c := 1, phase := 0xFFFFFFFF })
      (fun t => t.bar 0 3 == { group := some 1, count := 2 } && t.me.a == 0xFFFFFFFF) ∧
    goes (.barArrive .always 0) (s1.setBar 0 3 { group := some 1, c := 0xFFFF }) (traps 0x314) ∧
    goes (.barArrive .always 1) s1 (traps 0x320) ∧
    goes (.barWait .always 0 (.imm 4)) (s1.setBar 0 3 { group := some 1, count := 2, phase := 5 }) (fun t => t.me.pc == 0x10008) ∧
    goes (.barWait .always 0 (.imm 5)) (s1.setBar 0 3 { group := some 1, count := 2, phase := 5 }) (moored 4 0 5) ∧
    goes (.podbar hS .both 0) (podB 2 s1) (fun t => moored 5 0 0 t && t.me.a == 0 && (t.grp 1).pod == 1 && t.me.kept == some 0) ∧
    goes (.podbar hS .arrive 0) (podB 2 (s1.modGrp 1 (fun g => { g with pod := 1, podPhase := 2 })))
      (fun t => t.me.a == 2 && (t.grp 1).pod == 0 && (t.grp 1).podPhase == 3 && t.me.pc == 0x10008) ∧
    goes (.podbar hS .both 0) s1 (traps 0x322) ∧
    goes (.podBarrierComplete 9) (podB 2 ((s1.modGrp 1 (fun g => { g with podPhase := 1 })).modThr 1 (fun t => { t with wait := .moored 5 0 0 0 0 })))
      (fun t => (t.grid 9).phase == 1 && (t.thr 1).wait == .ready) := by
  decide +kernel

theorem witness_BarrierInstructions :
    runs (readSrc (.mem 0 .postInc) 4 opA) (put 0x100 0xFFFF 4 s1).issued (fun v u => v == 65535 && (u.grp u.myGrp).bars[0]? == some 3 && !u.abortSet u.cur) ∧
    runs (readSrc (.imm 0) 4 opA) s1.issued (fun v _ => v == 0) ∧
    (runs sampleAbort s1.issued yes ∧ s1.inFlight 0 = false) ∧
    runs (acquireSteps .cl) s1.issued yes ∧
    (0 < (podB 0x1FF s1).podCount 1 ∧ s1.podCount 1 = 0) ∧
    runs (releaseSteps .pd) (podB 1 s1).issued (fun _ u => u.cur == 0 && u.grp u.myGrp == s1.grp 1) ∧
    (phaseDone 1 0 = true ∧ phaseDone 0 0 = false ∧ phaseDone 0x80000000 0 = false) ∧
    runs (acquireSteps .pd) ((podB 1 s1).issued.modThr 0 (fun x => { x with kept := some 0 })) yes ∧
    ((me (fun t => { t with freed := true, kept := some 0 })).me.freed = true ∧ s1.me.freed = false) ∧
    (let s := podB 2 ((s1.modGrp 1 (fun g => { g with podPhase := 1 })).modThr 1 (fun t => { t with wait := .moored 5 0 0 0 0 }))
     decide ((s.grid 9).count ≤ (s.grid 9).gone + ((s.groupsOf 9).filter (fun e => phaseDone e.2.podPhase (s.grid 9).phase)).length) &&
       (s.thr 1).wait == .moored 5 0 0 0 0 && (s.grp ((s.thr 1).group.getD 0)).grid == 9 && s.threads.any (fun e => e.1 == 1 && e.2 == s.thr 1)) := by
  decide +kernel

/-- R303, R371. -/
theorem witness_AbortSampling :
    (let s := aborted (ringIn 0 0)
     alone s && s.abortSet 0 && !s.me.passed && !s.me.freed && (s.grp s.myGrp).bars[0]? != none && (s.ring s.myClus 2).2 != none && decide (0 < s.podCount 1) &&
       s.abortEntry 0 == 0x40000 &&
     [Instr.barArrive .always 0, .barWait .always 0 (.imm 0), .ringArrive .always 0 true, .podbar hS .both 0, .hwait .always (.handle 0)].all (fun i =>
       goes i s (fun t => t.me.pc == 0x40000 && t.me.trap.ab && t.clusters == s.clusters))) ∧
    (let s := { aborted coded with grids := [(9, { (aborted coded).grid 9 with man := [0, 0x20000, 0, 0, 0, 0, 0, 2] })] }
     s.abortEntry 0 == 0 && goes (.barArrive .always 0) s (fun t => !t.me.live && t.me.group == some 1)) ∧
    (let s := aborted coded
     s.startOk s.myGrp (s.me.pc + BitVec.ofInt 56 (4 * (0 : BitVec 34).toInt)) && goes (.br hS true 0 0) s (fun t => t.me.pc == 0x40000 && t.me.trap.ab)) := by
  decide +kernel

/-! ### Ferry engines and handles (R251 to R278) -/

/-- A request's four words in the scratchpad at 0x100. -/
def request (w0 w1 w2 w3 : Nat) (s : State) : State := put 0x118 w3 8 (put 0x110 w2 8 (put 0x108 w1 8 (put 0x100 w0 8 s)))
/-- A core's FIFO of n requests. -/
def req0 : Req := { w0 := 0x0000000430000000, w1 := sp 0x800, w2 := sp 0x900, w3 := 0x10000A01, fo := 0, thread := 0, h := 2, seq := 1, group := 1 }
def fifoOf (n : Nat) (s : State) : State := s.modCore 0 (fun c => { c with fifo := List.replicate n req0 })
/-- Handle 2 of thread 0. -/
def hnd (x : Handle) (s : State) : State := s.modThr 0 (fun t => t.setHandle 2 x)
def reqS : State := request 0x0000000430000000 (2 ^ 55 + 0x800) (2 ^ 55 + 0x900) 0x10000A01 s1
def full (n : Nat) (s : State) : State := s.modClus 0 (fun c => { c with fired := List.replicate n req0 })

theorem test_ferry_requests :
    goes (.fcopy hS 2 (.mem 0 .ind) 0) reqS (fun t => (t.core 0).fifo == [req0] && (t.me.handle 2).st == .pending && (t.me.handle 2).seq == 1 && t.me.pc == 0x10008) ∧
    goes (.fcopy hS 2 (.mem 0 .ind) 0) (fifoOf 16 reqS) (fun t => t.me.wait == .fifo && t.me.pc == 0x10000 && (t.me.handle 2).seq == 0) ∧
    goes (.fcopyTry hS 2 (.mem 0 .ind) 0) (fifoOf 16 reqS) (fun t => t.me.a == 1 && !t.me.f.p && (t.me.handle 2).st == .cancelled && (t.me.handle 2).cause == 0x2C4) ∧
    goes (.fcopyTry hS 2 (.mem 0 .ind) 0) (fifoOf 15 reqS) (fun t => t.me.a == 0 && t.me.f == { p := true } && (t.core 0).fifo.length == 16) ∧
    goes (.fcopy hL 2 (.mem 0 .ind) 0x20) reqS (traps 0x0C0) ∧
    goes (.fcopyOn hM 2 (.mem 0 .ind) 0xA00 0) (reqS.modThr 0 (fun t => { t with a := 1 })) (fun t => (t.clus 0).armed == [{ req := req0, loc := bankLoc 0 4 0xA00, gen := 1 }] &&
      t.landInfo (bankLoc 0 4 0xA00) == (false, 1) && got t 0xA0C 1 == 1) ∧
    goes (.fcopyOn hM 2 (.mem 0 .ind) 0xA00 0) reqS (fun t => (t.clus 0).fired == [req0] && (t.clus 0).armed == []) ∧
    goes (.fcopyOn hM 2 (.mem 0 .ind) 0xA00 0) (full 64 reqS) (traps 0x2C1) ∧
    goes (.fcopyOn hM 2 (.mem 0 .ind) 0xA08 0) reqS (traps 0x0C0) ∧
    goes (.fcopyOn hM 2 (.mem 0 .ind) 0x8000000 0) ring0 (traps 0x0E1) := by
  decide +kernel

theorem witness_FerryRequests :
    runs (readRequest (.mem 0 .ind)) reqS.issued (fun w u => w == (req0.w0, req0.w1, req0.w2, req0.w3) &&
      runs (releaseSteps .pk) u yes &&
      runs (triggerWord 0xA00) u (fun loc x => loc == bankLoc 0 4 0xA00 && runs (releaseSteps .pk) x (fun _ v => reached (v.landing loc).gen 0 && !reached (v.landing loc).gen 1))) ∧
    ((0x3F : Word).toNat % 64 ≠ 0 ∧ (0xFFFFFFFFFFFFFFC0 : Word).toNat % 64 = 0) ∧
    ((fifoOf 15 reqS).core 0).fifo.length = 15 ∧ ((fifoOf 16 reqS).core 0).fifo.length = 16 ∧
    runs (readRequest (.mem 0 .ind)) (full 64 reqS).issued (fun _ u => runs (triggerWord 0xA00) u (fun _ x => decide (64 ≤ (x.clus x.myClus).fired.length))) ∧
    runs (readRequest (.mem 0 .ind)) (full 63 reqS).issued (fun _ u => runs (triggerWord 0xA00) u (fun _ x => decide ((x.clus x.myClus).fired.length < 64))) := by
  decide +kernel

/-- R268 to R272: a count through two generations, which releases a thread and fires a request; a wrap with TARGET 0. -/
theorem test_landing :
    goes (.landInit hL (.mem 0 .ind) (.imm 0x500000010)) (put 0x10F 0x40 1 s1) (fun t => got t 0x100 16 == 0x50000000000000010 && t.me.pc == 0x10010) ∧
    goes (.landInit hS (.mem 4 .ind) .a) s1 (traps 0x0E1) ∧
    goes (.landWait hS (.mem 0 .ind) (.imm 6)) (put 0x108 5 4 s1) (moored 3 (2 ^ 55 + 0x100) 6) ∧
    goes (.landWait hS (.mem 0 .ind) (.imm 5)) (put 0x108 5 4 s1) (fun t => t.me.pc == 0x10008) ∧
    (let s := put 0x100 0x100000003 8 s1
     let s := (s.modThr 1 (fun t => { t with wait := .moored 3 0x100 2 0 0, watch := some (bankLoc 0 4 0x100) })).modClus 0 (fun c =>
       { c with armed := [{ req := req0, loc := bankLoc 0 4 0x100, gen := 1 }] })
     let t := s.count (bankLoc 0 4 0x100) 6
     got t 0x100 4 == 3 && got t 0x104 4 == 1 && got t 0x108 4 == 2 && (t.thr 1).wait == .ready && (t.clus 0).fired == [req0] && (t.clus 0).armed == []) ∧
    (let t := (put 0x104 0xFFFFFFFF 4 s1).count (bankLoc 0 4 0x100) 2
     got t 0x104 4 == 1 && got t 0x108 4 == 0 && got t 0x10F 1 == 0x40) := by
  decide +kernel

theorem witness_LandingWords :
    runs (landOperand (.mem 0 .ind) ⟨false, true⟩) s1.issued (fun l u => runs (readSrc (.imm 7) 8 opB) u (fun _ v => v.clear v.myCore (v.homeOf l.1))) ∧
    runs (landOperand (.mem 1 .ind) ⟨true, false⟩) s1.issued (fun l u => runs (readSrc .a 8 opB) u (fun _ v =>
      v.clear v.myCore (v.homeOf l.1) && reached (v.landing l.1).gen 0 && runs (acquireSteps .pk) v yes && v.me.sent == none)) ∧
    runs (landOperand (.mem 1 .ind) ⟨true, false⟩) s1.issued (fun l u => runs (readSrc (.imm 1) 8 opB) u (fun x v => !reached (v.landing l.1).gen (x.setWidth 32))) ∧
    Memory.wf s1.mem ∧
    (let w : LandWord := { target := 0xFFFFFFFF, arrived := 0xFFFFFFFF, gen := 0xFFFFFFFF, ovf := true }
     let t := s1.setLanding (bankLoc 0 4 0x200) w
     t.landing (bankLoc 0 4 0x200) == w && got t 0x20C 3 == 0) ∧
    (let s := (put 0x100 0x100000003 8 s1).modThr 1 (fun t => { t with wait := .moored 3 0x100 2 0 0, watch := some (bankLoc 0 4 0x100) })
     (s.landing (bankLoc 0 4 0x100)).target == 3 && s.threads.any (fun e => e.1 == 1 && e.2 == s.thr 1) && locCluster (bankLoc 0 4 0x100) == 0 &&
       s.threads.all (fun e => match e.2.wait with | .moored k _ _ _ _ => k != 7 | _ => true) && s.clusters.all (fun e => e.2.channels == [])) ∧
    (s1.landing (bankLoc 0 4 0x100)).target = 0 := by
  decide +kernel

/-- R274 to R277, R266: mooring, delivery, tokens, cancellation. -/
theorem test_handles :
    goes (.hwait .always (.handle 2)) (hnd { st := .pending, seq := 4 } s1) (fun t => moored 0 2 0 t && t.me.watch == some 2) ∧
    goes (.hwait .always (.handle 2)) (hnd { st := .faulted, cause := 0x2C2, engine := 1, seq := 4 } s1) (fun t => t.me.trap.cause == 0x6C2 && t.me.pc == 0x20000 && (t.me.handle 2).st == .complete &&
      t.me.trap.einfo == 0x10020) ∧
    goes (.hwait .always (.handle 2)) s1 (fun t => t.me.pc == 0x10008) ∧
    goes (.hwait .always (.token (.imm 0x04_00000005))) s1 (traps 0x0E0) ∧
    goes (.hwait .always (.token (.imm 0x4000000004))) (hnd { st := .faulted, seq := 4 } s1) (fun t => t.me.pc == 0x10008 && t.me.f == { v := true }) ∧
    goes (.hwait .always (.token (.imm 0x4000000003))) (hnd { st := .faulted, seq := 4 } s1) (fun t => t.me.pc == 0x10008 && t.me.f == {}) ∧
    goes (.htest .always 2 true) (hnd { st := .cancelled, cause := 0x2C5, seq := 0x80000001 } s1) (fun t => t.me.a == 0x4080000001 && t.me.f == { c := true }) ∧
    goes (.htest .always 2 false) (hnd { st := .faulted, cause := 0x2C2, chan := 3, tid := 9, seq := 4 } s1) (fun t => t.me.a == 0xAC23000000000009 && t.me.f == { v := true }) ∧
    goes (.hcancel .always 2) (fifoOf 1 (hnd { st := .pending, seq := 1 } s1)) (fun t => t.me.f == { p := true } && (t.core 0).fifo == [] && (t.me.handle 2).st == .cancelled && (t.me.handle 2).cause == 0x2C5) ∧
    goes (.hcancel .always 2) s1 (fun t => t.me.f == {} && t.me.pc == 0x10008) ∧
    goes (.fmark .always (.imm 3)) (s1.setChannel 0 3 { next := 8, xfers := [{ id := 5, req := req0 }] }) (fun t => t.me.a == 5) ∧
    goes (.shapeFence .always) (s1.modClus 0 (fun c => { c with shapes := [(0, 0x10000, [])] })) (fun t => (t.clus 0).shapes == [] && t.me.pc == 0x10008) ∧
    goes (.shapeFence .always) (fifoOf 3 s1) (fun t => t.me.wait == .fifo && t.me.sent == some (some 3)) := by
  decide +kernel

theorem witness_HandleInstructions :
    (s1.abortSet 0 = false ∧ (s1.me.handle 2).st = .complete) ∧ runs (acquireSteps .pk) s1.issued yes ∧
    ((hnd { st := .pending } s1).me.handle 2).st = .pending ∧
    (((hnd { st := .faulted } s1).me.handle 2).st = .faulted ∧ ((hnd { st := .faulted } s1).me.handle 2).counted = false) ∧
    runs (readSrc (.imm 0x4000000004) 8 opB) (hnd { seq := 4 } s1).issued (fun v u => v.extractLsb' 48 16 == 0 && v.extractLsb' 32 5 == 0 && u.myClus * 256 == 0 &&
      (u.thr 0).group == u.me.group && ((u.thr 0).handle (v.extractLsb' 37 3)).seq == 4 && !u.opLive 0 2 4 && runs (acquireSteps .pk) u yes) ∧
    runs (readSrc (.imm 0x4000000004) 8 opB) s1.issued (fun _ u => decide (((u.thr 0).handle 2).seq < 4)) ∧
    (s1.me.sent = none ∧ s1.me.group ≠ none) ∧
    (let s := fifoOf 1 (hnd { st := .pending, seq := 1 } s1)
     (s.core s.myCore).fifo.findIdx? (fun r => r.thread == s.cur && r.h == 2 && r.seq == (s.me.handle 2).seq) == some 0) ∧
    ((s1.core 0).fifo = [] ∧ ((fifoOf 3 s1).core 0).fifo.length = 3) := by
  decide +kernel

/-- The operation 1 of handle 2 is seen. -/
def sees (s : State) : Bool := (s.thr 0).group == some 1 && (s.handleOf 0 2).seq == 1 && (s.handleOf 0 2).st == .pending

theorem sees_sees {s : State} (h : sees s = true) : s.sees 1 0 2 1 := by
  simp only [sees, Bool.and_eq_true, beq_iff_eq] at h
  exact ⟨h.1.1, h.1.2, h.2⟩

/-- A transfer of four bytes between two words of the scratchpad, counted at 0xA00. -/
def x0 (st : BeatSt) : Xfer where
  id := 1
  req := req0
  src := { base := sp 0x800, dims := [(4, 1)] }
  dst := { base := sp 0x900, dims := [(4, 1)] }
  land := some (1, 0xA00)
  beats := [{ start := 0, n := 4, st := st }]
def moving (x : Xfer) : State := (put 0x800 0x44332211 4 (hnd { st := .pending, seq := 1 } s1)).setChannel 0 3 { next := 2, xfers := [x] }

/-- A beat whose reads were sent in cycle 3, one of them to package 1. -/
def sentBeat : State :=
  let s := moving { x0 .waiting with beats := [{ start := 0, n := 4, st := .reading, sent := some 3, srcs := [none, none, none, none] }] }
  { s.modClus 0 (fun c => { c with outbox := [{ beat := some ⟨0, 3, 1, 0, 0⟩, loc := 0x10000000000, op := .read 1, cycle := 3 }] }) with now := 2 ^ 20 + 3 }

/-- A beat held since cycle 5 for group 2, which is saved. -/
def heldBeat : Beat := { start := 0, n := 4, held := some 5, dest := some 2 }
def s2held : State :=
  { moving { x0 .waiting with beats := [heldBeat] } with now := 2 ^ 24 + 5, groups := s1.groups ++ [(2, { grid := 9, cluster := 1, st := .saved })] }

/-- R258 to R260, R268, R278, R226. -/
theorem test_ferry_engine :
    goes (.ferryTakeRequest 0) (fifoOf 1 (hnd { st := .pending, seq := 1 } s1)) (fun t => (t.channel 0 3).xfers == [x0 .waiting] && (t.channel 0 3).next == 2 && (t.core 0).fifo == [] &&
      (t.me.handle 2).tid == 1 && (t.clus 0).ferryLast == 0) ∧
    goes (.ferryTakeRequest 0) ((hnd { st := .pending, seq := 1 } s1).modClus 0 (fun c => { c with fired := [{ req0 with w0 := 0x430000001 }] })) (fun t =>
      (t.me.handle 2).st == .faulted && (t.me.handle 2).cause == 0x2C0) ∧
    goes (.ferryBeat 0 3 1 0) (moving (x0 .waiting)) (fun t => got t 0x900 5 == 0x44332211 && (t.channel 0 3).xfers == [x0 .moved]) ∧
    goes (.ferryBeatCount 0 3 1 0) (moving (x0 .moved)) (fun t => got t 0xA04 4 == 4 && (t.me.handle 2).st == .complete && (t.channel 0 3).xfers == []) ∧
    goes (.beatHoldTimeout 0 3 1 0) s2held (fun t => (t.me.handle 2).st == .faulted && (t.me.handle 2).cause == 0x2C6) ∧
    goes (.beatHoldTimeout 0 3 1 0) { s2held with now := 2 ^ 24 + 4 } (fun t => (t.me.handle 2).st == .pending) ∧
    goes (.remoteTimeout (.beat 0 3 1 0) .no) sentBeat (fun t => (t.me.handle 2).st == .faulted && (t.me.handle 2).cause == 0x391) ∧
    goes (.remoteTimeout (.beat 0 3 1 0) .no) { sentBeat with now := 2 ^ 20 + 2 } (fun t => (t.me.handle 2).st == .pending) ∧
    goes (.ferryBeat 0 3 1 0) { moving (x0 .waiting) with eager := false } (fun t => t.mem == (moving (x0 .waiting)).mem &&
      (t.clus 0).outbox.map (·.loc) == (List.range 4).map (fun i => bankLoc 0 4 (0x800 + i))) := by
  decide +kernel

/-- A follow-on command: an `mx` record at 0xC00 of the scratchpad, empty, so that it is refused (R273). -/
def followed : Xfer := { x0 .counted with req := { req0 with fo := sp 0xC00 } }

theorem witness_FerryEngineSteps :
    (let s := fifoOf 1 (hnd { st := .pending, seq := 1 } s1)
     s.nextRequest 0 == some (req0, some 0) && sees s &&
     (match s.checkReq req0 with | (.ok x, _) => !x.settledBeats && !x.finished | _ => false)) ∧
    (let r := { req0 with w3 := 0x18000001 }
     let s := (hnd { st := .pending, seq := 1 } s1).modClus 0 (fun c => { c with fired := [r] })
     s.nextRequest 0 == some (r, none) && (match s.checkReq r with | (.bad c _, u) => c == 0x2C3 && sees u | _ => false)) ∧
    { req0 with w0 := 0x430000001 }.malformed ∧
    (let s := moving (x0 .waiting)
     let x := x0 .waiting
     let b : Beat := { start := 0, n := 4 }
     (s.channel 0 3).xfers.find? (fun x => x.id = 1) == some x && x.beats[0]? == some b && !x.finished &&
     (s.beatAhead x b).isNone &&
     (match s.elemLocs x.req.group x.src ⟨true, false⟩ x.req.op b.n b.start, s.beatDest x b with
       | (.ok ss, u), (.ok ds, v) => u == s && v == s && (ss ++ ds).all isBank && ds.all (fun d => !s.locked d) &&
         decide (ds.Pairwise (fun d e => d + 1 ≤ e ∨ e + 1 ≤ d))
       | _, _ => false) && s.flaws == [] && s.landings == [] && Memory.wf s.mem) ∧
    (let s := moving (x0 .moved)
     (match s.engScratchFor 1 0xA00 (some (x0 .moved).req.op) with | .at loc => loc == bankLoc 0 4 0xA00 | _ => false) && sees s &&
       (x0 .moved).req.fo == 0) ∧
    ((sentBeat.beatMsgs 0 3 1 0).any (fun m => locPackage m.loc != packageOf 0) && sees sentBeat) ∧
    (s2held.heldSince heldBeat == some 5 && decide ((5 : Nat) + 2 ^ 24 ≤ s2held.now) && sees s2held) ∧
    (let m : Msg := { thread := some 0, loc := 0x10000000000, va := 0x10000, op := .write [7], reply := some 0, cycle := 3 }
     let s := { s1.modCore 0 (fun c => { c with path := [m] }) with now := 2 ^ 20 + 3 }
     s.awaited 0 == some m && s.trapsNow 0 && goes (.remoteTimeout (.thread 0) .yes) s (fun t => t.me.trap.cause == 0xF91 && memGet t.mem 0x10000000000 == 7) &&
       goes (.remoteTimeout (.thread 0) .no) s (fun t => t.me.trap.cause == 0xF91 && t.mem == [])) ∧
    (let s := moving followed
     sees s && followed.settledBeats &&
     (match (engRecord 1 (some followed.req.op) (s.stagesOf 1) [] (sp 0xC00) 8).run s with
       | (.ok r, u) => !u.mustStall 1 r && (match u.acceptCmd 1 r none 0 none (some followed.req.op) with | .error c => c != 0 | .ok _ => false)
       | _ => false) &&
     goes (.followOnIssue 0 3 1) s (fun t => (t.me.handle 2).st == .faulted && (t.me.handle 2).cause == 0x2C7)) := by
  decide +kernel

/-! ### Matrix arrays (R307 to R339) -/

/-- Words in the scratchpad from 0x100 on. -/
def words (ws : List Nat) (s : State) : State :=
  { s with mem := memWrite s.mem (bankLoc 0 4 0x100) (ws.flatMap (fun w => leBytes w 8)) }
/-- `mw` of 2 by 2 E4M3 weights at 0x800 into array 0, and `mx` of one row at 0x900 into tile 0, row 2, column 3. -/
def recMw : List Nat := [0x10C0000010080000, 2 ^ 55 + 0x800, 2, 0, 0, 0, 0, 0]
def recMx : List Nat := [0x20C0001000000000, 2 ^ 55 + 0x900, 2, 0, 0x30200, 0, 0, 0]
def recMxg : List Nat := [0x30C0001000000000, 2 ^ 55 + 0x900, 2, 2 ^ 55 + 0xA00, 0x30200, 0, 0, 0]
def cmdMw : MCmd := { op := 1, array := 0, fmt := .f8e4, k := 2, n := 2, run := { src := sp 0x800, tags := 0, pitch := 2, mcnt := 0 }, group := 1, handle := some (0, 2, 1) }
def cmdMx : MCmd where
  op := 2
  array := 0
  fmt := .f8e4
  run := { src := sp 0x900, tags := 0, pitch := 2, mcnt := 1 }
  row0 := 2
  col0 := 3
  group := 1
  handle := some (0, 2, 1)
  total := 1
/-- Weights 1, 2 and 1/2, 1; activations 2, 1. -/
def ctx : Ctx := { k := 2, n := 2, fmt := .f8e4, w := [[0x3F800000, 0x40000000], [0x3F000000, 0x3F800000]] }
def mrow : MRow := { row := 0, acts := [0x40000000, 0x3F800000], ws := [ctx] }
def cmdDone : MCmd := { cmdMx with started := true, rows := [mrow], streamed := true, bands := [], last := 0 }
/-- Array 0 with commands in its normal queue, and weights and a row in memory; tile 0 at scale -1. -/
def queued (cs : List MCmd) (c : Option Ctx) : State :=
  ((put 0x900 0x3840 2 (put 0x800 0x38304038 4 (hnd { st := .pending, seq := 1 } s1))).setTile 0 0 { group := some 1, scale := 0xFFFF }).setArr 0 0
    { group := some 1, qn := cs, cn := c }

theorem test_matrix_issue :
    goes (.mw hM 2 (.mem 0 .ind)) (words recMw s1) (fun t => (t.arr 0 0).qn == [cmdMw] && (t.me.handle 2).st == .pending && t.me.pc == 0x1000C) ∧
    goes (.mx hM 2 (.mem 0 .ind)) (words recMx s1) (fun t => (t.arr 0 0).qn == [cmdMx]) ∧
    goes (.mx hL 2 (.abs (sp 0x100))) (words recMw s1) (fun t => (t.me.handle 2).st == .faulted && (t.me.handle 2).cause == 0x2A1 && t.me.pc == 0x10010) ∧
    goes (.mx hM 2 (.mem 0 .ind)) (words [0x21C0001000000000] s1) (fun t => (t.me.handle 2).cause == 0x2A2) ∧
    goes (.mx hM 2 (.mem 0 .ind)) (words [0x20C0001000000000, 0, 0, 0, 2] s1) (fun t => (t.me.handle 2).cause == 0x2A3) ∧
    goes (.mxg .always 2 (.mem 0 .ind) (sp 0xB00)) (words recMxg s1) (fun t => ((t.arr 0 0).qn.map (fun c => (c.op, c.aux, c.runs.length))) == [(3, sp 0xB00, 1)]) ∧
    goes (.mw hM 2 (.mem 0 (.disp 8))) s1 (traps 0x0C0) ∧
    goes (.mxgClose .always 0) s1 (traps 0x2A6) ∧ goes (.mxgClose .always 1) s1 (traps 0x2A2) ∧
    goes (.mxgClose .always 0) (queued [{ cmdMx with op := 3 }] none) (fun t => ((t.arr 0 0).qn.map (·.closed)) == [true]) ∧
    goes (.mxgAdd .always 0 (.mem 0 .ind)) (words [2 ^ 55 + 0x900, 2 ^ 55 + 0xA00, 0x300000002, 0] (queued [{ cmdMx with op := 3 }] none))
      (fun t => ((t.arr 0 0).qn.map (fun c => (c.total, c.runs))) == [(4, [{ src := sp 0x900, tags := sp 0xA00, pitch := 2, mcnt := 3 }])]) ∧
    goes (.mxgAdd .always 0 (.mem 0 .ind)) (words [0, 0, 0x7E00000000, 0] (queued [{ cmdMx with op := 3 }] none)) (traps 0x2A6) ∧
    goes (.mq .always 0 true) s1 (fun t => (t.arr 0 0).high && t.me.pc == 0x10008) ∧
    goes (.mstat .always 0) (queued [cmdMx] (some ctx)) (fun t => t.me.a == 0x430000 && t.me.f == {}) ∧
    goes (.mstat .always 1) s1 (fun t => t.me.a == 0 && t.me.f == { z := true }) ∧
    goes (.mchain .always 2 ⟨false, false, 0, 0⟩) s1 (fun t => (t.clus 0).links == [{ cfg := { first := 0 }, handle := (0, 2, 1) }]) ∧
    goes (.mchain .always 2 ⟨false, false, 1, 0⟩) s1 (traps 0x2A2) ∧
    (let f : ChainCfg := { west := false, east := true, first := 3, cntM1 := 0 }
     let s := (s1.modGrp 1 (fun g => { g with arrays := [3] })).setArr 0 3 { group := some 1 }
     goes (.mchain .always 2 f) (s.modPkg 0 (fun p => { p with enabled := [0] })) (traps 0x2A2) ∧
     goes (.mchain .always 2 f) s (fun t => (t.clus 0).links.length == 1)) ∧
    goes (.mchainLink 0 0) ((hnd { st := .pending, seq := 1 } s1).modClus 0 (fun c => { c with links := [{ cfg := { first := 0 }, handle := (0, 2, 1) }] }))
      (fun t => (t.clus 0).links == [] && (t.arr 0 0).chain == some { first := 0 } && (t.me.handle 2).st == .complete) := by
  decide +kernel

/-- An open grouped product at array 0. -/
def open3 : MCmd := { cmdMx with op := 3 }

/-- R316: the first of the checks that fails gives the cause (log 88). -/
def accepts (s : State) (op : Nat) (ws : List Nat) : Option (BitVec 10) :=
  match s.acceptCmd 1 (ws.map (BitVec.ofNat 64)) (some op) 0 (some (0, 2, 1)) none with
  | .ok _ => none
  | .error c => some c

theorem test_acceptance :
    accepts s1 2 recMx = none ∧ accepts s1 2 recMw = some 0x2A1 ∧ accepts s1 2 (recMx.set 0 0x21C0001000000000) = some 0x2A2 ∧
    accepts s1 2 (recMx.set 4 2) = some 0x2A3 ∧ accepts (queued [open3] none) 3 recMxg = some 0x2A6 ∧
    accepts s1 2 (recMx.set 1 0x90000000000000) = some 0x311 ∧ accepts s1 2 (recMx.set 7 0x18000001) = some 0x2C3 := by
  decide +kernel

theorem witness_MatrixInstructions :
    [(1, recMw), (2, recMx), (2, recMw)].all (fun e =>
      runs (readRecord (.mem 0 .ind)) (words e.2 s1).issued (fun r u => r.length == 8 && runs (releaseSteps .pk) u (fun _ v => !v.mustStall v.myGrp r &&
        runs (newHandle 2 (fun x => { x with engine := 2 })) v (fun _ w => w.me.group.isSome &&
          (match w.acceptCmd w.myGrp r (some e.1) 0 (some (w.cur, 2, (w.me.handle 2).seq)) none with | .ok _ => true | .error c => c == 0x2A1))))) ∧
    (let r : MRec := recMx.map (BitVec.ofNat 64)
     r.malformed (some 2) = false ∧ s1.unserved 0 .f8e4 = false ∧ s1.holdsArray 1 r.array ∧ (s1.chainOf 0 r.array).first = r.array ∧ r.pair ≠ 1 ∧ r.pair ≠ 2) ∧
    (MRec.malformed (recMw.map (BitVec.ofNat 64)) (some 2) ∧ s1.holdsArray 1 1 = false) ∧
    (s1.openProduct 0 0 = none ∧ (queued [open3] none).openProduct 0 0 = some (false, 0, open3)) ∧
    (let s := words [2 ^ 55 + 0x900, 2 ^ 55 + 0xA00, 0x7D00000002, 0] (queued [open3] none)
     runs (specAddr 0 .ind 32 32) s.issued (fun x u => x.toNat % 32 == 0 && runs ((List.range 4).mapM (fun i => do
        let bs ← loadBytes (x + BitVec.ofNat 56 (8 * i)) 8 opB
        pure (leWord bs))) u (fun ws v => ((ws.getD 2 0).extractLsb' 32 8).toNat == 125 && decide (open3.total + 125 + open3.row0 = 128) &&
          runs (releaseSteps .pk) v (fun _ w => w.openProduct w.myClus 0 == some (false, 0, open3) && w.viewCause 1 (ws.getD 0 0) == none)))) ∧
    (3 + 1 ≤ 4 ∧ s1.myClus % 4 = 0 ∧ (s1.myClus + 1) % 64 ∈ ((s1.modPkg 0 (fun p => { p with enabled := [1] })).pkg s1.myPkg).enabled) ∧
    (let l : Link := { cfg := { first := 0 }, handle := (0, 2, 1) }
     let s := (hnd { st := .pending, seq := 1 } s1).modClus 0 (fun c => { c with links := [l] })
     (s.clus 0).links == [l] && (s.linkArrays 0 l.cfg) == [0] && (s.arr 0 0).all.isEmpty && sees s) := by
  decide +kernel

/-- R309, R311 to R313, R319, R320: the weights 1, 2, 1/2, 1 against the row 2, 1, at scale -1. -/
theorem test_matrix_steps :
    goes (.matrixPassBoundary 0 0) (queued [cmdMw] none) (fun t => (t.arr 0 0).cn == some ctx && (t.arr 0 0).qn == [] && (t.me.handle 2).st == .complete) ∧
    goes (.matrixPassBoundary 0 0) (queued [{ cmdMw with land := some (1, 0xA00) }] none) (fun t =>
      (t.arr 0 0).cn == some ctx && (t.arr 0 0).qn == [] && got t 0xA04 4 == 1) ∧
    goes (.matrixPassBoundary 0 0) (queued [cmdMx] (some ctx)) (fun t => (t.arr 0 0).qn == [{ cmdDone with width := 1, last := 257 }]) ∧
    goes (.matrixPassBoundary 0 0) (queued [cmdMx] none) (fun t => (t.me.handle 2).st == .faulted && (t.me.handle 2).cause == 0x2A4) ∧
    goes (.matrixOpComplete 0 0) (queued [cmdDone] (some ctx)) (fun t => (t.tile 0 0).entries == [(515, { i := 5 }), (516, { i := 10 })] && (t.arr 0 0).qn == [] &&
      (t.me.handle 2).st == .complete && (t.tile 0 0).dirty) ∧
    goes (.matrixOpComplete 0 0) ((queued [{ cmdDone with rank := true, ibase := 7 }] (some ctx)).setTile 0 0 { scale := 0xFFFF, rows := [(2, { ranked := true, logk := 1 })] })
      (fun t => (t.row 0 0 2).pairs == [(0xC0A00000, 8), (0xC0200000, 7)]) := by
  decide +kernel

/-- R317: an element read before the pass keeps the value it had then; one not read yet has the memory's at the pass. -/
theorem test_operand_read_early :
    (let s := (queued [cmdMx] (some ctx)).fetchOperand 0 0 false 0 1 (sp 0x900) 1
     (s.arr 0 0).qn == [{ cmdMx with run := { cmdMx.run with early := [(sp 0x900, [0x40])] } }] &&
     (goes (.matrixPassBoundary 0 0) (put 0x900 0x3030 2 s) (fun t =>
       (t.arr 0 0).qn == [{ cmdDone with width := 1, last := 257, run := { cmdMx.run with early := [(sp 0x900, [0x40])] }, rows := [{ mrow with acts := [0x40000000, 0x3F000000] }] }] ) : Bool)) := by
  decide +kernel

/-- Chains that meet between clusters 0 and 1; group 2 of the grid is on cluster 1. -/
def halves (w e : MCmd) : State :=
  let s : State := { queued [] none with groups := s1.groups ++ [(2, { grid := 9, cluster := 1, gid := 1, arrays := [0] })] }
  let s := s.setArr 0 3
    { group := some 1, chain := some { first := 3, east := true }, qn := [w] }
  s.setArr 1 0 { group := some 2, chain := some { first := 0, west := true }, qn := [e] }
def west : MCmd := { cmdMx with array := 3, pair := 1, pkey := 5, ready := some 0 }
def east : MCmd := { cmdMx with pair := 2, pkey := 5, ready := some 0, group := 2, handle := none }

theorem test_pairs :
    goes (.pairMatch 0) (halves west east) (fun t => ((t.arr 0 3).qn.map (·.partner)) == [some (1, 0)] && ((t.arr 1 0).qn.map (·.partner)) == [some (0, 3)]) ∧
    goes (.pairMatch 0) (halves west { east with fmt := .f16 }) (fun t => (t.arr 0 3).qn == [] && (t.arr 1 0).qn == [] && (t.me.handle 2).cause == 0x2A9) ∧
    goes (.pairMatch 0) (halves west { east with pkey := 6 }) (fun t => ((t.arr 0 3).qn.map (·.partner)) == [none]) ∧
    goes (.pairingTimeout 0 3) { halves west { east with ready := none } with now := 65536 } (fun t => (t.arr 0 3).qn == [] && (t.arr 1 0).qn == [] && (t.me.handle 2).cause == 0x2A0) ∧
    goes (.pairingTimeout 0 3) { halves west east with now := 65535 } (fun t => (t.arr 0 3).qn == [west]) ∧
    goes (.mxgCloseTimeout 0 0) { queued [{ open3 with started := true, runs := [] }] none with now := 2 ^ 20 } (fun t => (t.me.handle 2).cause == 0x2AA) := by
  decide +kernel

theorem witness_MatrixSteps :
    (let s := queued [cmdMw] none
     (s.chainOf 0 0).first == 0 && (s.arr 0 0).qh == [] && (s.arr 0 0).qn == [cmdMw] && !cmdMw.streamed && !cmdMw.stop && cmdMw.partner == none &&
     !heldUp (s.cmdWord cmdMw) &&
     (match (latch 1 cmdMw.opId [] [] (sp 0x800) 2 2 2 .f8e4).run s with | (.ok w, u) => w == ctx && (u.arr 0 0).qn == [cmdMw] && sees u | _ => false)) ∧
    ((match (startMx 0 0 false cmdMx).run (queued [cmdMx] (some ctx)) with | (.ok d, u) => d.bands == [0] && u.cur == 0 | _ => false) : Bool) ∧
    ({ cmdMx with started := true, bands := [0, 2] }.stream 7).streamed = false ∧
    (sees (queued [cmdDone] (some ctx)) ∧ cmdDone.land = none ∧ cmdDone.streamed) ∧
    (let c := { cmdDone with land := some (1, 0xA00) }
     let s := queued [c] (some ctx)
     s.cmdWord c == some (.at (bankLoc 0 4 0xA00)) && !heldUp (s.cmdWord c) && (s.ownedTiles 0 c).all (fun x => !s.tileFlawed 0 x) &&
       (let u := { s with flaws := [tileLoc 0 0] }
        (s.ownedTiles 0 c) == [0] && u.tileFlawed 0 0 && goes (.matrixOpComplete 0 0) u (fun t =>
          (t.arr 0 0).qn == [] && (t.me.handle 2).st == .faulted && (t.me.handle 2).cause == 0x380 && t.tile 0 0 == s.tile 0 0))) ∧
    (ctx.w.all (fun x => decide (ctx.n ≤ x.length))) ∧
    (let s := halves west east
     s.meeting 0 == some (3, 1, 0) && s.running 0 3 false == some (0, west) && s.readyHalf 0 3 1 (some 5) == some (false, 0, west) &&
       s.readyHalf 1 0 2 (some 5) == some (false, 0, east) && (s.grp 1).grid == (s.grp 2).grid) ∧
    (let s := halves west east
     let s := s.setArr 0 3 { s.arr 0 3 with qh := [west], qn := [] }
     s.running 0 3 true == some (0, west) && s.readyHalf 0 3 1 (some 5) == some (true, 0, west) && s.readyHalf 1 0 2 (some 5) == some (false, 0, east)) ∧
    (let s : State := { (halves west east).setArr 0 3 { (halves west east).arr 0 3 with qh := [west], qn := [] } with now := 65536 }
     s.running 0 3 true == some (0, west) && decide (0 + s.pairTimeout 1 ≤ s.now) && sees s) ∧
    (let c := { open3 with started := true, closed := false, runs := [], bands := [] }
     let s : State := { queued [] none with now := 2 ^ 20 }
     let s := s.setArr 0 0 { s.arr 0 0 with qh := [c] }
     s.running 0 0 true == some (0, c) && decide (c.last + 2 ^ 20 ≤ s.now) && sees s) := by
  decide +kernel

/-! ### Tiles and ranked lists (R340 to R364) -/

/-- Thread 0 with lanes and tile 0. -/
def tiled (m : W32) (f : Nat → W32) (v : Tile) : State := (vec m f).setTile 0 0 { v with group := some 1 }

/-- R353 to R356, R361: 1 and -3 at scale -2; floor on a coarser scale; F on overflow; read-out; a block. -/
theorem test_tiles :
    goes (.xclr hS 0 (.imm 0xFFFE)) (tiled 1 (fun _ => 0) { entries := [(5, { i := 9 })], rows := [(1, { ranked := true })], dirty := true })
      (fun t => t.tile 0 0 == { group := some 1, scale := 0xFFFE, inuse := true } && t.me.pc == 0x10008) ∧
    goes (.xclr hS 2 .acc) s1 (traps 0x0F0) ∧
    goes (.xclr hS 0 .acc) (queued [cmdMx] none) (fun t => t.me.wait == .lock 0 && t.me.pc == 0x10000) ∧
    goes (.xadd hM .f32 0 (.imm 2 1) .va) (tiled 3 (fun i => if i = 0 then 0x3F800000 else 0xC0400000) { scale := 0xFFFE })
      (fun t => (t.tile 0 0).entries == [(544, { i := 4 }), (545, { i := -12 })] && (t.tile 0 0).dirty) ∧
    goes (.xadd hM .f32 0 (.imm 2 1) .va) (tiled 1 (fun _ => 0x7F800000) {}) (fun t => (t.tile 0 0).entries == [(544, { f := true })]) ∧
    goes (.xadd hM .f32 0 (.imm 2 1) .va) (tiled 1 (fun _ => 0) { rows := [(2, { ranked := true })] }) (traps 0x0F1) ∧
    goes (.xscale .always 0 (.imm 0)) (tiled 0 (fun _ => 0) { scale := 0xFFFE, entries := [(5, { i := 9 }), (6, { i := -9 })] })
      (fun t => (t.tile 0 0).entries == [(5, { i := 2 }), (6, { i := -3 })] && (t.tile 0 0).scale == 0) ∧
    goes (.xscale .always 0 (.imm 0xFFFF)) (tiled 0 (fun _ => 0) { entries := [(5, { i := 2 ^ 126 }), (6, { i := 1 })] })
      (fun t => (t.tile 0 0).entries == [(5, { i := 2 ^ 127, f := true }), (6, { i := 2 })]) ∧
    goes (.xscale .always 1 .none) (s1.setTile 0 1 { group := some 1, scale := 0x8000, inuse := true }) (fun t => t.me.a == 0x198000 && t.me.f == {}) ∧
    goes (.xscale .always 5 .none) s1 (fun t => t.me.a == 0 && t.me.f == { z := true }) ∧
    goes (.xrd hM .f32 .va 0 (.imm 2 1) false) (tiled 5 (fun _ => 7) { scale := 0xFFFE, entries := [(544, { i := 5 }), (546, { i := 1, f := true })] })
      (fun t => quad t 0x3FA00000 7 0x7FC00000 7 && (t.grp 1).rstat && (t.grp 1).fstat == 0) ∧
    goes (.xrd hM .f16 (.mem 0 .ind) 0 (.imm 0 0) false) (tiled 2 (fun _ => 0) { entries := [(1, { i := 3 })] }) (fun t => got t 0x100 6 == 0x42000000) ∧
    goes (.xthr .always (.row 1 5)) s1 (fun t => (t.grp 1).thsel == 0x885) ∧ goes (.xthr .always (.row 2 5)) s1 (traps 0x0F0) := by
  decide +kernel

theorem witness_TileInstructions :
    (s1.holdsTile 1 1 = true ∧ s1.tileLocked 0 1 = false ∧ s1.holdsTile 1 2 = false ∧ s1.me.drawn = none) ∧
    ((queued [cmdMx] none).holdsTile 1 0 = true ∧ (queued [cmdMx] none).tileLocked 0 0 = true) ∧
    runs (posOf (.imm 127 7)) s1.issued (fun rc u => rc == (127, 7) && u == s1.issued) ∧
    runs (vecSrc .va s1.me.vm opB) s1.issued (fun _ u => u == s1.issued && !(u.row u.myClus 0 127).ranked) ∧
    (((tiled 1 (fun _ => 0) { rows := [(2, { ranked := true })] }).row 0 0 2).ranked) ∧
    [Ty.f32, .f4, .pb 3].all (fun ty =>
      runs (vecAddr 0 .ind ty opA) s1.issued (fun x u1 => runs (locateBoth x opA (partBytes ty s1.me.vm) (vecParts ty s1.me.vm)) u1 (fun l u2 =>
        runs (loadPieces ⟨.plain, .co⟩ opA l.1) u2 (fun _ u3 =>
          let v := readSegment (u3.tile 0 0) ty (fun _ => .rne) (fun i => i) s1.me.vm
          u3.me.drawn == none && u3.holdsTile 1 0 && !u3.tileLocked u3.myClus 0 && !(u3.row u3.myClus 0 0).ranked && !u3.tileFlawed u3.myClus 0 &&
            runs (storePieces ⟨.plain, .co⟩ v.1 opA [] l.2) (u3.modThr u3.cur (fun t => { t with drawn := some (packDrawn v) })) yes)))) := by
  decide +kernel

/-- R348, R357 to R360: rank order, an index presented again, a full list, a NaN; a header; a merge. -/
theorem test_ranked_lists :
    goes (.xrankInit .always 0 (.imm 1 3)) (tiled 0 (fun _ => 0) { entries := [(768, { i := 1 }), (5, { i := 2 })] })
      (fun t => (t.row 0 0 3) == { ranked := true, logk := 1 } && (t.tile 0 0).entries == [(5, { i := 2 })] && (t.tile 0 0).dirty) ∧
    goes (.xrankInit .always 0 (.imm 6 3)) (tiled 0 (fun _ => 0) {}) (traps 0x0F3) ∧
    goes (.xrankIns hM 0 (.imm 3) .a) ((tiled 0xF (fun i => if i = 0 then 0x3F800000 else if i = 1 then 0xBF800000 else if i = 2 then 0x40000000 else 0x7FC00000)
        { rows := [(3, { ranked := true, logk := 1 })] }).modThr 0 (fun t => { t with a := 100 }))
      (fun t => t.row 0 0 3 == { ranked := true, logk := 1, ref := true, pairs := [(0xC0000000, 102), (0xBF800000, 100)] }) ∧
    goes (.xrankIns hM 0 (.imm 3) .a) s1 (traps 0x0F1) ∧
    goes (.xrankRd hM .a 0 (.imm 3)) (tiled 0 (fun _ => 0) { rows := [(3, { ranked := true, logk := 1, ref := true, pairs := [(9, 7)] })] })
      (fun t => t.me.a == 0x10101 && t.me.f == { z := true, v := true }) ∧
    goes (.xrankRd hM (.mem 0 .ind) 0 (.imm 3)) (tiled 0 (fun _ => 0) { rows := [(3, { ranked := true, pairs := [(9, 7)] })] })
      (fun t => got t 0x100 16 == 0x90000000700000000_00000001 && t.me.f == {}) ∧
    goes (.xrankMerge hM 0 (.imm 3) (.mem 0 .ind)) (words [0x10102, 0x8000000900000007, 0x8000000800000007] (tiled 0 (fun _ => 0) { rows := [(3, { ranked := true })] }))
      (fun t => t.row 0 0 3 == { ranked := true, ref := true, pairs := [(0x80000009, 7)] }) ∧
    goes (.xrankMerge hM 0 (.imm 3) (.mem 0 .ind)) (words [0x00001, 0xFF80000100000007] (tiled 0 (fun _ => 0) { rows := [(3, { ranked := true })] }))
      (fun t => t.row 0 0 3 == { ranked := true, ref := true }) ∧
    goes (.xrankMerge hM 0 (.imm 3) (.mem 0 .ind)) (words [0x00002] (tiled 0 (fun _ => 0) { rows := [(3, { ranked := true })] })) (traps 0x0F2) := by
  decide +kernel

theorem witness_RankedLists :
    (let r : Row := { ranked := true, logk := 1, pairs := [(0x80000009, 7), (0x80000009, 8)] }
     r.pairs.Pairwise (fun x y => ranksAbove x y = true ∧ x.2 ≠ y.2) ∧ r.pairs.length ≤ r.k ∧
     (r.present (0x8000000A, 8)).pairs = [(0x8000000A, 8), (0x80000009, 7)] ∧ (r.present (0x80000009, 3)).pairs = [(0x80000009, 3), (0x80000009, 7)] ∧
     (r.present (0x80000008, 3)).pairs = r.pairs ∧ nanKey 0xFF800001 ∧ nanKey 0x80000009 = false) ∧
    (s1.holdsTile 1 0 = true ∧ s1.tileLocked 0 0 = false ∧ s1.me.drawn = none ∧ (s1.row 0 0 3).ranked = false) ∧
    (let s := tiled 3 (fun _ => 0) { rows := [(3, { ranked := true, logk := 5 })] }
     (s.row 0 0 3).ranked && !s.tileFlawed 0 0 && runs (vecSrc (.mem 0 .ind) s.me.vm opB) s.issued (fun _ u => (u.row u.myClus 0 3).ranked) &&
     runs (listAddr 0 .ind opB) s.issued (fun x u1 => runs (locateParts x ⟨true, false⟩ opB listParts) u1 (fun ps u2 =>
       runs (loadPieces ⟨.plain, .co⟩ opB ps) u2 (fun b u => b == 0 && (u.row u.myClus 0 3).ranked))) &&
     runs (listAddr 0 .ind opA) s.issued (fun x u1 => runs (locateParts x ⟨false, true⟩ opA listParts) u1 (fun ps u => u.me.drawn == none && u.holdsTile 1 0 &&
       (u.row u.myClus 0 3).ranked && runs (storePieces ⟨.plain, .co⟩ (listRecord (u.row u.myClus 0 3)) opA [] ps)
         (u.modThr u.cur (fun t => { t with drawn := some (listRecord (u.row u.myClus 0 3)) })) yes))) := by
  decide +kernel

/-! ### Manifests, launches and grids (R371 to R391) -/

/-- A manifest of a STATE: entry 0x10000, words 0, 1 and 5 patchable, three groups. -/
def mfOf (st : Word) : List Word := (List.range 32).map (fun i => if i = 0 then 0x10000 else if i = 5 then 3 else if i = 18 then 0x23 else if i = 20 then st else 0)
/-- Manifest 5 of the berth, in a state with a code page. -/
def mfIn (w : List Word) : State := { coded with berths := [(0, { mfs := [(5, w)] })] }
def mf5 (t : State) (i : Nat) : Word := mfWord (t.mfWords 0 5) i

theorem test_manifests :
    goes (.mfPatch hL (.imm 5) 0 (.imm 0x10004)) (mfIn (mfOf 1)) (fun t => mf5 t 0 == 0x10004 && mf5 t 5 == 3 && t.me.pc == 0x10010) ∧
    goes (.mfPatch hM (.imm 5) 2 (.imm 1)) (mfIn (mfOf 1)) (traps 0x0E9) ∧ goes (.mfPatch hM (.imm 5) 0 (.imm 1)) (mfIn (mfOf 2)) (traps 0x0EA) ∧
    goes (.mfPatch hM .acc 0 (.imm 1)) (mfIn (mfOf 1)) (traps 0x0E8) ∧
    goes (.mfArm .always (.imm 5) false) (mfIn (mfOf 1)) (fun t => mf5 t 20 == 2 && t.me.a == 0 && t.me.f == { z := true, p := true }) ∧
    goes (.mfArm .always (.imm 5) false) (mfIn (mfSet (mfOf 1) 0 0x10004)) (fun t => mf5 t 20 == 1 && t.me.a == 1 && t.me.f == {}) ∧
    goes (.mfArm .always (.imm 5) false) (mfIn (mfSet (mfOf 1) 6 0x10000)) (fun t => t.me.a == 2) ∧
    goes (.mfArm .always (.imm 5) false) (mfIn (mfSet (mfOf 1) 6 0x1D000000)) (fun t => t.me.a == 3) ∧
    goes (.mfArm .always (.imm 5) false) (mfIn (mfSet (mfOf 1) 7 (11 * 2 ^ 26))) (fun t => t.me.a == 4) ∧
    goes (.mfArm .always (.imm 5) false) (mfIn (mfSet (mfOf 1) 10 0x1004)) (fun t => t.me.a == 5) ∧
    goes (.mfArm .always (.imm 5) true) (mfIn (mfOf 2)) (fun t => mf5 t 20 == 1 && t.me.f == { z := true, p := true }) := by
  decide +kernel

theorem witness_ManifestInstructions :
    runs (readSrc (.mem 0 .ind) 8 opB) (mfIn (mfOf 1)).issued (fun v u => v == 0 && mfState (u.mfWords 0 5) == 1) ∧
    ((mfWord (mfOf 1) 18).getLsbD 5 = true ∧ (mfWord (mfOf 1) 18).getLsbD 17 = false ∧ mfState (mfOf 2) = 2 ∧ mfState [] = 0) ∧
    (let s := mfIn (mfOf 1)
     s.armStatus 0 0 1 0 (mfOf 1) = 0 ∧ s.armStatus 0 0 1 0 (mfSet (mfOf 1) 13 0x10000) = 4) := by
  decide +kernel

/-- The launch of manifest 5 by thread 0. -/
def launched : State :=
  { mfIn (mfOf 2) with launches := [{ head := 0, thread := some 0, host := none, grid := gridOf (mfOf 2) 0 0 1 0 [] none }] }

/-- A launch of the tug of a tow is out of time while another member awaits a walk. -/
def lateTow : State :=
  { launched.modThr 16 (fun t => { t with wait := .walk, got := [none] }) with tows := (towed none).tows, now := 2 ^ 20 }

theorem test_launch :
    goes (.launchTimeout 0 .no) lateTow (fun t => t.launches == [] && (t.thr 0).wait == .trapping && (t.thr 0).err == some (0, 0x391) && (t.thr 0).pc == 0x10000) ∧
    goes (.launchOrder 0) lateTow (fun t => t.launches.length == 1) ∧
    goes (.launch hM (.imm 5) true 3) (mfIn (mfOf 2)) (fun t => t.me.wait == .launch && t.me.pc == 0x10000 && t.launches.length == 1 &&
      t.launches.all (fun l => l.grid.queue == 3 && l.grid.count == 3 && l.grid.launcher == some 1)) ∧
    goes (.launch hM (.imm 5) false 0) (mfIn (mfOf 1)) (traps 0x0EA) ∧
    goes (.launch hM (.imm 5) false 0) ((mfIn (mfOf 2)).modThr 0 (fun t => { t with sent := some (some 77) }))
      (fun t => t.me.a == 77 && t.me.f == { p := true } && t.me.pc == 0x1000C) ∧
    goes (.launchInd hM (.imm 5) (.mem 4 .ind)) (mfIn (mfOf 2)) (fun t => t.launches.all (fun l => l.grid.ind == some 0x40000) && t.launches.length == 1) ∧
    goes (.launchInd hM (.imm 5) (.mem 0 .ind)) (mfIn (mfOf 2)) (traps 0x0EB) ∧
    goes (.launchOrder 0) launched (fun t => t.launches == [] && t.me.sent == some (some 1) && (t.grid 1).ident == 1 && (t.grid 1).seed == 1 && (t.pkg 0).seq == 1) ∧
    goes (.launchTimeout 0 .no) { launched with now := 2 ^ 20 } (fun t => t.me.trap.cause == 0xF91 && t.launches == [] && !thas t.grids 1) ∧
    goes (.launchTimeout 0 .yes) { launched with now := 2 ^ 20 } (fun t => t.me.trap.cause == 0xF91 && thas t.grids 1) ∧
    goes (.launchTimeout 0 .no) { launched with now := 2 ^ 20 - 1 } (fun t => t.launches.length == 1) ∧
    goes (.gcancel .always) (acc 9) (fun t => (t.grid 9).abort == 2 && t.me.f == { p := true }) ∧
    goes (.gcancel .always) (acc 8) (fun t => (t.grid 9).abort == 0 && t.me.f == {}) ∧
    goes (.gabort .always) s1 (fun t => (t.grid 9).abort == 3) ∧
    goes (.gstat .always true false) (s1.modGrid 9 (fun g => { g with compl := 2, canc := 3, first := some 0x105 })) (fun t => t.me.a == 0xC000050500000005 && t.me.f == {}) ∧
    goes (.gstat .always false true) (acc 8) (fun t => t.me.a == 0 && t.me.f == { z := true }) ∧
    goes (.gridAbortDelivery 9 0) (s1.modGrid 9 (fun g => { g with abort := 2, dealt := [(0, [4, 5])] })) (fun t =>
      (t.grid 9).reached == [0] && (t.grid 9).held 0 == [] && (t.grid 9).canc == 2) := by
  decide +kernel

theorem witness_LaunchAndControl :
    ((s1.modThr 0 (fun t => { t with sent := some (some 77) })).me.sent = some (some 77) ∧ (mfIn (mfOf 2)).me.sent = none) ∧
    runs (specAddr 4 .postInc 4 4) (s1.modThr 0 (fun t => { t with sent := some (some 77) })).issued (fun _ u => u.me.sent == some (some 77)) ∧
    (mfState ((mfIn (mfOf 1)).mfWords 0 5) = 1 ∧ mfState ((mfIn (mfOf 1)).mfWords 0 6) = 0) ∧
    runs (releaseSteps .pd) (mfIn (mfOf 2)).issued (fun _ u =>
      (match u.findDeps (u.rootOf u.myGrp) u.myPkg (mfOf 2) [14, 16] with
        | .ok deps => deps == [] && (match u.enqueue (gridOf (mfOf 2) 0 0 1 0 deps none) with | .done v => !v.unrouted v.myPkg (v.headOf v.myPkg) | _ => false)
        | .error _ => false)) ∧
    (let s : State := { mfIn (mfOf 2) with parts := [(1, { regions := [(0, { bud := [inherits, inherits, inherits, inherits, inherits, inherits, inherits, 0, 0] })] })] }
     runs (releaseSteps .pd) s.issued (fun _ u => (match u.enqueue (gridOf (mfOf 2) 0 0 1 0 [] none) with | .noEntry => true | _ => false))) ∧
    (let s : State := { mfIn (mfOf 2) with parts := [(1, { regions := [(0, { bud := [inherits, inherits, inherits, inherits, inherits, inherits, inherits, 1, 0] })] })] }
     runs (releaseSteps .pd) s.issued (fun _ u => (match u.enqueue (gridOf (mfOf 2) 0 0 1 0 [{ loc := 0, val := 0 }] none) with | .noDep => true | _ => false))) ∧
    (launched.launches.find? (fun l => l.head == 0 && !launched.launchLate l) = launched.launches.head? ∧ launched.trapsNow 0 ∧
      launched.frozenFollower 0 = false ∧ launched.launches.find? (fun l => l.thread == some 0) ≠ none) ∧
    (let s := s1.modGrid 9 (fun g => { g with abort := 2, dealt := [(0, [4, 5])] })
     thas s.grids 9 && (s.grid 9).abort != 0 && (s.grid 9).st != .ended && (s.grid 9).reached == [] && (s.packagesOf 1).contains 0) ∧
    ((s1.grid 9).abort = 0 ∧ s1.liveGrid 9 (s1.grid 9).bk ∧ s1.liveGrid 8 (s1.grid 9).bk = false) ∧
    runs (specAddr 4 .ind 4 4) (mfIn (mfOf 2)).issued (fun x u0 => x.toNat % 4 == 0 && !x.getLsbD 55 && u0.me.sent == none &&
      runs (locate x 4 ⟨true, false⟩ opB) u0 (fun l u1 => u1.me.sent == none && mfState (u1.mfWords 0 5) == 2 &&
        runs (releaseSteps .pd) (u1.modThr u1.cur (fun t => { t with watch := some 5 })) (fun _ u =>
          (match u.findDeps (u.rootOf u.myGrp) u.myPkg (mfOf 2) [14, 16] with
            | .ok deps => (match u.enqueue { gridOf (mfOf 2) 0 0 1 0 deps (some l.1) with launcher := some u.myGrp } with
              | .done v => !v.unrouted v.myPkg (v.headOf v.myPkg)
              | _ => false)
            | .error _ => false)))) ∧
    (lateTow.trapsNow 0 = false ∧ lateTow.frozenFollower 0 = false ∧ lateTow.launches.all (fun l => decide (l.since + 2 ^ 20 ≤ lateTow.now))) := by
  decide +kernel

/-- Grid 9 as f leaves it. -/
def dealt (f : Grid → Grid) : State := s1.modGrid 9 f
/-- The key of partition 1 in the pod of configuration 1 with the head 0. -/
def podPart : Nat := 4096 * 65536 + 1
/-- A second package in the pod of the first, with a cluster of the partition, and the grids in the pod's partition. -/
def pair (s : State) : State :=
  let joins (p : Package) (q : Nat) : Package := { p with config := 1, highest := 1, members := [0, 1], head := some 0, fabricPorts := [0], routes := [(q, 0)] }
  { s with
    packages := [(0, joins (s.pkg 0) 1), (1, joins { phase := .full, slices := [{ part := 1, clusters := [0], units := [0], ports := [] }] } 0)]
    grids := s.grids.map (fun e => (e.1, { e.2 with part := podPart }))
    parts := s.parts.map (fun e => (podPart, e.2)) }

theorem test_dealing :
    goes (.dependenceSatisfied 9) (dealt (fun g => { g with st := .waiting, deps := [{ loc := 0x40000, val := 1, hit := true }] })) (fun t => (t.grid 9).deps == []) ∧
    goes (.dependenceSatisfied 9) (dealt (fun g => { g with st := .waiting, deps := [{ loc := 0x40000, val := 1 }] })) (fun t => (t.grid 9).deps.length == 1) ∧
    goes (.indirectCountRead 9) { dealt (fun g => { g with st := .waiting, ind := some 0x40000 }) with mem := memWrite [] 0x40000 [7, 1] } (fun t => (t.grid 9).count == 263 && (t.grid 9).ind == none) ∧
    goes (.dealingStart 9) (dealt (fun g => { g with st := .waiting })) (fun t => (t.grid 9).st == .dealing) ∧
    goes (.dealingStart 9) ((dealt (fun g => { g with st := .waiting })).setGrid 8 { part := 1, st := .dealt }) (fun t => (t.grid 9).st == .waiting) ∧
    goes (.dealingStart 9) ((dealt (fun g => { g with st := .waiting, ovl := true })).setGrid 8 { part := 1, st := .dealt }) (fun t => (t.grid 9).st == .dealing) ∧
    goes (.dealRound 9) (dealt (fun g => { g with st := .dealing, count := 10, next := 0 })) (fun t => (t.grid 9).held 0 == [0, 1, 2, 3] && (t.grid 9).next == 4 && (t.grid 9).st == .dealing) ∧
    shares 7 [(0, 2), (1, 1)] = [(0, 5), (1, 2)] ∧ shares 4 [(0, 1), (1, 2)] = [(0, 1), (1, 3)] ∧
    goes (.dealReclaim 9) (pair (dealt (fun g => { g with dealt := [(1, [4, 5, 6])] }))) (fun t => (t.grid 9).held 1 == [4, 5] && (t.grid 9).held 0 == [6]) := by
  decide +kernel

theorem witness_DealingSteps :
    (shares 4 [(0, 2), (1, 1)] = [(0, 3), (1, 1)]) ∧
    (let s := dealt (fun g => { g with st := .waiting, deps := [{ loc := 0x40000, val := 1, hit := true }], ind := some 0x40000 })
     (s.grid 9).st = .waiting ∧ (s.grid 9).deps ≠ [] ∧ (s.grid 9).deps.all (·.hit) ∧ s.holders = []) ∧
    (let s := dealt (fun g => { g with st := .waiting })
     thas s.grids 9 ∧ s.draining 0 = false ∧ (s.previous 9).isNone ∧ (s.grid 9).abort = 0) ∧
    (let s := (dealt (fun g => { g with st := .waiting })).setGrid 8 { part := 1, st := .dealt }
     ((s.previous 9).map (fun y => (y.st, (s.grid 9).ovl))) = some (.dealt, false)) ∧
    (let s := dealt (fun g => { g with st := .dealing, count := 10, next := 0 })
     s.eligible (s.grid 9) = [(0, 2)]) ∧
    (let s := pair (dealt (fun g => { g with dealt := [(1, [4, 5, 6])] }))
     s.eligible (s.grid 9) = [(0, 2)] ∧ s.packagesOf podPart = [0, 1] ∧ s.packagesOf 1 = [] ∧ (s.grid 9).count ≤ (s.grid 9).next) ∧
    (let s := (dealt (fun g => { g with st := .waiting })).setGrid 8 { part := 1, st := .waiting }
     (s.earlier 9).any (fun e => e.2.st == .waiting)) := by
  decide +kernel

/-- Index 7 of grid 9 is dealt to package 0; its manifest has two threads, ARGS 0x77 and a ring. -/
def placing : State :=
  { coded with
    nextGroup := 5
    grids := [(9, { part := 1, st := .dealt, count := 2, next := 2, dealt := [(0, [7, 8])], man := mfSet (mfSet (mfOf 2) 6 0x401) 3 0x77 })] }
/-- Thread 1 idle, a fork record of the group at core 1. -/
def forked : State :=
  ({ coded with codeMaps := coded.codeMaps }.modThr 1 (fun t => { t with live := false })).modCore 1 (fun c =>
    { c with deque := [{ group := 1, creator := 16, seq := 3, pc := 0x10008, a := 42, ptrs := .replicate 8 5 }] })
/-- Every thread of the group has ended. -/
def over1 : State := { s1 with threads := s1.threads.map (fun e => (e.1, { e.2 with live := false })) }
/-- Grid 9 is complete, with a completion word at 0x30000, which lies at 0x70000. -/
def done9 : State := walked.modGrid 9 (fun g => { g with count := 1, compl := 1, man := [0, 0, 0, 0, 0, 0, 0, 0, 0, 0, 0x30000] })
/-- Every thread moored for 2^20 cycles, the vector at 0x20000. -/
def still : State :=
  { s1 with now := 2 ^ 21, threads := s1.threads.map (fun e => (e.1, { e.2 with wait := .moored 4 0 5 0 0 })) }

theorem test_groups :
    goes (.groupPlace 0 1) placing (fun t => t.nextGroup == 6 && (t.grp 5).gid == 7 && (t.grid 9).held 0 == [8] && (t.grid 9).disp == 1 &&
      (t.grp 5).slots.length == 6 && ((t.grp 5).slots.map (fun k => ((t.thr k).live, (t.thr k).pc, (t.thr k).ptr 0, (t.thr k).a, (t.thr k).vm))) ==
        (List.range 6).map (fun i => (decide (i < 2), 0x10000, 0x77, BitVec.ofNat 64 i, 0xFFFFFFFF))) ∧
    goes (.forkSteal 1) forked (fun t => (t.thr 1).live && (t.thr 1).pc == 0x10008 && (t.thr 1).a == 42 && (t.thr 1).ptr 3 == 5 && (t.core 1).deque == [] && (t.thr 1).tid == 1) ∧
    goes (.groupRetire 1) over1 (fun t => (t.grp 1).st == .gone && t.threads == [] && (t.grid 9).compl == 1 && (t.bank 0 4).group == none && (t.tile 0 0).group == none) ∧
    goes (.groupRetire 1) s1 (fun t => (t.grp 1).st == .placed) ∧
    goes (.faultReportArrival 0) { s1 with reports := [{ grid := 9, cause := 0x105, gid := 4, package := 0 }] } (fun t =>
      t.reports == [] && (t.grid 9).first == some 0x105 && (t.grid 9).causes == [{ cause := 0x105, count := 1, lowest := 4, package := 0 }]) ∧
    goes (.gridComplete 9) { done9 with mem := memWrite done9.mem 0x70000 [0xFF] } (fun t => (t.grid 9).st == .ended && memBytes t.mem 0x70000 8 == [0, 1, 0, 0, 0, 0, 0, 0]) ∧
    goes (.gridComplete 9) (dealt (fun g => { g with count := 2, compl := 1 })) (fun t => (t.grid 9).st == .dealt) ∧
    goes (.gridAdrift 9) still (fun t => (t.thr 16).trap.cause == 0x301 && (t.thr 16).trap.einfo == 0x400000 && (t.thr 16).pc == 0x20000 && (t.thr 16).wait == .ready) := by
  decide +kernel

theorem witness_GroupsAndReports :
    ((placing.contenders 0 1).map (·.1) = [9] ∧ placing.savedFirst 0 1 (placing.rcb 1 0).prio = false) ∧
    (((placing.grid 9).scan 0).findSome? (fun ck => placing.fitsCharged (placing.grid 9) ck)).any (fun r => decide r.1.slots.Nodup && r.1.slots.all (fun e => decide (e.2 < 16)) &&
      (r.2.grid 9).held 0 == [7, 8]) ∧
    ((forked.thr 1).group = some 1 ∧ (forked.forksOf 1).length = 1 ∧ (forked.grp 1).st = .placed ∧ forked.idlest 1 = some 1 ∧
      0 ∉ (forked.grid 9).reached ∧ forked.startOk 1 0x10008) ∧
    (thas over1.groups 1 ∧ (over1.grp 1).slots.all (fun k => !(over1.thr k).live && !over1.inFlight k) ∧ over1.forksOf 1 = [] ∧ over1.opsOut 1 true = false ∧
      over1.writebacksOut 0 = false) ∧
    (({ s1 with reports := [{ grid := 9, cause := 0x105, gid := 4, package := 0 }] } : State).reports[0]?.isSome ∧ thas s1.grids 9) ∧
    (let c (i : Nat) : CauseSlot := { cause := BitVec.ofNat 10 i, count := 1, lowest := 4, package := 0 }
     (({ causes := (List.range 8).map c } : Grid).sum { grid := 9, cause := 0x105, gid := 4, package := 0 }).other = 1 ∧
     (({ causes := (List.range 8).map c } : Grid).sum { grid := 9, cause := 3, gid := 2, package := 0 }).causes[3]? = some { c 3 with count := 2, lowest := 2 }) ∧
    ((done9.grid 9).st = .dealt ∧ (done9.grid 9).compl + (done9.grid 9).canc = (done9.grid 9).count ∧ done9.clandWaits (done9.grid 9) = false ∧
      (done9.grid 9).word 12 = 0 ∧ done9.berthAt (done9.grid 9) 0x30000 ⟨true, true⟩ = some 0x70000 ∧ done9.holders = [] ∧ done9.landings = [] ∧ Memory.wf done9.mem) ∧
    (still.adrift 9 ∧ still.yieldsCycle = false ∧ (still.port 0 0).entries = [] ∧ still.threads.any (fun e => e.1 == 16 && e.2 == still.thr 16) ∧ still.towOf 16 = none ∧ (still.thr 16).trap.h = false) := by
  decide +kernel

/-! ### Pre-emption and restore (R234 to R239, R440) -/

/-- A group of grid 10, in a region of priority 3, waits for array 0, which group 1 holds; the partition has cluster 0 only. -/
def waiting : State :=
  { s1.setArr 0 0 { group := some 1 } with
    now := 65536
    packages := [(0, { phase := .full, slices := [{ part := 1, clusters := [0], units := [0], ports := [] }] })]
    parts := [(1, { regions := [(1, { prio := 3 })] })]
    grids := s1.grids ++ [(10, { part := 1, region := 1, st := .dealt, count := 1, next := 1, dealt := [(0, [0])], man := mfSet (mfOf 2) 6 (2 ^ 60) })] }
/-- Group 1 drains; p4 of thread 0 names its own placement. -/
def draining : State :=
  ({ s1 with groups := [(1, { (s1.grp 1) with st := .saving, gtag := 3, saveUnits := 17 })] }).modThr 0 (fun t =>
    { t with a := 99, ptrs := t.ptrs.set 4 (0x00B0000000000000 + 3 * 2 ^ 24 + 0x100) })

theorem test_preemption :
    goes (.preemption 1) waiting (fun t => (t.grp 1).st == .saving && (t.grp 1).savingSince == 65536 && (t.grp 1).saveUnits == 17 && (t.rcb 1 0).used.getD 4 0 == 17) ∧
    goes (.preemption 1) { waiting with now := 65535 } (fun t => (t.grp 1).st == .placed) ∧
    goes (.drainLimitExpiry 1) draining (fun t => (t.grp 1).st == .saved && t.threads == [] &&
      goes (.groupRestore 1 1) t (fun u => (u.grp 1).st == .placed && (u.grp 1).cluster == 1 && (u.thr ((u.grp 1).slots.getD 0 0)).a == 99 &&
        (u.thr ((u.grp 1).slots.getD 0 0)).ptr 4 == 0x00B0040000000100)) ∧
    goes (.drainLimitExpiry 1) (draining.modCore 0 (fun c => { c with fifo := [req0] })) (fun t => (t.grp 1).st == .saving) ∧
    goes (.drainLimitExpiry 1) { draining.modCore 0 (fun c => { c with fifo := [req0] }) with now := 2 ^ 18 } (fun t => (t.grp 1).st == .saved) := by
  decide +kernel

/-- Group 1 drains, and holds an armed request. -/
def drainingArmed : State :=
  ((draining.modGrid 9 (fun g => { g with man := [0, 0x20000, 0, 0, 0x30000, 0, 0x3000000] })).modThr 0 (fun t =>
    t.setHandle 2 { st := .pending, seq := 1 })).modClus 0 (fun c => { c with armed := [{ req := req0, loc := bankLoc 0 4 0xA00, gen := 1 }] })

/-- R235, R236, R280: the handle of an armed request is complete in the save image and pending after the restore. -/
theorem test_armed_saved :
    goes (.drainLimitExpiry 1) drainingArmed (fun t =>
      (match (t.grp 1).save with
        | some v => v.armed.map (·.1.req.thread) == [0] && v.threads.all (fun e => (e.2.handle 2).st == .complete)
        | none => false) &&
      goes (.groupRestore 1 1) t (fun u => (u.handleOf ((u.grp 1).slots.getD 0 0) 2).st == .pending && (u.clus 1).armed.length == 1)) := by
  decide +kernel

theorem witness_SaveAndRestore :
    ((waiting.victim 1).isSome ∧ waiting.groups.length = 1) ∧
    (let x := draining.grp 1
     x.st == .saving && x.slots.all (fun k => !draining.flying k && !draining.inFlight k) && !draining.writebacksOut 0 &&
       x.arrays.all (fun a => (draining.arr 0 a).all.isEmpty) && !draining.opsOut 1 true) ∧
    goes (.drainLimitExpiry 1) draining (fun t => [0, 1].all (fun ck => (match (t.grp 1).save, t.fitsSavedCharged 1 ck with
      | some v, some (p, _, _) => decide p.slots.Nodup && p.slots.all (fun e => decide (e.2 < 16)) && v.threads.length == p.slots.length
      | _, _ => false))) ∧
    (rewrite 0 3 1 7 0xABB0000003000100 = 0xABB0040007000100 ∧ rewrite 0 3 1 7 0xABB0000004000100 = 0xABB0000004000100) := by
  decide +kernel

/-! ### The wake (R402 to R427) -/

/-- The code page carries a wake copy at 0x60000; slot 1 holds a word. -/
def waked (w : Nat) : State :=
  { coded with
    codeMaps := [{ root := 0, va := 0x10000, size := 16, frame := 0x50000, first := 0, starts := List.range 64, wake := some 0x60000 }]
    mem := memWrite [] 0x60008 (leBytes w 8) }
/-- Slot 1 has been read. -/
def read1 (w : Nat) : State := (waked w).modThr 0 (fun t => { t with sent := some (some (BitVec.ofNat 64 w)) })
def upd (o : WakeObs) : WakeUpd := { loc := 0x60008, copy := 0x60000, thread := (some 1, 0), order := 0, obs := o }
def sending (n : Nat) (s : State) : State := s.modClus 0 (fun c => { c with wakeQ := List.replicate n (upd .taken) })
def slot1 (t : State) : Nat := leVal (memBytes t.mem 0x60008 8)

/-- R406 to R409: a majority; ageing; eighths; a run mean; a long loop. -/
theorem test_wake_slots :
    (Slot.ofWord 0x0).note (.branch true) = ⟨1, 1, 1, 1, 1⟩ ∧ (Slot.ofWord 0x0101000100010001).note (.branch false) = ⟨2, 0, 2, 1, 2⟩ ∧
    (Slot.ofWord 0xFF00000080007FFF).note (.branch true) = ⟨0, 1, 1, 0x8001, 0x8000⟩ ∧ (Slot.ofWord 0x0000000080007FFF).e = 0x7FFF ∧
    (Slot.ofWord 0x000000008000FFFF).note (.branch true) = ⟨1, 1, 1, 0x4001, 0x8000⟩ ∧
    (Slot.ofWord 0x0000000000020007).note (.load true 0xABCD) = ⟨1, 3, 0xABCD, 3, 8⟩ ∧
    (Slot.ofWord 0x0000FFFF00000000).note .taken = ⟨1, 0, 0xFFFF, 0, 0⟩ ∧ (Slot.ofWord 0x0000000500000000).note .fell = ⟨1, 0, 0, 6, 1⟩ ∧
    (Slot.ofWord 0x0000000500060001).note .fell = ⟨1, 1, 0, 6, 2⟩ ∧ (Slot.ofWord 0x0000000000400001).note (.run 0x40) = ⟨1, 3, 0, 0x40, 2⟩ := by
  decide +kernel

theorem test_wake :
    goes (.wakeUpdatePerform 0) (sending 2 (waked 5)) (fun t => slot1 t == 0x0100000100000005 && (t.clus 0).wakeQ.length == 1) ∧
    goes (.wakeDropFlush 0 0x60000) ((waked 0).modClus 0 (fun c => { c with wakeDrops := [(0x60000, 3)] })) (fun t => memBytes t.mem 0x60000 8 == [0, 0, 0, 0, 3, 0, 0, 0] && (t.clus 0).wakeDrops == []) ∧
    goes (.wakeReadFill 0) ((waked 5).modThr 0 (fun t => { t with wait := .miss, sent := some none, watch := some 0x60008 })) (fun t => t.me.sent == some (some 5)) ∧
    goes (.wsel .always 1 3 8) (read1 0x0002000000000000) (fun t => t.me.pc == 0x10060) ∧ goes (.wsel .always 1 3 8) (read1 0x0004000000000000) (fun t => t.me.pc == 0x10020) ∧
    goes (.wbr .always 1 4 8) (read1 0x0004000000000000) (fun t => t.me.pc == 0x10020) ∧ goes (.wbr .always 1 4 8) (read1 0x0003000000000000) (fun t => t.me.pc == 0x1000C) ∧
    goes (.wbr .always 1 4 8) (waked 0) (fun t => t.me.wait == .miss && t.me.watch == some 0x60008) ∧
    goes (.wpf .always 1 .l1 4 .ind 64) (read1 0x0003000000000000) (fun t => ((t.core 0).prefetch.map (·.va)) == [0x10000, 0x10080] && t.me.pc == 0x1000C) ∧
    goes (.wunr .always .ui32 (.imm 11) false 1 3) (read1 0x0002000000000000) (fun t => t.me.lc == 2 && t.me.a == 3 && t.me.f == { p := true }) ∧
    goes (.wunr .always .ui32 (.imm 11) true 1 1) (read1 0x0002000000000000) (fun t => t.me.lc == 5 && t.me.a == 1 && (t.clus 0).wakeQ == [upd (.run 11)]) ∧
    goes (.wrd .always 1) (waked 0) (fun t => t.me.a == 0 && t.me.f == { z := true }) ∧ goes (.wrd .always 1) (waked 7) (fun t => t.me.a == 7 && t.me.f == {}) ∧
    goes (.wnote .always .ui32 .load (.imm 0x50001) 1) (waked 0) (fun t => (t.clus 0).wakeQ == [upd (.load true 5)]) ∧
    goes (.wnote .always .ui32 .loop (.imm 0x50001) 1) (waked 0) (fun t => (t.clus 0).wakeQ == [upd (.run 0xFFFF)]) := by
  decide +kernel

/-- Slot 1 has an uncorrectable error (R413). -/
def badSlot : State := { (sending 1 (waked 5)).modThr 0 (fun t => { t with wait := .miss, sent := some none, watch := some 0x60008 }) with flaws := [0x6000C] }

theorem test_bad_slot :
    goes (.wakeReadFill 0) badSlot (fun t => t.me.sent == some (some 0)) ∧
    goes (.wakeUpdatePerform 0) badSlot (fun t => slot1 t == ((Slot.ofWord 0).note .taken).toWord.toNat && t.readError 0x60008 8 == none) ∧
    goes (.wrd .always 1) { waked 5 with flaws := [0x60008] } (fun t => t.me.a == 0 && t.me.f == { z := true }) := by
  decide +kernel

theorem witness_WakeSteps :
    (badSlot.poison = [] ∧ badSlot.holders = [] ∧ badSlot.landings = [] ∧ Memory.wf badSlot.mem ∧ badSlot.olderUpdate (some 1, 0) 0x60008 0 = false ∧
      (badSlot.clus 0).wakeQ = [upd .taken]) ∧
    ((waked 5).wakeBase 0 = some 0x60000 ∧ ((sending 31 (waked 5)).clus 0).wakeQ.length = 31 ∧ ((sending 32 (waked 5)).clus 0).wakeQ.length = 32) ∧
    ((sending 2 (waked 5)).olderUpdate (some 1, 0) 0x60008 0 = false ∧
      ((sending 2 (waked 5)).modClus 1 (fun c => { c with wakeQ := [upd .fell] })).olderUpdate (some 1, 0) 0x60008 1 = true) ∧
    ((waked 5).flaws = [] ∧ (waked 5).poison = [] ∧ (waked 5).holders = [] ∧ (waked 5).landings = [] ∧ Memory.wf (waked 5).mem) ∧
    (tget (((waked 0).modClus 0 (fun c => { c with wakeDrops := [(0x60000, 3)] })).clus 0).wakeDrops 0 0x60000 = 3) ∧
    ((read1 5).me.sent = some (some 5) ∧ (waked 5).me.sent = none ∧
      ((waked 5).modClus 0 (fun c => { c with wakeCache := [{ loc := 0x60008, val := 5, time := 0 }] })).cached 0 0x60008 = some { loc := 0x60008, val := 5, time := 0 }) := by
  decide +kernel

theorem witness_WakeInstructions :
    alone (read1 0) ∧ runs (wakeRead 1) (read1 0x0007000000000000).issued (fun v u => v == 0x0007000000000000 && u.startOk u.myGrp 0x10020 && !u.startOk u.myGrp 0x10200) ∧
    runs (wakeRead 1) (read1 0x00FF000000000000).issued (fun _ u => runs (specAddr 4 .ind (2 ^ 24 - 1) (2 ^ 24 - 1)) u yes) ∧
    runs (readSrc (.imm 11) 4 opA) (read1 0x0002000000000000).issued (fun _ u => runs (sharedDec 1) u (fun d _ => d == 2)) ∧
    ((waked 0).olderUpdate ((waked 0).me.group, (waked 0).me.tid) 0x60008 (waked 0).moorings = false ∧ (waked 0).wakeBase 0 = some 0x60000) ∧
    runs (readSrc .a 4 opA) (waked 0).issued yes := by
  decide +kernel

/-! ### The host, Keel and packages (R436 to R470)

What depends on a signature or a digest is open: either case of such a hypothesis is met by some value of the constant. -/

/-- Berth 0 of package 0, and its physical function. -/
def cb : Cmd := { package := 0, berth := some 0, tag := 7 }
def cp : Cmd := { package := 0, berth := none, tag := 7 }
/-- s with a command of an opcode at the head of its issuer's ring; the berth is bound to region 0 of partition 1. -/
def command (c : Cmd) (opc : Byte) (s : State) : State :=
  let b := { s.berth (cmdKey c) with crbase := 0x1000, crsize := 4, crtail := 1, erbase := 0x2000, ersize := 4 }
  { s.setBerth (cmdKey c) (if c.berth.isSome then { b with bound := some (1, 0), trust := 1, cls := 1 } else b) with
    hostMem := memWrite [] 0x1000 [opc, 0, 7, 0] }
/-- The command is the next that Keel performs, and its issuer may issue it. -/
def ready (c : Cmd) (opc : Byte) (who : Issuer) (s : State) : Bool :=
  Memory.wf s.mem && Memory.wf s.hostMem && !s.silent c.package && s.cmdReady c (· == opc) && s.refusal c who == none

theorem ready_takes {c : Cmd} {opc : Byte} {who : Issuer} {s : State} (h : ready c opc who s = true) : s.takes c opc who := by
  simp only [ready, Bool.and_eq_true, Bool.not_eq_true', beq_iff_eq] at h
  exact ⟨h.1.1.1.1, h.1.1.1.2, h.1.1.2, h.1.2, h.2⟩

/-- The completion with a STATUS is the first entry of the event ring, and CRHEAD has passed the command. -/
def answered (c : Cmd) (st : Byte) (t : State) : Bool :=
  (t.berth (cmdKey c)).crhead == 1 && (t.berth (cmdKey c)).ertail == 1 && memBytes t.hostMem 0x2000 8 == [7, 0, 0, st, 0, 0, 0, 0]
/-- As `answered`, where the bytes of an open RESULT stand beside it. -/
def passed (c : Cmd) (t : State) : Bool := (t.berth (cmdKey c)).crhead == 1 && (t.berth (cmdKey c)).ertail == 1

/-- A state without grids and groups. -/
def quiet : State := { walked with grids := [], groups := [], threads := [] }

theorem test_identity :
    goes (.identify cb 0x8000) { command cb 0x01 s1 with packages := [(0, { phase := .full, enabled := [1, 2, 5], retired := [0, 0x10000] })] }
      (fun t => passed cb t) ∧
    goes (.identify cb 0x8000) (command cb 0x02 s1) (fun t => (t.berth 0).crhead == 0) ∧
    goes (.identify cb 0x8000) { command cb 0x01 s1 with packages := [] } (fun t => (t.berth 0).crhead == 0) ∧
    goes (.attest cb [] 0x8000) (command cb 0x02 s1) (passed cb) ∧
    goes (.unknownCommand cb 0x7F) (command cb 0x7F s1) (passed cb) ∧
    goes (.setLimits cb 1 5 6) (command cb 0x13 s1) (fun t => passed cb t && (t.pkg 0).slices.all (fun x => x.drain == 2 ^ 18)) := by
  decide +kernel

theorem witness_CommandRefusalAndIdentity :
    (({ s1 with packages := [] } : State).pkg 0).phase = .off ∧ s1.cmdReady cb (· == 0x01) = false ∧
    ((command cb 0x13 s1).cmdReady cb (· == 0x13) ∧ (command cb 0x13 s1).refusal cb .pf = some 2 ∧ (command cp 0x30 s1).refusal cp .berth = some 2) ∧
    ({ command cb 0x30 s1 with packages := [(0, { phase := .full, recordOk := false })] } : State).refusal cb .berth = some 5 ∧
    (ready cb 0x01 .any (command cb 0x01 s1) ∧ ready cb 0x02 .any (command cb 0x02 s1) ∧ ready cp 0x90 .pf (command cp 0x90 s1)) ∧
    (ready cb 0x7F .berth (command cb 0x7F s1) ∧ ready cp 0x7F .pf (command cp 0x7F s1) ∧ 0x7F ∉ knownOpcodes) := by
  decide +kernel

/-- The page of 0x30000 is executable, so its frame is locked. -/
def lockedHost (opc : Byte) : State :=
  { command cb opc walked with codeMaps := [{ root := 0, va := 0x30000, size := 16, frame := 0x70000, first := 0, starts := [] }] }

/-- R446, R447, R203, R445. -/
theorem test_host :
    goes (.crtailDoorbell 0 0 17 [(0x3000, [5])]) (command cb 0x01 s1) (fun t => (t.berth 0).crtail == 1 && memGet t.hostMem 0x3000 == 5) ∧
    goes (.erheadWrite 0 0 3) ((command cb 0x01 s1).modBerth 0 (fun b => { b with ertail := 2, erhead := 3, events := [0x99] }))
      (fun t => (t.berth 0).events == [0x99]) ∧
    goes (.erheadWrite 0 0 4) ((command cb 0x01 s1).modBerth 0 (fun b => { b with ertail := 2, erhead := 3, events := [0x99] }))
      (fun t => (t.berth 0).events == [] && (t.berth 0).ertail == 3 && memGet t.hostMem 0x2020 == 0x99) ∧
    goes (.bar0RegisterWrite 0 0 0x000 0x107F) s1 (fun t => (t.berth 0).crbase == 0x1040) ∧
    goes (.bar0RegisterWrite 0 0 0x020 0x107F) s1 (fun t => (t.berth 0).erbase == 0x1070) ∧
    goes (.bar0RegisterWrite 0 0 0x000 0x1000) ((command cb 0x01 s1).modBerth 0 (fun b => { b with crbase := 5 })) (fun t => (t.berth 0).crbase == 5) ∧
    goes (.hostWrite 0 0 0x30004 [1, 2] .posted) walked (fun t => memBytes t.mem 0x70003 4 == [0, 1, 2, 0] && (t.berth 0).answer == none) ∧
    goes (.hostWrite 0 0 0x3007F [1, 2] .mem) walked (fun t => memBytes t.mem 0x7007E 4 == [0, 1, 2, 0] && (t.berth 0).answer == some .normal) ∧
    [(HostReq.posted, none), (.nonPosted, some HostAnswer.completerAbort), (.mem, some .normal)].all (fun e =>
      goes (.hostWrite 0 0 0x30004 [1, 2] e.1) (lockedHost 0) (fun t => memBytes t.mem 0x70004 2 == [0, 0] && (t.berth 0).answer == e.2 &&
        memBytes t.hostMem 0x2000 16 == [0, 0, 2, 0, 0, 0, 0, 0, 4, 0, 7, 0, 0, 0, 0, 0])) ∧
    goes (.hostWrite 0 0 0x30004 [1, 2] .posted) { walked with eager := false } (fun t => t.mem == walked.mem &&
      goes (.send (.host 0)) t (fun u => goes (.deliver (.host 0) (u.homeOf 0x70004)) u (fun v => memBytes v.mem 0x70004 2 == [1, 2] && v.chans == []))) ∧
    goes (.hostRead 0 0 0x30004 3) { walked with mem := memWrite walked.mem 0x70005 [9] } (fun t => (t.berth 0).reply == [0, 9, 0]) := by
  decide +kernel

theorem witness_HostAccesses :
    (s1.silent 0 = false ∧ ({ s1 with packages := [] } : State).silent 0 = true ∧
      goes (.bar0RegisterWrite 0 0 0x000 0x1040) { s1 with packages := [(0, { phase := .boot })] } (fun t => (t.berth 0).crbase == 0)) ∧
    ((s1.berth 0).events = [] ∧ (s1.berth 0).crhead = (s1.berth 0).crtail ∧ ((command cb 0x01 s1).berth 0).crhead ≠ ((command cb 0x01 s1).berth 0).crtail) ∧
    (let s := (command cb 0x01 s1).modBerth 0 (fun b => { b with ertail := 2, erhead := 3, events := [0x99] })
     Memory.wf s.hostMem && (s.berth 0).events == [0x99] && !Berth.eventsFull { s.berth 0 with erhead := 4 }) ∧
    ((0x3FFFE : Nat) % 128 + 2 ≤ 128 ∧ ((match walked.walk 0 0x3FFFE with
      | .leaf l => l.pa == 0x70000 && l.rd && l.wr && l.size == 16 && !walked.locked 0x7FFFE
      | _ => false) : Bool)) ∧
    (walked.sameDomain 0 (paPkg 0x7FFFE) = true ∧ walked.unrouted 0 (paPkg 0x7FFFE) = false ∧ walked.eager = true ∧
      walked.hostPending 0 0 = false ∧ (lockedHost 0).locked 0x7FFFE) ∧
    (walked.holders = [] ∧ walked.landings = [] ∧ Memory.wf walked.mem ∧ walked.readError 0x7FFFE 2 = none) := by
  decide +kernel

/-- A function-level reset of berth 3 is under way. -/
def resetting3 (s : State) : State := s.modBerth 3 (fun b => { b with resetting := some none })

/-- R436, R437, R378, R442, R449. -/
theorem test_partitions :
    goes (.partCreate cp ⟨2, [3, 2], [5], [1]⟩) (command cp 0x10 s1) (fun t => passed cp t && (t.pkg 0).slices.length == 2 &&
      (t.pkg 0).slices.contains { part := 2, clusters := [2, 3], units := [5], ports := [1] }) ∧
    goes (.partCreate cp ⟨2, [1], [5], []⟩) (command cp 0x10 s1) (fun t => passed cp t && (t.pkg 0).slices.length == 1) ∧
    goes (.partCreate cp ⟨2, [], [5], []⟩) (command cp 0x10 s1) (fun t => passed cp t && (t.pkg 0).slices.length == 1) ∧
    goes (.partDestroy cp 1) (command cp 0x11 s1) (fun t => passed cp t && (t.pkg 0).slices.length == 1) ∧
    goes (.partDestroy cp 1) (command cp 0x11 { quiet with roots := [] }) (fun t => passed cp t && (t.pkg 0).slices == [] && t.mem == []) ∧
    goes (.setLimits cp 1 5 6) (command cp 0x13 s1) (fun t => passed cp t && (t.pkg 0).slices.map (·.drain) == [5] && (t.part 1).delay == 6) ∧
    goes (.setLimits cp 2 5 6) (command cp 0x13 s1) (fun t => passed cp t && (t.pkg 0).slices.map (·.drain) == [2 ^ 18]) ∧
    goes (.fabricConfig cp ⟨4, [0, 1], 1, [(0, 2)], [3, 99], [(1, 3)]⟩) (command cp 0x14 quiet) (fun t => passed cp t && (t.pkg 0).config == 4 &&
      (t.pkg 0).head == some 1 && (t.pkg 0).fabricPorts == [3] && (t.pkg 0).domain == 4 && !t.unrouted 0 1 && t.unrouted 0 2 &&
      t.parts.map (·.1) == [(4 * 4096 + 1) * 65536 + 1]) ∧
    goes (.fabricConfig cp ⟨4, [1, 2], 1, [], [], []⟩) (command cp 0x14 quiet) (fun t => passed cp t && (t.pkg 0).config == 0) ∧
    goes (.fabricConfig cp ⟨4, [0, 1, 4096], 1, [], [], []⟩) (command cp 0x14 quiet) (fun t => passed cp t && (t.pkg 0).config == 0) ∧
    goes (.fabricConfig cp ⟨4, [0, 1], 1, [], [], []⟩) (command cp 0x14 s1) (fun t => passed cp t && (t.pkg 0).config == 0) ∧
    goes (.berthBind cp 3 1 1 2 3) (command cp 0x12 quiet) (fun t => passed cp t && (t.berth 3).bound == some (1, 1) && (t.berth 3).trust == 2) ∧
    goes (.berthBind cp 3 1 1 2 3) (resetting3 (command cp 0x12 quiet)) (fun t => passed cp t && (t.berth 3).bound == none) ∧
    goes (.fabricConfig cp ⟨4, [0, 1], 1, [], [], []⟩) (command cp 0x14 quiet) (fun t => (t.pkg 0).config == 4 && (t.pkg 0).domain == 1) ∧
    goes (.functionLevelReset 0 0) (mfIn (mfOf 2)) (fun t => (t.berth 0).mfs.length == 1 && (t.grid 9).next == (t.grid 9).count) ∧
    goes (.functionLevelReset 0 0) { mfIn (mfOf 2) with grids := [] } (fun t => (t.berth 0).mfs == [] && (t.berth 0).resetting == none) := by
  decide +kernel

theorem witness_PartitionCommands :
    (ready cp 0x10 .pf (command cp 0x10 s1) ∧ ready cp 0x11 .pf (command cp 0x11 s1) ∧ ready cp 0x12 .pf (command cp 0x12 s1) ∧
      ready cp 0x13 .pf (command cp 0x13 s1) ∧ ready cp 0x14 .pf (command cp 0x14 quiet)) ∧
    ((3 : Nat) ∈ (s1.pkg 0).enabled ∧ 31 ∈ (s1.pkg 0).ports ∧ (143 : Nat) < 144 ∧ 64 ∉ (s1.pkg 0).enabled ∧ (s1.pkg 0).slices.length = 1) ∧
    ((s1.pkg 0).slices.find? (fun y => y.part == 1) ≠ none ∧ s1.partBusy 1 = true ∧ quiet.partBusy 1 = false ∧ (s1.pkg 0).slices.find? (fun y => y.part == 2) = none) ∧
    ((s1.pkg 0).slices.any (fun y => y.part == 1) ∧ (s1.pkg 0).slices.all (fun y => y.part != 2)) ∧
    (podOk ⟨4, [0, 1], 1, [(0, 2)], [3, 99], [(1, 3)]⟩ 0 = true ∧ podOk ⟨4, [1, 2], 1, [], [], []⟩ 0 = false) ∧
    ((quiet.pkg 0).highest < 2 ^ 24 - 1 ∧ quiet.slack 0 = false ∧ quiet.grids = [] ∧ quiet.launches = [] ∧
      (quiet.pkg 0).slices.all (fun y => !quiet.partBusy (quiet.partKey 0 y.part)) ∧ quiet.domainRoom ⟨4, [0, 1], 1, [(0, 2)], [3, 99], [(1, 3)]⟩ 0 = true ∧
      (s1.pkg 0).slices.any (fun y => s1.partBusy (s1.partKey 0 y.part))) ∧
    (((resetting3 quiet).berth 3).resetting ≠ none ∧ ready cp 0x12 .pf (resetting3 (command cp 0x12 quiet))) ∧
    ((quiet.berth 255).resetting = none ∧ quiet.images = [] ∧ s1.grids.any (fun e => e.2.bk == 0 && e.2.st != .ended)) := by
  decide +kernel

/-- Regions 1 and 2 of partition 1, 2 below 1; budget 4 of region 1 is 10. -/
def regioned : State :=
  { s1 with parts := [(1, { regions := [(1, { bud := [inherits, inherits, inherits, inherits, 10] }), (2, { parent := 1, fd := true, used := [0, 0, 0, 0, 3] })] })] }
/-- A command of a berth that is bound to region 1. -/
def bound1 (opc : Byte) (s : State) : State := (command cb opc s).modBerth 0 (fun b => { b with bound := some (1, 1) })

/-- R438, R439, R441. -/
theorem test_regions :
    goes (.regionWrite cb ⟨3, 2, false, 5, List.replicate 9 0⟩) (bound1 0x20 regioned) (fun t => passed cb t && (t.rcb 1 3).parent == 2 && (t.rcb 1 3).prio == 5) ∧
    goes (.regionWrite cb ⟨3, 2, false, 8, List.replicate 9 0⟩) (bound1 0x20 regioned) (fun t => passed cb t && !thas (t.part 1).regions 3) ∧
    goes (.regionWrite cb ⟨3, 0, false, 5, List.replicate 9 0⟩) (bound1 0x20 regioned) (fun t => passed cb t && !thas (t.part 1).regions 3) ∧
    goes (.regionRemove cb 2) (bound1 0x21 regioned) (fun t => passed cb t && thas (t.part 1).regions 2) ∧
    goes (.regionRemove cb 2) (bound1 0x21 { s1 with parts := [(1, { regions := [(1, {}), (2, { parent := 1 })] })] }) (fun t => passed cb t && !thas (t.part 1).regions 2) ∧
    ((regioned.charge 1 4 2 10).map (fun t => (t.used 1 4 2, t.used 1 4 1)) = none) ∧
    ((regioned.charge 1 4 2 7).map (fun t => (t.used 1 4 2, t.used 1 4 1)) = some (10, 7)) ∧
    goes (.errDomain 1 0 0x382) { s1 with untold := [(1, 0, 0x382)] } (fun t => (t.grid 9).abort == 3 && t.untold == []) ∧
    goes (.errDomain 1 0 0x382) { command cb 0 s1 with untold := [(1, 0, 0x382)] } (fun t => (t.berth 0).ertail == 1 &&
      memBytes t.hostMem 0x2000 16 == [0, 0, 3, 0, 0, 0, 0, 0, 0x82, 3, 0, 0, 0, 0, 0, 0]) ∧
    goes (.errDomain 1 0 0x382) s1 (fun t => (t.grid 9).abort == 0) := by
  decide +kernel

theorem witness_RegionCommands :
    (let s := command cb 0 s1
     (s.berths.filter (fun e => match e.2.bound with
       | some (p, q) => p == 1 && s.within 1 q (s.faultDomain 1 0)
       | none => false)).map (·.1) == [0] && Memory.wf s.hostMem && (s.berth 0).events == [] && !(s.berth 0).eventsFull) ∧
    (ready cb 0x20 .berth (bound1 0x20 regioned) ∧ ready cb 0x21 .berth (bound1 0x21 regioned)) ∧
    (regioned.within 1 2 1 = true ∧ regioned.within 1 1 2 = false ∧ thas (regioned.part 1).regions 65535 = false ∧ regioned.within 1 0 1 = false) ∧
    (regioned.rcb 1 2).used.any (· ≠ 0) ∧
    (let s := bound1 0x21 { s1 with parts := [(1, { regions := [(1, {}), (2, { parent := 1 })] })] }
     ready cb 0x21 .berth s && thas (s.part 1).regions 2 && s.within 1 2 1 && !(s.rcb 1 2).used.any (· ≠ 0) && !(s.part 1).regions.any (fun e => e.2.parent == 2)) ∧
    ((regioned.ancestors 1 2).Nodup ∧ regioned.budget 1 4 2 = some 10 ∧ regioned.used 1 4 2 + 7 ≤ 10) ∧
    (s1.within 1 (s1.grid 9).region (s1.faultDomain 1 0) ∧ (s1.grid 9).st ≠ .ended ∧
      (1, 0, 0x382) ∈ ({ s1 with untold := [(1, 0, 0x382)] } : State).untold) := by
  decide +kernel

/-- A data page at 0x40000, which stands in the table that holds the page of 0x30000. -/
def mapQ : MapReq := { va := 0x40000, level := 4, pages := 1, rd := true, wr := true, ex := false, uc := false, back := 0, contents := [1, 2] }
/-- An executable frame that generation 3 has removed. -/
def freed (g : Nat) : State :=
  { s1 with
    frames := [{ loc := 0x50000, size := 16, part := 1, region := 0, gen := some 3 }]
    groups := s1.groups.map (fun e => (e.1, { e.2 with gen := g }))
    codeMaps := [{ root := 0, va := 0x10000, size := 16, frame := 0x50000, first := 0, last := some 2, starts := [] }] }

/-- As `walked`, with the frames of the tables. -/
def tabled (opc : Byte) : State :=
  { command cb opc walked with frames := (List.range 5).map (fun i => { loc := 0x100000 + 0x1000 * i, size := 12, part := 1, region := 0, charged := false }) }

/-- R448, R458, R460, R444. -/
theorem test_mappings :
    goes (.map cb mapQ) (tabled 0x30) (fun t => (match t.walk 0 0x40000 with
      | .leaf l => l.pa % 2 ^ 16 == 0 && l.rd && l.wr && !l.ex && memBytes t.mem l.pa 2 == [1, 2]
      | _ => false)) ∧
    goes (.copy cb false 0x9000 0x30002 2) { command cb 0x70 walked with flaws := [0x70003] }
      (fun t => passed cb t && t.mem == walked.mem && (t.pkg 0).returned == [0x70000]) ∧
    goes (.map cb mapQ) (command cb 0x30 walked) (fun t => passed cb t && memBytes t.mem 0 2 == [1, 2] && memBytes t.mem 0x104020 8 == leBytes 0xF 8 &&
      (t.rcb 1 0).used.getD 4 0 == 1) ∧
    goes (.map cb { mapQ with va := 0x40001 }) (command cb 0x30 walked) (fun t => passed cb t && t.mem == walked.mem) ∧
    goes (.unmap cb 0x30000 1 false false) (command cb 0x31 walked) (fun t => passed cb t && (match t.walk 0 0x30000 with | .fault c => c == 0x100 | _ => false)) ∧
    goes (.unmap cb 0x30000 1 true false) (command cb 0x31 walked) (fun t => (match t.walk 0 0x30000 with | .leaf l => l.rd && !l.wr | _ => false)) ∧
    goes (.frameFree 1 0x50000) (freed 3) (fun t => t.frames == [] && t.codeMaps == []) ∧ goes (.frameFree 1 0x50000) (freed 2) (fun t => t.frames.length == 1) ∧
    goes (.copy cb true 0x9000 0x30002 2) { command cb 0x70 walked with hostMem := memWrite (command cb 0x70 walked).hostMem 0x9000 [8, 9] }
      (fun t => passed cb t && memBytes t.mem 0x70001 4 == [0, 8, 9, 0]) ∧
    goes (.copy cb true 0x9000 0x20000 2) (command cb 0x70 walked) (fun t => passed cb t && t.mem == walked.mem) := by
  decide +kernel

theorem witness_MappingCommands :
    (let s := tabled 0x30
     s.relative 1 0 == [0] && (s.mapAll 0 0 mapQ).isOk && levelShift mapQ.level == some 16 && s.unitsOf 1 0 == [0] &&
       s.walkReads 0 0x40000 0 == [0x100000, 0x101000, 0x102000, 0x103000, 0x104020] && s.leafAt 0 0 0x40000 == none &&
       s.walkReads 0 0x30000 0 == [0x100000, 0x101000, 0x102000, 0x103000, 0x104018] && (s.leafAt 0 0 0x30000).isSome && !s.wakePage 0x70000) ∧
    (let s := command cb 0x70 walked
     (match s.keelAt 0 0 0x20000 ⟨true, false⟩ with | .error c => c == 0x100 | .ok _ => false) &&
       ({ s with flaws := [0x70003] } : State).readError 0x70002 2 == some 0x382) ∧
    (ready cb 0x30 .berth (command cb 0x30 walked) ∧ ((match (command cb 0x30 walked).mapAll 0 0 mapQ with | .ok t => t.cur == 0 | .error _ => false) : Bool) ∧
      ((match (command cb 0x30 walked).mapAll 0 0 { mapQ with va := 0x40001 } with | .ok _ => false | .error e => e.status == 7) : Bool)) ∧
    ready cb 0x31 .berth (command cb 0x31 walked) ∧
    ((freed 3).frames.find? (fun f => f.loc == 0x50000 && f.part == 1) ≠ none ∧ (freed 3).fetchesBelow 1 3 = false ∧ (freed 2).fetchesBelow 1 3 = true) ∧
    (let s := command cb 0x70 walked
     ready cb 0x70 .berth s && s.holders == [] && s.landings == [] && decide ((0x3FFFE : Nat) % 2 ^ 16 + 2 ≤ 2 ^ 16) &&
       (match s.keelAt 0 0 0x3FFFE ⟨false, true⟩, s.keelAt 0 0 0x3FFFE ⟨true, false⟩ with | .ok a, .ok b => a == 0x7FFFE && b == 0x7FFFE && s.readError b 2 == none | _, _ => false)) := by
  decide +kernel

/-- An image of one role without code, one placement range, no template, no slot of the wake: the header, four section entries, the
range at 192, the wake section at 256. -/
def imageFile : List Byte :=
  let word (n : Nat) : List Byte := leBytes n 8
  let sect (k off len : Nat) : List Byte := word k ++ word off ++ word len ++ word 0
  word 0x31584853 ++ word 0x0001000100000000 ++ word (4 * 2 ^ 16 + 320 * 2 ^ 32) ++ word 64 ++ List.replicate 32 0 ++
    sect 1 192 0 ++ sect 2 192 8 ++ sect 4 256 0 ++ sect 6 256 64 ++ word 0x00000000000F0000 ++ List.replicate 56 0 ++ List.replicate 64 0
def loading : State := { command cb 0x60 s1 with hostMem := memWrite (command cb 0x60 s1).hostMem 0x9000 imageFile }
/-- A loaded image of the berth, with manifest 5, that a grid may run. -/
def loaded (st : GridSt) : State :=
  let s := command cb 0x61 (mfIn (mfOf 2))
  { s.modGrid 9 (fun g => { g with image := some 3, st := st }) with
    images := [(3, { berth := 0, handle := 0x55, host := 0, len := 0, hash := [], wakeOff := 0, mfs := [5], datas := [] })] }

/-- Thread 0 waits for the release of its launch of manifest 5. -/
def holding (s : State) : State := s.modThr 0 (fun t => { t with wait := .release, watch := some 5 })

/-- R371, R372, R388 to R390, R456, R461. -/
theorem test_manifest_commands :
    goes (.mfBuild cb (mfOf 0)) (command cb 0x40 (mfIn (mfOf 2))) (fun t => answered cb 0 t && memBytes t.hostMem 0x2008 8 == [0, 0, 0, 0, 0, 0, 0, 0] &&
      mfState (t.mfWords 0 0) == 2 && mfState (t.mfWords 0 5) == 2) ∧
    goes (.mfBuild cb (mfSet (mfOf 0) 0 4)) (command cb 0x40 (mfIn (mfOf 2))) (fun t => passed cb t && mfState (t.mfWords 0 0) == 1) ∧
    goes (.mfRemove cb 5) (command cb 0x41 (mfIn (mfOf 2))) (fun t => passed cb t && mfState (t.mfWords 0 5) == 0) ∧
    goes (.launchCommand cb 5) (command cb 0x50 (mfIn (mfOf 2))) (fun t => (t.berth 0).crhead == 0 && t.launches.length == 1 &&
      goes (.launchOrder 0) t (fun u => answered cb 0 u && memBytes u.hostMem 0x2008 8 == [1, 0, 0, 0, 0, 0, 0, 0] && (u.grid 1).host)) ∧
    goes (.launchCommand cb 6) (command cb 0x50 (mfIn (mfOf 2))) (fun t => passed cb t && t.launches == []) ∧
    goes (.cancel cb 9) (command cb 0x51 s1) (fun t => passed cb t && (t.grid 9).abort == 2) ∧
    goes (.imageLoad cb 0x9000 320) loading (fun t => passed cb t && t.images.length == 1 && (t.part 1).published == 1) ∧
    goes (.imageLoad cb 0x9000 319) loading (fun t => passed cb t && t.images.length == 0) ∧
    goes (.mfRemove cb 5) (holding (command cb 0x41 (mfIn (mfOf 2)))) (fun t => passed cb t && mfState (t.mfWords 0 5) == 2) ∧
    goes (.imageUnload cb 0x55) (loaded .dealt) (fun t => (t.berth 0).crhead == 0 && (t.berth 0).ertail == 0 && mfState (t.mfWords 0 5) == 0 && t.images.length == 1) ∧
    goes (.imageUnload cb 0x55) (loaded .ended) (fun t => (t.berth 0).crhead == 1 && (t.berth 0).ertail == 2 && t.images.length == 0) := by
  decide +kernel

theorem witness_ManifestCommands :
    (ready cb 0x40 .berth (command cb 0x40 (mfIn (mfOf 2))) ∧ ready cb 0x41 .berth (command cb 0x41 s1) ∧ ready cb 0x50 .berth (command cb 0x50 s1) ∧
      ready cb 0x51 .berth (command cb 0x51 s1) ∧ ready cb 0x60 .berth loading ∧ ready cb 0x61 .berth (loaded .dealt)) ∧
    (let s := command cb 0x40 (mfIn (mfOf 2))
     (mfOf 0).length == 32 && (s.freeMfs 0 1) == [0] && (match s.charge 1 5 0 1 with
       | some u => u.armStatus 0 0 1 (u.part 1).published (mfSet (mfSet (mfOf 0) 19 0) 20 1) == 0 && u.armStatus 0 0 1 (u.part 1).published (mfSet (mfSet (mfOf 0) 0 4) 20 1) != 0
       | none => false)) ∧
    (let s := command cb 0x50 (mfIn (mfOf 2))
     mfState (s.mfWords 0 5) == 2 && (match s.findDeps 0 0 (mfOf 2) [14, 16] with
       | .ok ds => (match s.enqueue { gridOf (mfOf 2) 0 0 1 0 ds none with host := true } with | .done u => !u.unrouted 0 (u.headOf 0) | _ => false)
       | .error _ => false)) ∧
    (let s := s1.setGrid 8 { part := 1, berth := 1, st := .dealt }
     thas s.grids (gridKey (s.headOf 0) 8) && (s.grid 8).bk != 0 && s.liveGrid (gridKey (s.headOf 0) 9) 0 && (s.grid 9).abort == 0) ∧
    ((match loading.loadImage 0 0 0x9000 320 with | .ok (u, _) => u.cur == 0 | .error _ => false) : Bool) ∧
    ((match loading.loadImage 0 0 0x9000 319 with | .ok _ => false | .error e => e.status == 1) : Bool) ∧
    ((mfIn (mfOf 2)).mfHeld 0 5 = false ∧ (holding (mfIn (mfOf 2))).mfHeld 0 5 = true) ∧
    ((loaded .dealt).imageBusy 3 = true ∧ (loaded .ended).imageBusy 3 = false ∧ (loaded .dealt).images.all (fun e => e.2.pending == none) ∧
      (loaded .dealt).images.find? (fun e => e.2.berth == cmdKey cb && e.2.handle == 0x55 && e.2.unload.isNone) ≠ none) := by
  decide +kernel

/-- FIPS 202: the first bytes of the digests of the empty string and of "abc". -/
theorem test_shake256 : shake256 [] 4 = [0x46, 0xB9, 0xDD, 0x2B] ∧ shake256 [0x61, 0x62, 0x63] 4 = [0x48, 0x33, 0x66, 0x60] := by decide +kernel

/-- A package in slack water, with a grid that deals, and one of a partition with a drain limit of its own. -/
def slackS : State :=
  { s1 with
    packages := [(0, { phase := .slack, trainedAt := some 10, slices := (s1.pkg 0).slices ++ [{ part := 2, clusters := [5], units := [5], ports := [], drain := 100 }] })]
    grids := s1.grids ++ [(12, { part := 2, st := .dealt, count := 1, next := 1 })] }
/-- Deck runs on the package of `waiting`. -/
def decked : State := waiting.modPkg 0 (fun p => { p with deck := some [1] })
/-- A page of which 16 errors have been corrected. -/
def wornS : State := s1.modPkg 0 (fun p => { p with corrected := List.replicate 16 (0x10000, 0) })

/-- R462 to R470, R450. -/
theorem test_packages :
    goes (.powerOn 1) s1 (fun t => (t.pkg 1).phase == .boot && t.threads == s1.threads) ∧ goes (.powerOn 0) s1 (fun t => (t.pkg 0).phase == .full) ∧
    goes (.powerOn 4096) s1 (fun t => (t.pkg 4096).phase == .off) ∧
    goes (.packageReset 0) { walked with hostMem := [(5, 1)] } (fun t => (t.pkg 0).phase == .boot && t.threads == [] && t.mem == [] && t.grids == [] && t.hostMem == [(5, 1)]) ∧
    goes (.thermalTrip 1) s1 (fun t => t.tick == 1 && (t.pkg 1).phase == .off) ∧
    goes (.trainingEnd 0) slackS (fun t => (t.pkg 0).phase == .slack && (t.grid 9).abort == 0) ∧
    goes (.trainingEnd 0) { slackS with now := 110 } (fun t => (t.pkg 0).phase == .slack && (t.grid 9).abort == 0 && (t.grid 12).abort == 2) ∧
    goes (.trainingEnd 0) { slackS with now := 2 ^ 18 + 10 } (fun t => (t.pkg 0).phase == .full && (t.grid 9).abort == 2) ∧
    goes (.powerSample 0) { s1 with now := 65535 } (fun t => t.tick == 0) ∧
    goes (.pldmMonitoring 0 18) s1 (fun t => (t.pkg 0).reading.isSome) ∧
    goes (.pldmMonitoring 0 19) s1 (fun t => (t.pkg 0).reading.isNone) ∧
    goes (.pageRetire 0 0x12345) wornS (fun t => (t.pkg 0).retired == [0x10000] && (t.pkg 0).journal.map (·.1) == [0x10000]) ∧
    goes (.pageRetire 0 0x12345) (s1.modPkg 0 (fun p => { p with returned := [0x10000] })) (fun t => (t.pkg 0).retired == [0x10000]) ∧
    goes (.pldmMonitoring 0 18) { s1 with packages := [(0, { phase := .boot })] } (fun t => (t.pkg 0).reading.isNone) ∧
    goes (.pageRetire 0 0x12345) s1 (fun t => (t.pkg 0).retired == []) ∧
    goes (.pageRetire 0 0x12345) { wornS with now := 2 ^ 32 } (fun t => (t.pkg 0).retired == []) ∧
    goes (.pldmFirmwareUpdate 0 false [1]) s1 (fun t => (t.pkg 0).record == []) ∧
    goes (.deckWatchdog 0) { decked with now := 77 } (fun t => (t.pkg 0).deckSeen == 77 && (t.pkg 0).deckMem == [(0, 1)]) ∧
    goes (.deckHint 0 10 1) { decked with parts := [] } (fun t => (t.pkg 0).hints == [(1, 0)]) ∧
    goes (.deckHint 0 10 1) decked (fun t => (t.pkg 0).hints == [(1, 0)]) ∧ goes (.deckHint 0 9 1) decked (fun t => (t.pkg 0).hints == []) := by
  decide +kernel

theorem witness_PackageEvents :
    ((s1.pkg 1).phase = .off ∧ (s1.pkg 0).phase = .full) ∧
    ((slackS.pkg 0).phase = .slack ∧ (slackS.pkg 0).recordOk = true ∧ (slackS.slackGrids 0).map (·.1) = [9, 12] ∧
      (slackS.slackGrids 0).map (fun e => slackS.drainLimit e.2.part 0) = [2 ^ 18, 100]) ∧
    (wornS.worn 0x10000 = true ∧ s1.worn 0x10000 = false ∧ (s1.pkg 0).sampledAt + 2 ^ 16 ≤ ({ s1 with now := 65536 } : State).now) ∧
    ((0xFF_FFFF_FFFF / 2 ^ 16 * 2 ^ 16) % 2 ^ 16 = 0 ∧ paPkg 0xFFFFFF0000 = 0 ∧ (s1.pkg 0).retired = []) ∧
    ((decked.pkg 0).deck ≠ none ∧ packageOf (decked.grp 1).cluster = 0 ∧ (decked.victim 1).isSome ∧ (decked.grid 10).part = (decked.grid 9).part ∧
      (decked.rcb 1 0).prio < (decked.rcb 1 1).prio) := by
  decide +kernel

end Sys2Proof.Tests
end

section
/-! PROOFS. Chapter 04, one-operand results, compares, `sel` and `ext` (R92 to R95). -/
namespace Sys2Proof.Machine

/-! ### Flags of the executing thread -/

theorem flags_withFlags (s : State) (f : Flags → Flags) : (s.withFlags f).me.f = f s.me.f := by
  rw [withFlags_eq, me_setThr]

theorem withFlags_withFlags (s : State) (f g : Flags → Flags) :
    (s.withFlags f).withFlags g = s.withFlags (fun x => g (f x)) := by
  simp only [withFlags_eq, setThr_cur, me_setThr, setThr_setThr]

theorem withFlags_ofAlu (s : State) (w : Nat) (r : Alu) : s.withFlags (fun f => f.ofAlu w r) = s.flagged w r.r r.c r.v := rfl

/-- Outside running tows, completion leaves the flags of the executing thread. -/
theorem complete_flags {s : State} (h : s.alone) (len : Nat) (dest : Option Addr) :
    ((s.complete len dest).thr s.cur).f = s.me.f := by
  unfold State.alone at h
  simp only [State.complete, h, State.goOn, modThr_eq, thr_setThr]
  rfl

/-! ### What the bodies leave, once their operands have been read -/

theorem yields_intOne {i : Instr} {h : Hdr} {ty : Ty} {dst src : Opnd} {s u : State} {d : Dest} {y : Word} {op : Ty → Nat → Alu}
    {r : Nat} {c v : Bool} (hi : exec i s = intOne op h ty dst src s) (hop : op ty (lowOf ty y) = ⟨r, c, v⟩)
    (hl : s.lets h.pred) (hr : ReadsOne h ty ty dst src s d y u) : Yields i s u h.form d ty r c v := by
  intro t hw
  rw [hi]
  refine straight_completes hl (does_bind hr ?_)
  simp only [hop]
  exact does_bind hw (does_modFlags _ t)

/-- A compare sets Z, N, C and V, and P from these. -/
theorem intCompare_next {h : Hdr} {ty : Ty} {s1 s2 : Opnd} {s u : State} {x y : Word} {op : Ty → Nat → Nat → Alu} {r : Alu}
    (hop : op ty (lowOf ty x) (lowOf ty y) = r) (c : BitVec 4) (hl : s.lets h.pred) (hr : ReadsBoth h ty s1 s2 s x y u) :
    intCompare op h ty c s1 s2 s =
      .next (((u.flagged ty.bits r.r r.c r.v).withFlags (fun f => { f with p := condHolds c f })).complete
        h.form.bytes none) := by
  subst hop
  rw [← withFlags_ofAlu, withFlags_withFlags]
  exact straight_completes hl (does_bind hr (does_modFlags _ u))

/-- P after a compare is its condition, of the flags that it has set. -/
theorem intCompare_p {h : Hdr} {ty : Ty} {s1 s2 : Opnd} {s u t : State} {x y : Word} {op : Ty → Nat → Nat → Alu} {c : BitVec 4}
    (hl : s.lets h.pred) (ha : u.alone) (hr : ReadsBoth h ty s1 s2 s x y u) (he : intCompare op h ty c s1 s2 s = .next t) :
    (t.thr u.cur).f.p = condHolds c (u.me.f.ofAlu ty.bits (op ty (lowOf ty x) (lowOf ty y))) := by
  rw [intCompare_next rfl c hl hr, Host.Outcome.next.injEq, ← withFlags_ofAlu, withFlags_withFlags] at he
  rw [← he]
  exact congrArg Flags.p ((complete_flags (s := u.withFlags _) ha _ _).trans (flags_withFlags u _))

theorem execSel_next {h : Hdr} {ty : Ty} {s1 s2 : Opnd} {s u : State} {x y : Word} (hl : s.lets h.pred)
    (hr : ReadsBoth h ty s1 s2 s x y u) :
    execSel h ty s1 s2 s =
      .next ((u.withA (extendTo ty (if u.me.f.p then lowOf ty x else lowOf ty y))).complete h.form.bytes none) := by
  rw [← apply_ite (lowOf ty)]
  exact straight_completes hl (does_bind hr (does_bind (does_getMe u) (does_setA _ u)))

theorem execExt_next {h : Hdr} {ty : Ty} {src : Opnd} {s u : State} {y : Word} (hl : s.lets h.pred)
    (hr : Does (readSrc src (tyBytes ty) opA) s.issued y u) :
    execExt h ty src s =
      .next (((u.withA (extendTo ty (lowOf ty y))).flagged ty.bits (lowOf ty y) false false).complete h.form.bytes none) :=
  straight_completes hl (does_bind hr (does_bind (does_setA _ u) (does_modFlags _ _)))

/-! ### Numbers of w bits -/

theorem bits_pos (t : Ty) : 0 < t.bits := by cases t <;> simp [Ty.bits]

theorem lowOf_lt (t : Ty) (v : Word) : lowOf t v < 2 ^ t.bits := Nat.mod_lt _ (Nat.two_pow_pos _)

section Width
variable {w x y : Nat}

/-- A signed number of w bits by its sign, with the powers of two as natural numbers. -/
theorem sval_cases (w x : Nat) :
    x < 2 ^ (w - 1) ∧ sval w x = x ∨ 2 ^ (w - 1) ≤ x ∧ sval w x = (x : Int) - (2 ^ w : Nat) := by
  unfold sval
  split
  · exact .inl ⟨‹_›, rfl⟩
  · exact .inr ⟨Nat.le_of_not_lt ‹_›, rfl⟩

theorem sval_inj (hx : x < 2 ^ w) (hy : y < 2 ^ w) : sval w x = sval w y ↔ x = y := by
  have h1 := sval_cases w x
  have h2 := sval_cases w y
  omega

theorem sOver_eq (w : Nat) (z : Int) :
    sOver w z = !(decide (-(2 ^ (w - 1) : Int) ≤ z) && decide (z < (2 ^ (w - 1) : Int))) := by
  simp [sOver, Bool.not_and, ← decide_not]

theorem wrapTo_sub (x : Nat) (hy : y < 2 ^ w) : wrapTo w ((x : Int) - y) = (2 ^ w + x - y) % 2 ^ w := by
  have hz : ((2 ^ w + x - y : Nat) : Int) = (x : Int) - y + (2 ^ w : Nat) := by omega
  rw [wrapTo, ← Int.add_emod_right, ← hz, ← Int.natCast_emod, Int.toNat_natCast]

/-- A difference of two numbers of w bits, modulo 2^w, borrows or not. -/
theorem sub_mod_cases (hx : x < 2 ^ w) (hy : y < 2 ^ w) :
    y ≤ x ∧ (2 ^ w + x - y) % 2 ^ w = x - y ∨ x < y ∧ (2 ^ w + x - y) % 2 ^ w = 2 ^ w + x - y := by
  rcases Nat.lt_or_ge x y with h | h
  · exact .inr ⟨h, Nat.mod_eq_of_lt (by omega)⟩
  · refine .inl ⟨h, ?_⟩
    rw [Nat.add_sub_assoc h, Nat.add_mod_left, Nat.mod_eq_of_lt (by omega)]

theorem testBit_sign (hw : 0 < w) (hx : x < 2 ^ w) : x.testBit (w - 1) = decide (2 ^ (w - 1) ≤ x) := by
  rcases Nat.lt_or_ge x (2 ^ (w - 1)) with h | h
  · rw [Nat.testBit_lt_two_pow h, decide_eq_false (Nat.not_le.2 h)]
  · rw [decide_eq_true h]
    exact Nat.testBit_of_two_pow_le_and_two_pow_add_one_gt h (by rwa [Nat.sub_add_cancel hw])

/-- The sign of a difference, corrected by its overflow, orders the operands. -/
theorem sub_sign_bne_sOver (hw : 0 < w) (hx : x < 2 ^ w) (hy : y < 2 ^ w) :
    (((2 ^ w + x - y) % 2 ^ w).testBit (w - 1) != sOver w (sval w x - sval w y)) = decide (sval w x < sval w y) := by
  have hpow : 2 ^ (w - 1) * 2 = 2 ^ w := Nat.two_pow_pred_mul_two hw
  have hr := sub_mod_cases hx hy
  have hX := sval_cases w x
  have hY := sval_cases w y
  rw [testBit_sign hw (Nat.mod_lt _ (Nat.two_pow_pos w)), sOver, Bool.eq_iff_iff]
  simp only [← Bool.decide_or, bne_iff_ne, ne_eq, decide_eq_decide, decide_eq_true_eq]
  omega

theorem sub_mod_eq_zero (hx : x < 2 ^ w) (hy : y < 2 ^ w) : (2 ^ w + x - y) % 2 ^ w = 0 ↔ x = y := by
  have hr := sub_mod_cases hx hy
  omega

/-- Only the most negative number has no negative of its width. -/
theorem sOver_neg (hw : 0 < w) (hy : y < 2 ^ w) :
    sOver w (sval w 0 - sval w y) = decide (y = 2 ^ (w - 1)) := by
  have hpow : 2 ^ (w - 1) * 2 = 2 ^ w := Nat.two_pow_pred_mul_two hw
  have h0 := sval_cases w 0
  have hY := sval_cases w y
  rw [sOver, Bool.eq_iff_iff]
  simp only [Bool.or_eq_true, decide_eq_true_eq]
  omega

theorem size_eq_log2_add_one (hy : y ≠ 0) : Nat.size y = Nat.log2 y + 1 :=
  Nat.le_antisymm (Nat.size_le.2 Nat.lt_log2_self) (Nat.lt_size.2 (Nat.log2_self_le hy))

end Width

/-! ### Results of single operations -/

theorem aluSub_eq (t : Ty) (x : Nat) {y : Nat} (hy : y < 2 ^ t.bits) :
    aluSub t x y =
      { r := (2 ^ t.bits + x - y) % 2 ^ t.bits, c := decide (x < y), v := sOver t.bits (sval t.bits x - sval t.bits y) } := by
  rw [← wrapTo_sub x hy]; rfl

theorem aluNeg_eq (t : Ty) {y : Nat} (hy : y < 2 ^ t.bits) :
    aluNeg t y = { r := (2 ^ t.bits - y) % 2 ^ t.bits, c := decide (y ≠ 0), v := decide (y = 2 ^ (t.bits - 1)) } := by
  rw [aluNeg, aluSub_eq t 0 hy, sOver_neg (bits_pos t) hy]
  simp only [Nat.add_zero, Nat.pos_iff_ne_zero]

theorem aluNot_eq (t : Ty) (y : Nat) : aluNot t y = { r := 2 ^ t.bits - 1 - y } := rfl

theorem aluClz_eq (t : Ty) (y : Nat) : aluClz t y = { r := t.bits - Nat.size y } := by
  unfold aluClz
  split
  case isTrue h => rw [h, Nat.size_zero, Nat.sub_zero]
  case isFalse h => rw [size_eq_log2_add_one h, Nat.sub_sub, Nat.add_comm 1]

theorem aluPopc_eq (t : Ty) (y : Nat) : aluPopc t y = { r := (List.range t.bits).countP (fun i => y.testBit i) } := by
  rw [aluPopc, List.countP_eq_length_filter]

/-! ### Conditions after a compare -/

/-- The flags of a compare of x with y. -/
theorem ofAlu_aluSub_order (f : Flags) (t : Ty) {x y : Nat} (hx : x < 2 ^ t.bits) (hy : y < 2 ^ t.bits) :
    (f.ofAlu t.bits (aluSub t x y)).z = decide (x = y) ∧ (f.ofAlu t.bits (aluSub t x y)).c = decide (x < y) ∧
      ((f.ofAlu t.bits (aluSub t x y)).n != (f.ofAlu t.bits (aluSub t x y)).v) =
        decide (sval t.bits x < sval t.bits y) := by
  rw [aluSub_eq t x hy]
  exact ⟨decide_eq_decide.2 (sub_mod_eq_zero hx hy), rfl, sub_sign_bne_sOver (bits_pos t) hx hy⟩

/-- R93: each condition, where Z tells equal operands, C the unsigned order, and N with V the signed one. -/
theorem condHolds_of_order {f : Flags} {w x y : Nat} (hx : x < 2 ^ w) (hy : y < 2 ^ w) (hz : f.z = decide (x = y))
    (hc : f.c = decide (x < y)) (hn : (f.n != f.v) = decide (sval w x < sval w y)) (c : BitVec 4) :
    let a := sval w x
    let b := sval w y
    let p := condHolds c f
    (c = 0x0 → p = decide (x = y)) ∧ (c = 0x1 → p = decide (x ≠ y)) ∧ (c = 0x2 → p = decide (a < b)) ∧
    (c = 0x3 → p = decide (b ≤ a)) ∧ (c = 0x4 → p = decide (a ≤ b)) ∧ (c = 0x5 → p = decide (b < a)) ∧
    (c = 0x6 → p = decide (x < y)) ∧ (c = 0x7 → p = decide (y ≤ x)) ∧ (c = 0x8 → p = decide (x ≤ y)) ∧
    (c = 0x9 → p = decide (y < x)) := by
  have heq := sval_inj hx hy
  have hge : (f.n == f.v) = !decide (sval w x < sval w y) := by rw [← hn, bne, Bool.not_not]
  refine ⟨?eq, ?ne, ?lt, ?ge, ?le, ?gt, ?ltu, ?geu, ?leu, ?gtu⟩ <;> rintro rfl
  case eq => exact hz
  case lt => exact hn
  case ltu => exact hc
  case ne => rw [show condHolds 0x1 f = !f.z from rfl, hz, ← decide_not]
  case ge => rw [show condHolds 0x3 f = (f.n == f.v) from rfl, hge, ← decide_not, decide_eq_decide, not_lt]
  case le =>
    rw [show condHolds 0x4 f = (f.z || f.n != f.v) from rfl, hz, hn, ← Bool.decide_or, decide_eq_decide]
    omega
  case gt =>
    rw [show condHolds 0x5 f = (!f.z && f.n == f.v) from rfl, hz, hge, ← Bool.not_or, ← Bool.decide_or, ← decide_not,
      decide_eq_decide]
    omega
  case geu => rw [show condHolds 0x7 f = !f.c from rfl, hc, ← decide_not, decide_eq_decide, not_lt]
  case leu =>
    rw [show condHolds 0x8 f = (f.c || f.z) from rfl, hc, hz, ← Bool.decide_or, decide_eq_decide]
    omega
  case gtu =>
    rw [show condHolds 0x9 f = (!f.c && !f.z) from rfl, hc, hz, ← Bool.not_or, ← Bool.decide_or, ← decide_not,
      decide_eq_decide]
    omega

/-! ### The obligations -/

/-- Settles O2: each instruction leaves what its operation gives, and the operations give the results of R92. -/
theorem integerOneOperandResults : Obligations.IntegerOneOperandResults := by
  unfold Obligations.IntegerOneOperandResults
  intro h ty dst src s u d y _ hl hr
  have hneg := aluNeg_eq ty (lowOf_lt ty y)
  have hnot := aluNot_eq ty (lowOf ty y)
  have hclz := aluClz_eq ty (lowOf ty y)
  have hpopc := aluPopc_eq ty (lowOf ty y)
  exact ⟨yields_intOne rfl hneg hl hr, yields_intOne rfl hnot hl hr, yields_intOne rfl hclz hl hr,
    yields_intOne rfl hpopc hl hr⟩

/-- Settles O3: P is the condition of the flags of a difference, and these flags tell the order of its operands. -/
theorem compareSelectExtendResults : Obligations.CompareSelectExtendResults := by
  unfold Obligations.CompareSelectExtendResults
  refine ⟨⟨?two, ?ext⟩, ?p⟩
  case two =>
    intro h ty c s1 s2 s u x y _ hl hr
    have hsub := aluSub_eq ty (lowOf ty x) (lowOf_lt ty y)
    rw [sOver_eq] at hsub
    exact ⟨intCompare_next hsub c hl hr, intCompare_next (op := aluAnd) rfl c hl hr, execSel_next hl hr⟩
  case ext =>
    intro h ty src s u y _ hl hr
    exact execExt_next hl hr
  case p =>
    intro h ty c s1 s2 s u t x y _ hl ha hr he
    obtain ⟨hz, hc, hn⟩ := ofAlu_aluSub_order u.me.f ty (lowOf_lt ty x) (lowOf_lt ty y)
    have hp := intCompare_p (op := aluSub) hl ha hr he
    rw [hp]
    exact condHolds_of_order (lowOf_lt ty x) (lowOf_lt ty y) hz hc hn c

end Sys2Proof.Machine
end

section
/-! PROOFS. Chapter 09, trap entry, `trap` and `eret` (R220, R221, R230, R231). -/
namespace Sys2Proof.Machine

section Steps
variable {s t u : State} {k : Nat} {pc : Addr} {p : Pred}

/-! ### Reservations that are given back (R77) -/

/-- A thread after its release from a mooring. -/
def Thread.released (t : Thread) : Thread := { t with wait := .ready, freed := true }

theorem wake_eq (s : State) (k : Nat) : s.wake k = s.setThr k (s.thr k).released := rfl

@[simp] theorem released_released (t : Thread) : t.released.released = t.released := rfl

/-- Being settled forgets a release. -/
@[simp] theorem settled_released (t : Thread) : t.released.settled = t.settled := rfl

/-- From s to t only cores change, and threads are released. -/
structure State.Frees (s t : State) : Prop where
  frame : t = { s with threads := t.threads, cores := t.cores }
  thr : ∀ j, t.thr j = s.thr j ∨ t.thr j = (s.thr j).released

theorem State.Frees.refl (s : State) : s.Frees s := ⟨rfl, fun _ => .inl rfl⟩

theorem State.Frees.trans (h1 : s.Frees t) (h2 : t.Frees u) : s.Frees u where
  frame := by rw [h2.frame, h1.frame]
  thr j := by
    rcases h1.thr j with e1 | e1 <;> rcases h2.thr j with e2 | e2 <;> rw [e2, e1]
    · exact .inl rfl
    · exact .inr rfl
    · exact .inr rfl
    · exact .inr (released_released _)

theorem frees_setPort (s : State) (c q : Nat) (v : Port) : s.Frees (s.setPort c q v) := ⟨rfl, fun _ => .inl rfl⟩

theorem frees_wake (s : State) (k : Nat) : s.Frees (s.wake k) where
  frame := rfl
  thr j := by
    rw [wake_eq]
    by_cases hj : j = k
    · subst hj; exact .inr (thr_setThr s j _)
    · exact .inl (thr_setThr_ne s _ hj)

theorem frees_releaseOne (s : State) (c q : Nat) (kind : BitVec 4) : s.Frees (s.releaseOne c q kind) := by
  unfold State.releaseOne
  split
  · exact frees_wake s _
  · exact .refl s

theorem frees_ite {b : Prop} [Decidable b] (h : s.Frees t) (hu : t.Frees u) : s.Frees (if b then u else t) := by
  split
  · exact h.trans hu
  · exact h

theorem frees_dropReservations (s : State) (k : Nat) : s.Frees (s.dropReservations k) := by
  unfold State.dropReservations
  refine List.foldlRecOn (motive := s.Frees) _ _ (.refl s) (fun t ht q _ => ?_)
  dsimp only
  split
  · exact ht
  · exact frees_ite (frees_ite (ht.trans (frees_setPort ..)) (frees_releaseOne ..)) (frees_releaseOne ..)

/-- Thread k holds no reservation in a port of its core. -/
def State.unreserved (s : State) (k : Nat) : Prop :=
  ∀ q < 4, ∀ e ∈ (s.port (coreOf k) q).entries, e.filler ≠ some k ∧ e.reader ≠ some k

theorem dropReservations_of_unreserved (h : s.unreserved k) : s.dropReservations k = s := by
  unfold State.dropReservations
  refine List.foldlRecOn (motive := (· = s)) _ _ rfl (fun t ht q hq => ?_)
  subst ht
  have he := h q (List.mem_range.1 hq)
  have hfills : (t.port (coreOf k) q).entries.any (fun e => e.filler == some k) = false := by
    simpa using fun e hm => (he e hm).1
  have hreads : (t.port (coreOf k) q).entries.any (fun e => e.reader == some k) = false := by
    simpa using fun e hm => (he e hm).2
  simp [hfills, hreads]

/-! ### What comes before the entry: the noted page, the tow that has not set out, the reservations -/

theorem noteRead_eq (s : State) (k : Nat) (c : BitVec 10) (x : Option Word) :
    ∃ ps, s.noteRead k c x = { s with packages := ps } := by
  have hbad (loc : Nat) : ∃ ps, s.noteBad loc c = { s with packages := ps } := by
    unfold State.noteBad
    dsimp only
    split <;> exact ⟨_, rfl⟩
  unfold State.noteRead
  split
  · split
    · dsimp only
      split
      · exact hbad _
      · exact ⟨_, rfl⟩
    · exact ⟨_, rfl⟩
  · exact ⟨_, rfl⟩

/-- The state in which thread k, in no running tow, enters its trap. -/
def State.readied (s : State) (k : Nat) (c : BitVec 10) (x : Option Word) : State :=
  let s := s.noteRead k c x
  { s with tows := s.tows.filter (fun w => w.running || w.tug != k) }.dropReservations k

/-- Everything but threads, cores, packages and tows is as it was. -/
theorem readied_eq (s : State) (k : Nat) (c : BitVec 10) (x : Option Word) :
    ∃ ts cs ps, s.readied k c x =
      { s with threads := ts, cores := cs, packages := ps, tows := s.tows.filter (fun w => w.running || w.tug != k) } := by
  obtain ⟨ps, hn⟩ := noteRead_eq s k c x
  unfold State.readied
  rw [hn]
  exact ⟨_, _, ps, (frees_dropReservations _ k).frame⟩

theorem readied_thr (s : State) (k : Nat) (c : BitVec 10) (x : Option Word) (j : Nat) :
    (s.readied k c x).thr j = s.thr j ∨ (s.readied k c x).thr j = (s.thr j).released := by
  obtain ⟨ps, hn⟩ := noteRead_eq s k c x
  unfold State.readied
  rw [hn]
  exact (frees_dropReservations _ k).thr j

/-- What a release does not touch is as it was. -/
theorem readied_field {α : Type} {f : Thread → α} (hf : ∀ t, f t.released = f t) (s : State) (k : Nat) (c : BitVec 10)
    (x : Option Word) (j : Nat) : f ((s.readied k c x).thr j) = f (s.thr j) := by
  rcases readied_thr s k c x j with h | h <;> rw [h]
  exact hf _

theorem readied_settled (s : State) (k : Nat) (c : BitVec 10) (x : Option Word) (j : Nat) :
    ((s.readied k c x).thr j).settled = (s.thr j).settled := readied_field settled_released s k c x j

theorem readied_thr_of_unreserved (h : s.unreserved k) (c : BitVec 10) (x : Option Word) (j : Nat) :
    (s.readied k c x).thr j = s.thr j := by
  obtain ⟨ps, hn⟩ := noteRead_eq s k c x
  unfold State.readied
  rw [hn, dropReservations_of_unreserved (s := { s with packages := ps, tows := _ }) h]
  rfl

@[simp] theorem readied_man (s : State) (k : Nat) (c : BitVec 10) (x : Option Word) (g w : Nat) :
    (s.readied k c x).man g w = s.man g w := by
  obtain ⟨ts, cs, ps, h⟩ := readied_eq s k c x
  rw [h]; rfl

theorem readied_group (s : State) (k : Nat) (c : BitVec 10) (x : Option Word) (j : Nat) :
    ((s.readied k c x).thr j).group = (s.thr j).group := readied_field (f := Thread.group) (fun _ => rfl) s k c x j

theorem readied_startOk (s : State) (k : Nat) (c : BitVec 10) (x : Option Word) (g : Nat) (y : Addr) :
    (s.readied k c x).startOk g y = s.startOk g y := by
  obtain ⟨ts, cs, ps, h⟩ := readied_eq s k c x
  rw [h]; rfl

theorem towOf_eq_none : s.towOf k = none ↔ ∀ w ∈ s.tows, w.running = true → w.tug ≠ k ∧ k ∉ w.followers := by
  simp [State.towOf, List.find?_eq_none]

theorem readied_towOf (c : BitVec 10) (x : Option Word) (h : s.towOf k = none) : (s.readied k c x).towOf k = none := by
  obtain ⟨ts, cs, ps, he⟩ := readied_eq s k c x
  rw [he]
  rw [towOf_eq_none] at h ⊢
  exact fun w hw => h w (List.mem_of_mem_filter hw)

/-- Outside a running tow, a fault of thread k is delivered to it. -/
theorem takeTrap_eq_enterTrap (c : BitVec 10) (o : BitVec 2) (epc : Option Addr) (x info : Word) (h : s.towOf k = none) :
    s.takeTrap k c o epc (some x) info =
      (s.readied k c (some x)).enterTrap k c o (epc.getD (s.thr k).pc) x info := by
  have hpc : ((s.readied k c (some x)).thr k).pc = (s.thr k).pc := readied_field (f := Thread.pc) (fun _ => rfl) ..
  have hn : (s.noteRead k c (some x)).towOf k = none := by
    obtain ⟨ps, hn⟩ := noteRead_eq s k c (some x)
    rw [hn]; exact h
  rw [← hpc]
  unfold State.takeTrap State.readied
  simp only [hn, State.trapAddr]

/-! ### Trap entry (R220, R221) -/

/-- A thread at its vector, with what the trap has saved (R220). -/
def Thread.trapped (t : Thread) (c : BitVec 10) (o : BitVec 2) (epc : Addr) (x info : Word) (vector : Addr) (area : Word) : Thread :=
  { t with
    trap := { t.trap with cause := (0 : BitVec 52) ++ o ++ c, epc := epc.setWidth 64, eaddr := x, einfo := info,
                          ea := t.a, ef := t.f, ep6 := t.ptrs[6], ep7 := t.ptrs[7], h := true }
    ptrs := t.ptrs.set 7 ((area.extractLsb' 0 56).setWidth 64)
    f := {}
    pc := vector
    yielding := none }

/-- The trap vector of a thread's group. -/
def State.vectorOf (s : State) (k : Nat) : Addr := (s.man ((s.thr k).group.getD 0) 1).extractLsb' 0 56

/-- The thread's part of the trap area. -/
def State.areaOf (s : State) (k : Nat) : Word := s.man ((s.thr k).group.getD 0) 4 + BitVec.ofNat 64 (256 * (s.thr k).tid)

theorem setWidth_eq_vectorOf (s : State) (k : Nat) : (s.man ((s.thr k).group.getD 0) 1).setWidth 56 = s.vectorOf k :=
  BitVec.setWidth_eq_extractLsb' (by decide)

theorem enterTrap_trapped (c : BitVec 10) (o : BitVec 2) (pc : Addr) (x info : Word) (hh : (s.thr k).trap.h = false)
    (hv : s.vectorOf k ≠ 0) :
    s.enterTrap k c o pc x info = s.setThr k ((s.thr k).settled.trapped c o pc x info (s.vectorOf k) (s.areaOf k)) := by
  simp only [State.enterTrap, setWidth_eq_vectorOf, hh, hv, if_false, Bool.false_eq_true]
  rfl

theorem enterTrap_of_h (c : BitVec 10) (o : BitVec 2) (pc : Addr) (x info : Word) (hh : (s.thr k).trap.h = true) :
    s.enterTrap k c o pc x info = ((s.endTow k).endThread k).report ((s.thr k).group.getD 0) 0x0D3 := by
  simp only [State.enterTrap, hh, if_true]

theorem enterTrap_of_noVector (c : BitVec 10) (o : BitVec 2) (pc : Addr) (x info : Word) (hh : (s.thr k).trap.h = false)
    (hv : s.vectorOf k = 0) :
    s.enterTrap k c o pc x info = ((s.endTow k).endThread k).report ((s.thr k).group.getD 0) c := by
  simp only [State.enterTrap, setWidth_eq_vectorOf, hh, hv, if_false, if_true, Bool.false_eq_true]

theorem readied_h (s : State) (k : Nat) (c : BitVec 10) (x : Option Word) :
    ((s.readied k c x).thr k).trap.h = (s.thr k).trap.h :=
  readied_field (f := fun t => t.trap.h) (fun _ => rfl) s k c x k

theorem readied_vectorOf (s : State) (k : Nat) (c : BitVec 10) (x : Option Word) :
    (s.readied k c x).vectorOf k = s.vectorOf k := by
  simp only [State.vectorOf, readied_man, readied_group]

theorem readied_areaOf (s : State) (k : Nat) (c : BitVec 10) (x : Option Word) : (s.readied k c x).areaOf k = s.areaOf k := by
  have htid : ((s.readied k c x).thr k).tid = (s.thr k).tid := readied_field (f := Thread.tid) (fun _ => rfl) s k c x k
  simp only [State.areaOf, readied_man, readied_group, htid]

/-- R220: a delivered trap. -/
theorem takeTrap_trapped (c : BitVec 10) (o : BitVec 2) (epc : Option Addr) (x info : Word) (ht : s.towOf k = none)
    (hh : (s.thr k).trap.h = false) (hv : s.vectorOf k ≠ 0) :
    s.takeTrap k c o epc (some x) info = (s.readied k c (some x)).setThr k
      ((s.thr k).settled.trapped c o (epc.getD (s.thr k).pc) x info (s.vectorOf k) (s.areaOf k)) := by
  rw [takeTrap_eq_enterTrap c o epc x info ht,
    enterTrap_trapped c o _ x info ((readied_h ..).trans hh) (by rwa [readied_vectorOf]),
    readied_settled, readied_vectorOf, readied_areaOf]

/-- R221: a thread that faults with H set ends, and the report has cause 0x0D3. -/
theorem takeTrap_of_h (c : BitVec 10) (o : BitVec 2) (epc : Option Addr) (x info : Word) (ht : s.towOf k = none)
    (hh : (s.thr k).trap.h = true) :
    s.takeTrap k c o epc (some x) info =
      (((s.readied k c (some x)).endTow k).endThread k).report ((s.thr k).group.getD 0) 0x0D3 := by
  rw [takeTrap_eq_enterTrap c o epc x info ht, enterTrap_of_h c o _ x info ((readied_h ..).trans hh), readied_group]

/-- R221: a thread that faults without a vector ends, and the report has the fault's own cause. -/
theorem takeTrap_of_noVector (c : BitVec 10) (o : BitVec 2) (epc : Option Addr) (x info : Word) (ht : s.towOf k = none)
    (hh : (s.thr k).trap.h = false) (hv : s.vectorOf k = 0) :
    s.takeTrap k c o epc (some x) info =
      (((s.readied k c (some x)).endTow k).endThread k).report ((s.thr k).group.getD 0) c := by
  rw [takeTrap_eq_enterTrap c o epc x info ht,
    enterTrap_of_noVector c o _ x info ((readied_h ..).trans hh) (by rwa [readied_vectorOf]), readied_group]

theorem endTow_of_alone (h : s.towOf k = none) : s.endTow k = { s with tows := s.tows.filter (fun w => w.tug != k) } := by
  have hnone : s.tows.filter (fun w => w.tug == k && w.running) = [] := by
    simpa [List.filter_eq_nil_iff] using fun w hw ht hr => (towOf_eq_none.1 h w hw hr).1 ht
  simp only [State.endTow, hnone, List.flatMap_nil, List.foldl_nil]

/-- Thread k has ended in t, and its slot stays allotted; the grid's root gets a report with the cause (R59, R221). -/
def State.EndsIn (s : State) (k : Nat) (cause : BitVec 10) (t : State) : Prop :=
  let g := s.grp ((s.thr k).group.getD 0)
  (t.thr k).live = false ∧ (t.thr k).group = (s.thr k).group ∧ (t.thr k).trap.h = false ∧
    t.reports = s.reports ++ [{ grid := g.grid, cause := cause, gid := g.gid, package := packageOf g.cluster }] ∧
    t.mem = s.mem ∧ ∀ j, j ≠ k → t.thr j = s.thr j ∨ t.thr j = (s.thr j).released

theorem endsIn_report_endThread (h : s.towOf k = none) (c : BitVec 10) (x : Option Word) (cause : BitVec 10) :
    s.EndsIn k cause ((((s.readied k c x).endTow k).endThread k).report ((s.thr k).group.getD 0) cause) := by
  have hthr := readied_thr s k c x
  have hgroup := readied_group s k c x k
  rw [endTow_of_alone (readied_towOf c x h)]
  obtain ⟨ts, cs, ps, he⟩ := readied_eq s k c x
  rw [he] at hthr hgroup ⊢
  refine ⟨?live, ?group, ?h, rfl, rfl, fun j hj => ?other⟩
  case live => exact congrArg Thread.live (thr_setThr _ k _)
  case group => exact (congrArg Thread.group (thr_setThr _ k _)).trans hgroup
  case h => exact congrArg (fun t : Thread => t.trap.h) (thr_setThr _ k _)
  case other =>
    rcases hthr j with e | e
    · exact .inl ((thr_setThr_ne _ _ hj).trans e)
    · exact .inr ((thr_setThr_ne _ _ hj).trans e)

/-! ### Bodies that stop -/

theorem run_bind_of_does {α β : Type} {m : Exec α} {v : α} (hm : Does m s v t) (f : α → Exec β) :
    (m >>= f).run s = (f v).run t := by
  rw [StateT.run_bind, show m.run s = _ from hm]; rfl

theorem run_bind_of_error {α β : Type} {m : Exec α} {e : Stop} (hm : m.run s = .error e) (f : α → Exec β) :
    (m >>= f).run s = .error e := by
  rw [StateT.run_bind, hm]; rfl

theorem does_checkStart (h : s.startOk s.myGrp pc = true) : Does (checkStart pc) s () s := by
  unfold checkStart
  exact does_bind (does_get s) (by rw [if_pos h]; exact does_pure () s)

theorem checkStart_traps (h : s.startOk s.myGrp pc = false) :
    (checkStart pc).run s = .error (.trap 0x0A1 0 none (some (pc.setWidth 64)) 0) := by
  unfold checkStart
  rw [run_bind_of_does (does_get s), h, if_neg Bool.false_ne_true]; rfl

theorem issued_myGrp (s : State) : s.issued.myGrp = s.myGrp := by
  unfold State.myGrp
  rw [issued_me_group]

theorem issued_startOk (s : State) (g : Nat) (y : Addr) : s.issued.startOk g y = s.startOk g y := rfl

theorem issued_me_trap (s : State) : s.issued.me.trap = s.me.trap := issued_thr_trap s s.cur

/-! ### `trap` and `eret` (R230, R231) -/

/-- R230. -/
theorem exec_trap (n : BitVec 4) (hl : s.lets p) :
    exec (.trap p n) s =
      .next (s.issued.takeTrap s.cur (0x3F0 + n.setWidth 10) 2 (some (nextPc s.me.pc 8)) (some 0) 0) := by
  rw [← issued_me_pc]
  change execTrap p n s = _
  unfold execTrap
  exact issue_traps (ctl := false) hl rfl

theorem exec_trap_skips (n : BitVec 4) (hl : ¬ s.lets p) : exec (.trap p n) s = .next (s.issued.complete 8 none) := by
  change execTrap p n s = _
  unfold execTrap
  exact issue_skips (ctl := false) (Bool.eq_false_iff.2 hl)

theorem exec_eret_skips (hl : ¬ s.lets p) : exec (.eret p) s = .next (s.issued.complete 8 none) := by
  change execEret p s = _
  unfold execEret
  exact issue_skips (ctl := false) (Bool.eq_false_iff.2 hl)

/-- Outside a handler `eret` is a fault. -/
theorem exec_eret_of_not_h (hl : s.lets p) (hh : s.me.trap.h = false) :
    exec (.eret p) s = .next (s.issued.takeTrap s.cur 0x0D2 0 none none 0) := by
  rw [← issued_me_trap] at hh
  change execEret p s = _
  unfold execEret
  refine issue_traps (ctl := false) hl ?_
  rw [run_bind_of_does (does_getMe _), hh]
  rfl

/-- A return to an address where no instruction starts is a fault (R35). -/
theorem exec_eret_of_bad_start (hl : s.lets p) (hh : s.me.trap.h = true)
    (hs : s.startOk s.myGrp (s.me.trap.epc.setWidth 56) = false) :
    exec (.eret p) s =
      .next (s.issued.takeTrap s.cur 0x0A1 0 none (some ((s.me.trap.epc.setWidth 56 : Addr).setWidth 64)) 0) := by
  rw [← issued_startOk, ← issued_myGrp, ← issued_me_trap] at hs
  rw [← issued_me_trap] at hh ⊢
  change execEret p s = _
  unfold execEret
  refine issue_traps (ctl := false) hl ?_
  rw [run_bind_of_does (does_getMe _), hh, if_neg (by decide)]
  exact run_bind_of_error (checkStart_traps hs) _

/-- A thread that a handler has returned to an address. -/
def Thread.returned (t : Thread) (pc : Addr) : Thread := { t.restore.settled with pc := pc }

theorem resume_of_alone (pc : Addr) (h : s.towOf k = none) : s.resume k pc = s.setThr k ((s.thr k).returned pc) := by
  have ht : (s.setThr k (s.thr k).restore).towOf k = none := h
  simp only [State.resume, modThr_eq, ht, State.goOn, setThr_setThr, thr_setThr]
  rfl

/-- R231: `eret` in a thread outside a running tow. -/
theorem exec_eret_returns (hl : s.lets p) (ha : s.alone) (hh : s.me.trap.h = true)
    (hs : s.startOk s.myGrp (s.me.trap.epc.setWidth 56) = true) :
    exec (.eret p) s = .next (State.setThr { s with cursor := 0, place := 0 } s.cur
      (s.me.returned (s.me.trap.epc.setWidth 56))) := by
  have hret : s.issued.resume s.cur (s.me.trap.epc.setWidth 56) =
      State.setThr { s with cursor := 0, place := 0 } s.cur (s.me.returned (s.me.trap.epc.setWidth 56)) := by
    rw [resume_of_alone _ ((issued_towOf s s.cur).trans ha), issued_thr, issued_eq, setThr_setThr]
    rfl
  rw [← hret]
  rw [← issued_startOk, ← issued_myGrp, ← issued_me_trap] at hs
  rw [← issued_me_trap] at hh ⊢
  change execEret p s = _
  unfold execEret
  refine issue_ends (ctl := false) hl ?_
  rw [run_bind_of_does (does_getMe _), hh, if_neg (by decide), run_bind_of_does (does_checkStart hs),
    run_bind_of_does (does_get _)]
  rfl

/-! ### The pointers of a thread that traps and returns -/

theorem trapped_ptr7 (t : Thread) (c : BitVec 10) (o : BitVec 2) (epc vector : Addr) (x info area : Word) :
    (t.trapped c o epc x info vector area).ptrs[7] = (area.extractLsb' 0 56).setWidth 64 := Vector.getElem_set_self _

theorem trapped_ptrs (t : Thread) (c : BitVec 10) (o : BitVec 2) (epc vector : Addr) (x info area : Word) (i : Fin 7) :
    (t.trapped c o epc x info vector area).ptrs[i.val] = t.ptrs[i.val] :=
  Vector.getElem_set_ne (by decide) (Nat.lt_of_lt_of_le i.isLt (by decide)) (by omega)

theorem restore_ptr6 (t : Thread) : t.restore.ptrs[6] = t.trap.ep6 := by
  simp [Thread.restore]

theorem restore_ptr7 (t : Thread) : t.restore.ptrs[7] = t.trap.ep7 := by
  simp [Thread.restore]

theorem restore_ptrs (t : Thread) (i : Fin 6) : t.restore.ptrs[i.val] = t.ptrs[i.val] := by
  have h6 : 6 ≠ i.val := by omega
  have h7 : 7 ≠ i.val := by omega
  simp [Thread.restore, Vector.getElem_set_ne, h6, h7]

/-- A handler that changes nothing gives p0 to p7 back as the trap found them. -/
theorem restore_trapped_ptrs (t : Thread) (c : BitVec 10) (o : BitVec 2) (epc vector : Addr) (x info area : Word) :
    (t.trapped c o epc x info vector area).restore.ptrs = t.ptrs := by
  ext i hi : 1
  rcases (by omega : i < 6 ∨ i = 6 ∨ i = 7) with h | rfl | rfl
  · rw [restore_ptrs _ ⟨i, h⟩]
    exact trapped_ptrs t c o epc vector x info area ⟨i, by omega⟩
  · exact restore_ptr6 _
  · exact restore_ptr7 _

/-- R231: what a thread that has trapped gets back at its return, if its handler has changed nothing. -/
theorem returned_trapped (t : Thread) (c : BitVec 10) (o : BitVec 2) (epc vector y : Addr) (x info area : Word) :
    let r := (t.settled.trapped c o epc x info vector area).returned y
    r.a = t.a ∧ r.f = t.f ∧ r.ptrs = t.ptrs ∧ r.va = t.va ∧ r.vm = t.vm ∧ r.lc = t.lc ∧ r.h = t.h ∧ r.pc = y ∧
      r.trap.h = false :=
  ⟨rfl, rfl, restore_trapped_ptrs t.settled c o epc vector x info area, rfl, rfl, rfl, rfl, rfl, rfl⟩

theorem trapped_epc (t : Thread) (c : BitVec 10) (o : BitVec 2) (epc vector : Addr) (x info area : Word) :
    (t.trapped c o epc x info vector area).trap.epc.setWidth 56 = epc :=
  BitVec.setWidth_setWidth_of_le epc (by decide)

theorem setThr_withCur (s : State) (k j : Nat) (t : Thread) :
    { s.setThr k t with cur := j } = State.setThr { s with cur := j } k t := rfl

/-- `eret` in a thread v in its handler, whose flags are those that a trap entry leaves. -/
theorem exec_eret_in_handler {v : Thread} (hp : p = .always ∨ p = .nown) (ha : s.alone) (hf : v.f = {})
    (hh : v.trap.h = true) (hepc : v.trap.epc.setWidth 56 = pc) (hs : s.startOk (v.group.getD 0) pc = true) :
    exec (.eret p) (s.setThr s.cur v) =
      .next (State.setThr { s with cursor := 0, place := 0 } s.cur (v.returned pc)) := by
  have hme : (s.setThr s.cur v).me = v := me_setThr s v
  have hl : (s.setThr s.cur v).lets p := by
    rw [State.lets, hme, hf]
    rcases hp with rfl | rfl <;> rfl
  have hstart : (s.setThr s.cur v).startOk (s.setThr s.cur v).myGrp ((s.setThr s.cur v).me.trap.epc.setWidth 56) = true := by
    rw [State.myGrp, hme, hepc]
    exact hs
  have hexec := exec_eret_returns hl ha (by rw [hme]; exact hh) hstart
  rw [hme, hepc] at hexec
  exact hexec.trans (congrArg _ (setThr_setThr { s with cursor := 0, place := 0 } s.cur v _))

end Steps

/-! ### The obligations -/

/-- Settles O15: thread k enters its trap in the state that `readied` gives, or ends there. -/
theorem trapEntry : Obligations.TrapEntry := by
  unfold Obligations.TrapEntry
  refine ⟨?delivered, ?ends⟩
  case delivered =>
    intro s k c o epc x info ht hh hv b t
    have htake := takeTrap_trapped c o epc x info ht hh hv
    have hme : t = b.settled.trapped c o (epc.getD b.pc) x info (s.vectorOf k) (s.areaOf k) :=
      (congrArg (State.thr · k) htake).trans (thr_setThr ..)
    have hother (j : Nat) (hj : j ≠ k) :
        (s.takeTrap k c o epc (some x) info).thr j = (s.readied k c (some x)).thr j := by
      rw [htake, thr_setThr_ne _ _ hj]
    obtain ⟨ts, cs, ps, he⟩ := readied_eq s k c (some x)
    have hmem : (s.takeTrap k c o epc (some x) info).mem = s.mem := by rw [htake, he]; rfl
    have hgroups : (s.takeTrap k c o epc (some x) info).groups = s.groups := by rw [htake, he]; rfl
    have hmaybe (j : Nat) (hj : j ≠ k) : (s.takeTrap k c o epc (some x) info).thr j = s.thr j ∨
        (s.takeTrap k c o epc (some x) info).thr j = (s.thr j).released := by
      rw [hother j hj]; exact readied_thr s k c (some x) j
    have hsame (hu : s.unreserved k) (j : Nat) (hj : j ≠ k) :=
      (hother j hj).trans (readied_thr_of_unreserved hu c (some x) j)
    rw [hme]
    exact ⟨rfl, rfl, rfl, rfl, rfl, rfl, rfl, rfl, rfl, rfl, rfl, rfl, trapped_ptr7 .., trapped_ptrs _ c o _ _ x info _,
      rfl, rfl, rfl, rfl, rfl, rfl, rfl, rfl, hmaybe, hsame, hmem, hgroups⟩
  case ends =>
    intro s k c o epc x info ht t g ends
    refine ⟨fun hh => ?h, fun hh hv => ?noVector⟩
    case h =>
      have htake : t = _ := takeTrap_of_h c o epc x info ht hh
      have hends : s.EndsIn k 0x0D3 t := htake ▸ endsIn_report_endThread ht ..
      exact hends
    case noVector =>
      have htake : t = _ := takeTrap_of_noVector c o epc x info ht hh hv
      have hends : s.EndsIn k c t := htake ▸ endsIn_report_endThread ht ..
      exact hends

/-- Settles O16: `trap` is an issue that traps, `eret` one that resumes, and the restore undoes the entry. -/
theorem trapAndReturn : Obligations.TrapAndReturn := by
  unfold Obligations.TrapAndReturn
  refine ⟨⟨fun p n s hl => exec_trap n hl, fun p s hl hh => exec_eret_of_not_h hl hh, ?returns, ?others⟩, ?roundTrip⟩
  case returns =>
    intro p s hl ha hh hs
    refine ⟨_, exec_eret_returns hl ha hh hs, ?_⟩
    have hme := me_setThr { s with cursor := 0, place := 0 } (s.me.returned (s.me.trap.epc.setWidth 56))
    have hother (j : Nat) (hj : j ≠ s.cur) :=
      thr_setThr_ne { s with cursor := 0, place := 0 } (s.me.returned (s.me.trap.epc.setWidth 56)) hj
    rw [hme]
    exact ⟨rfl, rfl, restore_ptr6 _, restore_ptr7 _, restore_ptrs _, rfl, rfl, rfl, rfl, rfl, rfl, rfl, hother, rfl⟩
  case others =>
    exact fun p n s =>
      ⟨fun hl => ⟨exec_trap_skips n hl, exec_eret_skips hl⟩, fun hl _ hh hs => exec_eret_of_bad_start hl hh hs⟩
  case roundTrip =>
    intro s k c o pc x info p u ht hh hv hs hp hu
    have htow := readied_towOf c (some x) ht
    have hstart := (readied_startOk s k c (some x) _ pc).trans hs
    obtain ⟨ts, cs, ps, he⟩ := readied_eq s k c (some x)
    have hmem : (s.readied k c (some x)).mem = s.mem := by rw [he]
    have hgroups : (s.readied k c (some x)).groups = s.groups := by rw [he]
    rw [takeTrap_trapped c o (some pc) x info ht hh hv, Option.getD_some, setThr_withCur] at hu
    generalize s.readied k c (some x) = r at htow hstart hmem hgroups hu
    subst hu
    refine ⟨_, exec_eret_in_handler (s := { r with cur := k }) hp htow rfl rfl (trapped_epc ..) hstart, ?_⟩
    obtain ⟨ra, rf, rptrs, rva, rvm, rlc, rh, rpc, rtrap⟩ :=
      returned_trapped (s.thr k) c o pc (s.vectorOf k) pc x info (s.areaOf k)
    rw [thr_setThr]
    refine ⟨ra, rf, rptrs, rva, rvm, rlc, rh, rpc, rtrap, hmem, hgroups, fun j hj => ?_⟩
    rw [thr_setThr_ne _ _ hj, thr_setThr_ne _ _ hj]
    rfl

end Sys2Proof.Machine
end

section
/-! PROOFS. Chapter 17, `mf.patch` and `mf.arm` (R386 to R388). -/
namespace Sys2Proof.Machine

section Manifests
variable {h : Hdr} {p : Pred} {mf : NumArg 12} {word : BitVec 5} {src : Opnd} {s u : State} {v : Word}

/-! ### Bodies that trap -/

theorem straight_traps {body : Exec Unit} {c : BitVec 10} {o : BitVec 2} {epc : Option Addr} {x : Option Word} {info : Word}
    (hl : s.lets h.pred) (hb : body.run s.issued = .error (.trap c o epc x info)) :
    straight h body s = .next (s.issued.takeTrap s.cur c o epc x info) :=
  issue_traps (ctl := false) hl (run_bind_of_error hb _)

theorem straightS_traps {body : Exec Unit} {c : BitVec 10} {o : BitVec 2} {epc : Option Addr} {x : Option Word} {info : Word}
    (hl : s.lets p) (hb : body.run s.issued = .error (.trap c o epc x info)) :
    straightS p body s = .next (s.issued.takeTrap s.cur c o epc x info) :=
  issue_traps (ctl := false) hl (run_bind_of_error hb _)

/-! ### Words of a manifest -/

theorem length_mfSet (ws : List Word) (i : Nat) (v : Word) : (mfSet ws i v).length = 32 := by
  rw [mfSet, List.length_map, List.length_range]

theorem mfWord_mfSet (ws : List Word) (i : Nat) (v : Word) {j : Nat} (hj : j < 32) :
    mfWord (mfSet ws i v) j = if j = i then v else mfWord ws j := by
  simp [mfWord, mfSet, hj]

/-! ### The manifest that an instruction names -/

/-- The grid of the executing thread. -/
def State.myGrid (s : State) : Grid := s.grid (s.grp s.myGrp).grid

/-- The index of the manifest: MF, or a[11:0]. -/
def State.mfNumber (s : State) (mf : NumArg 12) : Nat :=
  match mf with
  | .imm v => v.toNat
  | .acc => (s.me.a.extractLsb' 0 12).toNat

/-- The words of the manifest, in the thread's berth. -/
def State.mfNamed (s : State) (mf : NumArg 12) : List Word := s.mfWords s.myGrid.bk (s.mfNumber mf)

theorem does_getGrid (s : State) : Does getGrid s s.myGrid s := rfl

theorem does_mfIndex (mf : NumArg 12) (s : State) : Does (mfIndex mf) s (s.mfNumber mf) s := by
  cases mf <;> rfl

theorem does_takeMf (hw : mfState (s.mfNamed mf) ≠ 0) : Does (takeMf (s.mfNumber mf)) s (s.mfNamed mf) s := by
  unfold State.mfNamed at hw ⊢
  refine does_bind (does_get s) (does_bind (does_getGrid s) ?_)
  rw [if_neg hw]
  exact does_pure _ s

theorem takeMf_traps (hw : mfState (s.mfNamed mf) = 0) :
    (takeMf (s.mfNumber mf)).run s = .error (.trap 0x0E8 0 none none 0) := by
  unfold State.mfNamed at hw
  unfold takeMf
  rw [run_bind_of_does (does_get s), run_bind_of_does (does_getGrid s), if_pos hw]
  rfl

/-- An instruction that names a manifest of the thread's berth begins with these reads. -/
def onMf {α : Type} (mf : NumArg 12) (k : Nat → List Word → Grid → Exec α) : Exec α := do
  let i ← mfIndex mf
  let w ← takeMf i
  let gr ← getGrid
  k i w gr

theorem run_onMf {α : Type} (k : Nat → List Word → Grid → Exec α) (hw : mfState (s.mfNamed mf) ≠ 0) :
    (onMf mf k).run s = (k (s.mfNumber mf) (s.mfNamed mf) s.myGrid).run s := by
  unfold onMf
  rw [run_bind_of_does (does_mfIndex mf s), run_bind_of_does (does_takeMf hw), run_bind_of_does (does_getGrid s)]

theorem onMf_traps {α : Type} (k : Nat → List Word → Grid → Exec α) (hw : mfState (s.mfNamed mf) = 0) :
    (onMf mf k).run s = .error (.trap 0x0E8 0 none none 0) := by
  unfold onMf
  rw [run_bind_of_does (does_mfIndex mf s)]
  exact run_bind_of_error (takeMf_traps hw) _

theorem issued_mfNumber (s : State) (mf : NumArg 12) : s.issued.mfNumber mf = s.mfNumber mf := by
  simp only [State.mfNumber, issued_me_a]

theorem issued_myGrid (s : State) : s.issued.myGrid = s.myGrid := by
  unfold State.myGrid
  rw [issued_myGrp]
  rfl

theorem issued_mfNamed (s : State) (mf : NumArg 12) : s.issued.mfNamed mf = s.mfNamed mf := by
  unfold State.mfNamed
  rw [issued_myGrid, issued_mfNumber]
  rfl

/-! ### `mf.patch` (R387) -/

/-- A word that `mf.patch` may write: a number up to 17, with its bit set in PMASK. -/
def patchable (w : List Word) (word : BitVec 5) : Prop :=
  word.toNat ≤ 17 ∧ (mfWord w 18).getLsbD word.toNat = true

theorem not_patchable_iff (w : List Word) (word : BitVec 5) :
    ¬ patchable w word ↔ (decide (17 < word.toNat) || !(mfWord w 18).getLsbD word.toNat) = true := by
  simp [patchable, imp_iff_not_or]

/-- The checks of `mf.patch` and its write. -/
def mfPatchBody (word : BitVec 5) (v : Word) (i : Nat) (w : List Word) (gr : Grid) : Exec Unit :=
  if 17 < word.toNat || !(mfWord w 18).getLsbD word.toNat then faultOp 0x0E9
  else if mfState w = 2 then faultOp 0x0EA
  else modify (fun s => s.putMf gr.bk i (mfSet w word.toNat v))

theorem exec_mfPatch (h : Hdr) (mf : NumArg 12) (word : BitVec 5) (src : Opnd) (s : State) :
    exec (.mfPatch h mf word src) s = straight h (do let v ← readSrc src 8 opB; onMf mf (mfPatchBody word v)) s := rfl

theorem mfPatchBody_traps_of_not_patchable {i : Nat} {w : List Word} {gr : Grid} (hn : ¬ patchable w word) :
    (mfPatchBody word v i w gr).run u = .error (.trap 0x0E9 0 none none 0) := by
  unfold mfPatchBody
  rw [if_pos ((not_patchable_iff w word).1 hn)]
  rfl

theorem mfPatchBody_traps_of_armed {i : Nat} {w : List Word} {gr : Grid} (hn : patchable w word) (ha : mfState w = 2) :
    (mfPatchBody word v i w gr).run u = .error (.trap 0x0EA 0 none none 0) := by
  unfold mfPatchBody
  rw [if_neg (fun hb => (not_patchable_iff w word).2 hb hn), if_pos ha]
  rfl

theorem does_mfPatchBody {i : Nat} {w : List Word} {gr : Grid} (hn : patchable w word) (ha : mfState w ≠ 2) :
    Does (mfPatchBody word v i w gr) u () (u.putMf gr.bk i (mfSet w word.toNat v)) := by
  unfold mfPatchBody
  rw [if_neg (fun hb => (not_patchable_iff w word).2 hb hn), if_neg ha]
  exact does_modify _ u

theorem exec_mfPatch_traps {c : BitVec 10} (hl : s.lets h.pred) (hr : Does (readSrc src 8 opB) s.issued v u)
    (hb : (onMf mf (mfPatchBody word v)).run u = .error (.trap c 0 none none 0)) :
    exec (.mfPatch h mf word src) s = .next (s.issued.takeTrap s.cur c 0 none none 0) := by
  rw [exec_mfPatch]
  exact straight_traps hl ((run_bind_of_does hr _).trans hb)

theorem exec_mfPatch_writes (hl : s.lets h.pred) (hr : Does (readSrc src 8 opB) s.issued v u)
    (hw : mfState (u.mfNamed mf) ≠ 0) (ha : mfState (u.mfNamed mf) ≠ 2) (hn : patchable (u.mfNamed mf) word) :
    exec (.mfPatch h mf word src) s =
      .next ((u.putMf u.myGrid.bk (u.mfNumber mf) (mfSet (u.mfNamed mf) word.toNat v)).complete h.form.bytes none) := by
  rw [exec_mfPatch]
  exact straight_completes hl (does_bind hr ((run_onMf _ hw).trans (does_mfPatchBody hn ha)))

/-! ### `mf.arm` (R388) -/

/-- The status of the arm checks of the manifest that the executing thread names. -/
def State.myArmStatus (s : State) (mf : NumArg 12) : Nat :=
  s.armStatus s.myPkg s.myGrid.bk s.myGrid.part (s.part s.myGrid.part).published (s.mfNamed mf)

theorem issued_myArmStatus (s : State) (mf : NumArg 12) : s.issued.myArmStatus mf = s.myArmStatus mf := by
  unfold State.myArmStatus
  rw [issued_myGrid, issued_mfNamed]
  rfl

/-- A status in a, with Z and P where it is 0. -/
def State.reporting (u : State) (n : Nat) : State :=
  (u.withA (BitVec.ofNat 64 n)).withFlags (fun f =>
    { f with p := decide (n = 0), z := decide (n = 0), n := false, c := false, v := false })

/-- STATE of the manifest that the executing thread names becomes st. -/
def State.settingMf (u : State) (mf : NumArg 12) (st : Word) : State :=
  u.putMf u.myGrid.bk (u.mfNumber mf) (mfSet (u.mfNamed mf) 20 st)

theorem issued_settingMf (s : State) (mf : NumArg 12) (st : Word) :
    s.issued.settingMf mf st = s.issued.putMf s.myGrid.bk (s.mfNumber mf) (mfSet (s.mfNamed mf) 20 st) := by
  unfold State.settingMf
  rw [issued_myGrid, issued_mfNumber, issued_mfNamed]

/-- The checks of `mf.arm` and its writes. -/
def mfArmBody (off : Bool) (i : Nat) (w : List Word) (gr : Grid) : Exec Unit := do
  let s ← get
  let r := if off then 0 else s.armStatus s.myPkg gr.bk gr.part (s.part gr.part).published w
  if off then set (s.putMf gr.bk i (mfSet w 20 1)) else if r = 0 then set (s.putMf gr.bk i (mfSet w 20 2)) else pure ()
  setA (BitVec.ofNat 64 r)
  modFlags (fun f => { f with p := decide (r = 0), z := decide (r = 0), n := false, c := false, v := false })

theorem exec_mfArm (p : Pred) (mf : NumArg 12) (off : Bool) (s : State) :
    exec (.mfArm p mf off) s = straightS p (onMf mf (mfArmBody off)) s := rfl

theorem does_mfArmBody_off (mf : NumArg 12) (u : State) :
    Does (mfArmBody true (u.mfNumber mf) (u.mfNamed mf) u.myGrid) u () ((u.settingMf mf 1).reporting 0) :=
  does_bind (does_get u) (does_bind (does_set u _) (does_bind (does_setA _ _) (does_modFlags _ _)))

theorem does_mfArmBody_of_passes (hr : u.myArmStatus mf = 0) :
    Does (mfArmBody false (u.mfNumber mf) (u.mfNamed mf) u.myGrid) u () ((u.settingMf mf 2).reporting 0) := by
  unfold State.myArmStatus at hr
  refine does_bind (does_get u) ?_
  simp only [Bool.false_eq_true, if_false, hr, if_true]
  exact does_bind (does_set u _) (does_bind (does_setA _ _) (does_modFlags _ _))

theorem does_mfArmBody_of_fails (hr : u.myArmStatus mf ≠ 0) :
    Does (mfArmBody false (u.mfNumber mf) (u.mfNamed mf) u.myGrid) u () (u.reporting (u.myArmStatus mf)) := by
  unfold State.myArmStatus at hr ⊢
  refine does_bind (does_get u) ?_
  simp only [Bool.false_eq_true, if_false]
  rw [if_neg hr]
  exact does_bind (does_setA _ _) (does_modFlags _ _)

theorem exec_mfArm_traps (off : Bool) (hl : s.lets p) (hw : mfState (s.mfNamed mf) = 0) :
    exec (.mfArm p mf off) s = .next (s.issued.takeTrap s.cur 0x0E8 0 none none 0) := by
  rw [← issued_mfNamed] at hw
  rw [exec_mfArm]
  exact straightS_traps hl (onMf_traps _ hw)

theorem exec_mfArm_completes {off : Bool} (hl : s.lets p) (hw : mfState (s.mfNamed mf) ≠ 0)
    (hb : Does (mfArmBody off (s.issued.mfNumber mf) (s.issued.mfNamed mf) s.issued.myGrid) s.issued () u) :
    exec (.mfArm p mf off) s = .next (u.complete 8 none) := by
  rw [← issued_mfNamed] at hw
  rw [exec_mfArm]
  exact straightS_completes hl ((run_onMf _ hw).trans hb)

theorem exec_mfArm_off (hl : s.lets p) (hw : mfState (s.mfNamed mf) ≠ 0) :
    exec (.mfArm p mf true) s = .next (((s.issued.settingMf mf 1).reporting 0).complete 8 none) :=
  exec_mfArm_completes hl hw (does_mfArmBody_off mf s.issued)

theorem exec_mfArm_of_passes (hl : s.lets p) (hw : mfState (s.mfNamed mf) ≠ 0) (hr : s.myArmStatus mf = 0) :
    exec (.mfArm p mf false) s = .next (((s.issued.settingMf mf 2).reporting 0).complete 8 none) :=
  exec_mfArm_completes hl hw (does_mfArmBody_of_passes ((issued_myArmStatus s mf).trans hr))

theorem exec_mfArm_of_fails (hl : s.lets p) (hw : mfState (s.mfNamed mf) ≠ 0) (hr : s.myArmStatus mf ≠ 0) :
    exec (.mfArm p mf false) s = .next ((s.issued.reporting (s.myArmStatus mf)).complete 8 none) := by
  rw [← issued_myArmStatus] at hr ⊢
  exact exec_mfArm_completes hl hw (does_mfArmBody_of_fails hr)

end Manifests

/-! ### The obligation -/

/-- Settles O47: both instructions read the manifest they name, and then check and write it. -/
theorem manifestInstructions : Obligations.ManifestInstructions := by
  unfold Obligations.ManifestInstructions
  intro h p mf word src s idx gr w
  refine ⟨fun v u hl hr => ?patch, fun hl => ?arm, ?words⟩
  case patch =>
    intro traps named
    refine ⟨fun hw => exec_mfPatch_traps hl hr (onMf_traps _ hw), fun hw hn => ?unnamed, fun ha hn => ?armed,
      fun hw ha hn => exec_mfPatch_writes hl hr hw ha hn⟩
    case unnamed => exact exec_mfPatch_traps hl hr ((run_onMf _ hw).trans (mfPatchBody_traps_of_not_patchable hn))
    case armed =>
      have hw : mfState (w u) ≠ 0 := ne_of_eq_of_ne ha (by decide)
      exact exec_mfPatch_traps hl hr ((run_onMf _ hw).trans (mfPatchBody_traps_of_armed hn ha))
  case arm =>
    intro r ends
    refine ⟨fun hw off => exec_mfArm_traps off hl hw, fun hw => ⟨?off, fun hr => ?passes, fun hr => ?fails⟩⟩
    case off => exact (issued_settingMf s mf 1) ▸ exec_mfArm_off hl hw
    case passes => exact (issued_settingMf s mf 2) ▸ exec_mfArm_of_passes hl hw hr
    case fails => exact exec_mfArm_of_fails hl hw hr
  case words =>
    intro ws i v hi
    refine ⟨length_mfSet ws i v, ?same, fun j hj hne => ?other⟩
    case same => rw [mfWord_mfSet ws i v hi, if_pos rfl]
    case other => rw [mfWord_mfSet ws i v hj, if_neg hne]

end Sys2Proof.Machine
end

section
/-! PROOFS. Chapter 19, the steps of wake slots: observations, updates at their homes, drops and reads (R406 to R413). -/
namespace Sys2Proof.Machine

section Wake
variable {s t : State} {k ck loc base copy n : Nat} {u : WakeUpd} {us : List WakeUpd} {v : Word}

/-! ### Little-endian values -/

@[simp] theorem leBytes_length (x n : Nat) : (leBytes x n).length = n := by
  induction n generalizing x with
  | zero => rfl
  | succ n ih => exact congrArg (· + 1) (ih _)

theorem leVal_cons (b : Byte) (bs : List Byte) : leVal (b :: bs) = b.toNat + 256 * leVal bs := rfl

theorem leBytes_succ (x n : Nat) : leBytes x (n + 1) = BitVec.ofNat 8 x :: leBytes (x / 256) n := rfl

theorem leVal_leBytes (x n : Nat) : leVal (leBytes x n) = x % 256 ^ n := by
  induction n generalizing x with
  | zero => exact (Nat.mod_one x).symm
  | succ n ih => rw [leBytes_succ, leVal_cons, ih, BitVec.toNat_ofNat, pow_succ' 256, Nat.mod_mul]

theorem leVal_append (xs ys : List Byte) : leVal (xs ++ ys) = leVal xs + 256 ^ xs.length * leVal ys := by
  induction xs with
  | nil => simp [leVal, bitsOfBytes]
  | cons b bs ih => rw [List.cons_append, leVal_cons, leVal_cons, ih, List.length_cons, pow_succ']; ring

theorem leVal_lt (bs : List Byte) : leVal bs < 256 ^ bs.length := by
  induction bs with
  | nil => exact Nat.one_pos
  | cons b bs ih => rw [leVal_cons, List.length_cons, pow_succ']; have := b.isLt; omega

/-- A word is what its eight bytes read as. -/
theorem leWord_leBytes (v : Word) : leWord (leBytes v.toNat 8) = v := by
  have hv : v.toNat % 256 ^ 8 = v.toNat := Nat.mod_eq_of_lt v.isLt
  rw [leWord, leVal_leBytes, hv, BitVec.ofNat_toNat, BitVec.setWidth_eq]

theorem memBytes_add (m : Memory) (a i j : Nat) : memBytes m a (i + j) = memBytes m a i ++ memBytes m (a + i) j := by
  induction i generalizing a with
  | zero => simp [memBytes]
  | succ i ih => rw [Nat.succ_add, memBytes, memBytes, ih, List.cons_append, Nat.succ_add_eq_add_succ]

/-- The eight bytes at a location are its two halves. -/
theorem leVal_memBytes_halves (m : Memory) (a : Nat) :
    leVal (memBytes m a 8) = leVal (memBytes m a 4) + 2 ^ 32 * leVal (memBytes m (a + 4) 4) := by
  rw [memBytes_add m a 4 4, leVal_append, memBytes_length]; rfl

theorem leVal_memBytes_lt (m : Memory) (a n : Nat) : leVal (memBytes m a n) < 256 ^ n := by
  simpa using leVal_lt (memBytes m a n)

theorem leWord_memBytes_toNat (m : Memory) (a : Nat) : (leWord (memBytes m a 8)).toNat = leVal (memBytes m a 8) :=
  Nat.mod_eq_of_lt (leVal_memBytes_lt m a 8)

theorem leWord_memBytes_low (m : Memory) (a : Nat) :
    ((leWord (memBytes m a 8)).extractLsb' 0 32).toNat = leVal (memBytes m a 4) := by
  have hl := leVal_memBytes_lt m a 4
  rw [BitVec.extractLsb'_toNat, leWord_memBytes_toNat, leVal_memBytes_halves]
  omega

theorem leWord_memBytes_high (m : Memory) (a : Nat) :
    ((leWord (memBytes m a 8)).extractLsb' 32 32).toNat = leVal (memBytes m (a + 4) 4) := by
  have hl := leVal_memBytes_lt m a 4
  have hh := leVal_memBytes_lt m (a + 4) 4
  rw [BitVec.extractLsb'_toNat, leWord_memBytes_toNat, leVal_memBytes_halves]
  omega

/-! ### What a home performs where no core holds an update-only line -/

theorem recall_of_no_holders (hh : s.holders = []) (line : Nat) : s.recall line = s := by
  rw [State.recall, hh]; rfl

theorem recallN_of_no_holders (hh : s.holders = []) (loc n : Nat) : s.recallN loc n = s := by
  rw [State.recallN]
  split
  · rfl
  · exact List.foldlRecOn (motive := (· = s)) _ _ rfl (fun t ht l _ => by rw [ht, recall_of_no_holders hh])

theorem homePerform_read (hh : s.holders = []) (loc core n : Nat) :
    s.homePerform loc core (.read n) = (memBytes s.mem loc n, s) := by
  rw [State.homePerform, recallN_of_no_holders hh]

theorem latchDeps_eq (s : State) (loc n : Nat) : s.latchDeps loc n = { s with grids := (s.latchDeps loc n).grids } := by
  rw [State.latchDeps]; split <;> rfl

/-- A memory in which a write is a write: no update-only line, no poison, no landing word, and the canonical form. -/
structure State.Calm (s : State) : Prop where
  holders : s.holders = []
  poison : s.poison = []
  landings : s.landings = []
  wf : Memory.wf s.mem = true

theorem homeWrite_of_calm (h : s.Calm) (loc : Nat) (bs : List Byte) :
    s.homeWrite loc bs = { s with mem := memWrite s.mem loc bs, grids := (s.homeWrite loc bs).grids } := by
  have hw : s.homeWrite loc bs = { s with mem := memWrite s.mem loc bs }.latchDeps loc bs.length := by
    simp [State.homeWrite, State.cleanse, State.keepLandings, h.poison, h.landings]
  rw [hw]; exact latchDeps_eq _ _ _

/-! ### A slot is read and written (R413) -/

theorem readError_of_flaw {f : Nat} (hf : f ∈ s.flaws) (h1 : loc ≤ f) (h2 : f < loc + n) : ∃ c, s.readError loc n = some c := by
  have hany : s.flaws.any (fun f => decide (loc ≤ f) && decide (f < loc + n)) = true :=
    List.any_eq_true.2 ⟨f, hf, by simp [h1, h2]⟩
  rw [State.readError, if_pos hany]
  exact ⟨_, rfl⟩

theorem readError_eq_none (hp : s.poison = []) (hf : ∀ f ∈ s.flaws, ¬ (loc ≤ f ∧ f < loc + n)) : s.readError loc n = none := by
  have hany : ¬ s.flaws.any (fun f => decide (loc ≤ f) && decide (f < loc + n)) = true := by
    simpa using hf
  rw [State.readError, if_neg hany, hp, if_neg (by simp)]

theorem readSlot_of_sound (hr : s.readError loc 8 = none) (hh : s.holders = []) :
    s.readSlot loc = (leWord (memBytes s.mem loc 8), s) := by
  simp only [State.readSlot, hr, homePerform_read hh]

/-- A slot in error reads as zero. -/
theorem readSlot_of_error {c : BitVec 10} (hr : s.readError loc 8 = some c) : s.readSlot loc = (0, s.noteBad loc c) := by
  simp only [State.readSlot, hr]

theorem noteBad_eq (s : State) (loc : Nat) (c : BitVec 10) :
    s.noteBad loc c = { s with packages := (s.noteBad loc c).packages } := by
  simp only [State.noteBad]; split <;> rfl

/-- A slot without flaws or poison reads as its bytes. -/
theorem readSlot_of_flawless (hf : s.flaws = []) (hp : s.poison = []) (hh : s.holders = []) :
    s.readSlot loc = (leWord (memBytes s.mem loc 8), s) :=
  readSlot_of_sound (readError_eq_none hp (by simp [hf])) hh

/-- A flaw in a slot makes it read as zero, and nothing but the package's record of bad pages changes. -/
theorem readSlot_of_flaw {f : Nat} (hf : f ∈ s.flaws) (h1 : loc ≤ f) (h2 : f < loc + 8) :
    s.readSlot loc = (0, { s with packages := (s.readSlot loc).2.packages }) := by
  obtain ⟨c, hc⟩ := readError_of_flaw hf h1 h2
  rw [readSlot_of_error hc, Prod.mk.injEq]
  exact ⟨rfl, noteBad_eq s loc c⟩

theorem readSlot_state (hh : s.holders = []) : (s.readSlot loc).2 = { s with packages := (s.readSlot loc).2.packages } := by
  cases hr : s.readError loc 8 with
  | none => rw [readSlot_of_sound hr hh]
  | some c => rw [readSlot_of_error hr]; exact noteBad_eq s loc c

/-- A slot is its new word after a write, and nothing else is read differently; a flaw in it is gone. -/
structure State.Wrote (s t : State) (loc : Nat) (v : Word) : Prop where
  mem : t.mem = memWrite s.mem loc (leBytes v.toNat 8)
  sound : t.readError loc 8 = none
  threads : t.threads = s.threads
  wakeQ : ∀ c, (t.clus c).wakeQ = (s.clus c).wakeQ

/-- The flaws in a slot are gone. -/
def State.cured (s : State) (loc : Nat) : State :=
  { s with flaws := s.flaws.filter (fun f => !(decide (loc ≤ f) && decide (f < loc + 8))) }

theorem writeSlot_eq (hh : s.holders = []) (loc : Nat) (v : Word) :
    s.writeSlot loc v = (s.cured loc).homeWrite loc (leBytes v.toNat 8) :=
  congrArg (fun t => t.homeWrite loc (leBytes v.toNat 8)) (recallN_of_no_holders (s := s.cured loc) hh loc _)

theorem readError_cured (hp : s.poison = []) (loc : Nat) : (s.cured loc).readError loc 8 = none :=
  readError_eq_none hp (fun f hf => by rintro ⟨h1, h2⟩; simp [State.cured, h1, h2] at hf)

theorem writeSlot_wrote (h : s.Calm) (loc : Nat) (v : Word) : s.Wrote (s.writeSlot loc v) loc v := by
  have hc : (s.cured loc).Calm := ⟨h.holders, h.poison, h.landings, h.wf⟩
  rw [writeSlot_eq h.holders, homeWrite_of_calm hc]
  exact ⟨rfl, readError_cured h.poison loc, rfl, fun _ => rfl⟩

theorem State.Wrote.word (hw : s.Wrote t loc v) (h : Memory.wf s.mem = true) : leWord (memBytes t.mem loc 8) = v := by
  have hb := memBytes_memWrite (leBytes v.toNat 8) loc h
  rw [leBytes_length] at hb
  rw [hw.mem, hb, leWord_leBytes]

theorem State.Wrote.out (hw : s.Wrote t loc v) {a : Nat} (ha : a < loc ∨ loc + 8 ≤ a) : memGet t.mem a = memGet s.mem a := by
  rw [hw.mem, memGet_memWrite_out _ (by rwa [leBytes_length])]

/-- A slot is read and then written with another word. -/
theorem writeSlot_readSlot_wrote (h : s.Calm) (loc : Nat) (v : Word) : s.Wrote ((s.readSlot loc).2.writeSlot loc v) loc v := by
  have hs := readSlot_state (loc := loc) h.holders
  obtain ⟨hm, hr, ht, hc⟩ := writeSlot_wrote (s := (s.readSlot loc).2)
    (by rw [hs]; exact ⟨h.holders, h.poison, h.landings, h.wf⟩) loc v
  exact ⟨hm.trans (by rw [hs]), hr, ht.trans (by rw [hs]), fun c => (hc c).trans (by rw [hs]; rfl)⟩

/-! ### Updates (R410, R411, R413) -/

/-- The update that an observation at a site sends. -/
def State.updateOf (s : State) (k base : Nat) (site : BitVec 16) (o : WakeObs) : WakeUpd :=
  { loc := base + 8 * site.toNat, copy := base, thread := ((s.thr k).group, (s.thr k).tid), order := s.moorings, obs := o }

/-- A cluster that an update reaches: its queue takes the update, or it counts it as dropped. -/
def Cluster.taking (c : Cluster) (u : WakeUpd) : Cluster :=
  if 32 ≤ c.wakeQ.length then { c with wakeDrops := tset c.wakeDrops u.copy (tget c.wakeDrops 0 u.copy + 1) }
  else { c with wakeQ := c.wakeQ ++ [u] }

theorem clus_wakeSend (hb : s.wakeBase k = some base) (site : BitVec 16) (o : WakeObs) :
    (s.wakeSend k site o).clus (clusterOf (coreOf k)) = (s.clus (clusterOf (coreOf k))).taking (s.updateOf k base site o) := by
  simp only [State.wakeSend, hb]
  exact clus_setClus s _ _

/-- An update waits for the earlier ones of its thread to its slot. -/
theorem exec_wakeUpdatePerform_waits (hq : (s.clus ck).wakeQ = u :: us) (ho : s.olderUpdate u.thread u.loc u.order = true) :
    exec (.wakeUpdatePerform ck) s = .next s := by
  change execWakeUpdatePerform ck s = _
  simp only [execWakeUpdatePerform, hq, if_pos ho]

theorem exec_wakeUpdatePerform (hq : (s.clus ck).wakeQ = u :: us) (ho : s.olderUpdate u.thread u.loc u.order = false) :
    exec (.wakeUpdatePerform ck) s = .next ((s.modClus ck (fun c => { c with wakeQ := us })).performUpdate ck u) := by
  change execWakeUpdatePerform ck s = _
  simp only [execWakeUpdatePerform, hq, ho, if_neg Bool.false_ne_true]

theorem wakeQ_refresh (s : State) (ck loc : Nat) (v : Word) (c : Nat) :
    ((s.refresh ck loc v).clus c).wakeQ = (s.clus c).wakeQ := by
  rw [State.refresh, modClus_eq]
  by_cases hc : c = ck
  · rw [hc, clus_setClus]
  · rw [clus_setClus_ne s _ hc]

/-- A slot takes an observation, on the word that a read of it gives. -/
theorem performUpdate_wrote (h : s.Calm) (ck : Nat) (u : WakeUpd) :
    s.Wrote (s.performUpdate ck u) u.loc ((Slot.ofWord (s.readSlot u.loc).1).note u.obs).toWord := by
  obtain ⟨hm, hr, ht, hq⟩ := writeSlot_readSlot_wrote h u.loc ((Slot.ofWord (s.readSlot u.loc).1).note u.obs).toWord
  exact ⟨hm, hr, ht, fun c => (wakeQ_refresh _ ck u.loc _ c).trans (hq c)⟩

/-- The oldest update of a queue is performed. -/
theorem wakeUpdatePerform_performs (hq : (s.clus ck).wakeQ = u :: us) (ho : s.olderUpdate u.thread u.loc u.order = false)
    (h : s.Calm) (hv : ((s.modClus ck (fun c => { c with wakeQ := us })).readSlot u.loc).1 = v) :
    ∃ t : State, exec (.wakeUpdatePerform ck) s = .next t ∧ (t.clus ck).wakeQ = us ∧
      leWord (memBytes t.mem u.loc 8) = ((Slot.ofWord v).note u.obs).toWord ∧
      (∀ a, a < u.loc ∨ u.loc + 8 ≤ a → memGet t.mem a = memGet s.mem a) ∧ t.threads = s.threads ∧
      t.readError u.loc 8 = none := by
  subst hv
  have hw := performUpdate_wrote (s := s.modClus ck (fun c => { c with wakeQ := us }))
    ⟨h.holders, h.poison, h.landings, h.wf⟩ ck u
  refine ⟨_, exec_wakeUpdatePerform hq ho, (hw.wakeQ ck).trans ?_, hw.word h.wf, fun a ha => hw.out ha, hw.threads, hw.sound⟩
  rw [modClus_eq, clus_setClus]

/-! ### Drops (R402, R410) -/

/-- A copy header after n more drops: its high half, DROP, counts them and saturates; its low half stays. -/
def dropWord (v : Word) (n : Nat) : Word :=
  BitVec.ofNat 32 (min ((v.extractLsb' 32 32).toNat + n) (2 ^ 32 - 1)) ++ v.extractLsb' 0 32

theorem flushDrops_eq (hn : tget (s.clus ck).wakeDrops 0 copy = n) (h0 : n ≠ 0) :
    s.flushDrops ck copy = ((s.readSlot copy).2.writeSlot copy (dropWord (s.readSlot copy).1 n)).modClus ck
      (fun c => { c with wakeDrops := tdel c.wakeDrops copy }) := by
  obtain ⟨m, rfl⟩ := Nat.exists_eq_succ_of_ne_zero h0
  simp only [State.flushDrops, hn]
  rfl

theorem dropWord_toNat (v : Word) (n : Nat) :
    (dropWord v n).toNat = (v.extractLsb' 0 32).toNat + 2 ^ 32 * min ((v.extractLsb' 32 32).toNat + n) (2 ^ 32 - 1) := by
  have hl := (v.extractLsb' 0 32).isLt
  have hd : min ((v.extractLsb' 32 32).toNat + n) (2 ^ 32 - 1) < 2 ^ 32 := by omega
  rw [dropWord, BitVec.toNat_append, BitVec.toNat_ofNat, Nat.mod_eq_of_lt hd, Nat.shiftLeft_eq, Nat.mul_comm,
    ← Nat.two_pow_add_eq_or_of_lt hl, Nat.add_comm]

/-- A header that has become `dropWord` has its low four bytes as before, and n more in DROP. -/
theorem halves_of_dropWord {m m' : Memory} {a n : Nat} (h : leWord (memBytes m' a 8) = dropWord (leWord (memBytes m a 8)) n) :
    leVal (memBytes m' a 4) = leVal (memBytes m a 4) ∧
      leVal (memBytes m' (a + 4) 4) = min (leVal (memBytes m (a + 4) 4) + n) (2 ^ 32 - 1) := by
  have hw := congrArg BitVec.toNat h
  rw [dropWord_toNat, leWord_memBytes_low, leWord_memBytes_high, leWord_memBytes_toNat, leVal_memBytes_halves] at hw
  have hl := leVal_memBytes_lt m a 4
  have hl' := leVal_memBytes_lt m' a 4
  omega

theorem wakeDropFlush_adds (hn : tget (s.clus ck).wakeDrops 0 copy = n) (h0 : n ≠ 0) (hf : s.flaws = []) (h : s.Calm) :
    ∃ t : State, exec (.wakeDropFlush ck copy) s = .next t ∧ tget (t.clus ck).wakeDrops 0 copy = 0 ∧
      leVal (memBytes t.mem copy 4) = leVal (memBytes s.mem copy 4) ∧
      leVal (memBytes t.mem (copy + 4) 4) = min (leVal (memBytes s.mem (copy + 4) 4) + n) (2 ^ 32 - 1) := by
  have he : exec (.wakeDropFlush ck copy) s = .next (s.flushDrops ck copy) := rfl
  rw [flushDrops_eq hn h0, readSlot_of_flawless hf h.poison h.holders] at he
  refine ⟨_, he, ?drops, halves_of_dropWord ((writeSlot_wrote h copy _).word h.wf)⟩
  rw [modClus_eq, clus_setClus, tget_tdel]

/-! ### Reads (R412) -/

/-- The slot that a stalled thread waits for arrives, as a read of it at its home gives it. -/
theorem wakeReadFill_fills (hw : (s.thr k).wait = .miss) (hs : (s.thr k).sent = some none) (hl : (s.thr k).watch = some loc) :
    ∃ t : State, exec (.wakeReadFill k) s = .next t ∧ t.mem = (s.readSlot loc).2.mem ∧
      (t.thr k).sent = some (some (s.readSlot loc).1) := by
  have he : exec (.wakeReadFill k) s = execWakeReadFill k s := rfl
  simp only [execWakeReadFill, hw, hs, hl] at he
  exact ⟨_, he, rfl, congrArg Thread.sent (thr_setThr _ k _)⟩

theorem does_wakeRead_of_sent {slot : BitVec 16} (hb : s.wakeBase s.cur = some base) (hv : s.me.sent = some (some v)) :
    Does (wakeRead slot) s v s := by
  refine does_bind (does_get s) ?_
  simp only [hb, hv]
  exact does_pure v s

theorem does_wakeRead_of_cached {slot : BitVec 16} {e : WakeRead} (hb : s.wakeBase s.cur = some base) (hs : s.me.sent = none)
    (he : s.cached s.myClus (base + 8 * slot.toNat) = some e) : Does (wakeRead slot) s e.val (s.keep s.myClus e) := by
  refine does_bind (does_get s) ?_
  simp only [hb, hs, he]
  exact does_bind (does_set s _) (does_pure e.val _)

end Wake

/-! ### Slots (R406 to R409) -/

/-- R406: a slot whose E is full ages, and O with it, except a loop's. -/
theorem Slot.tick_eq (x : Slot) (loop : Bool) :
    x.tick loop = { x with gen := x.gen + 1, o := if x.e == 0xFFFF then (if loop then x.o else x.o >>> 1) else x.o,
                           e := if x.e == 0xFFFF then 0x8000 else x.e + 1 } := by
  by_cases h : x.e = 0xFFFF
  · simp only [Slot.tick, beq_iff_eq, if_pos h]; rfl
  · simp only [Slot.tick, beq_iff_eq, if_neg h]

/-- Five fields side by side are read back. -/
theorem extractLsb'_five_fields {i j k l m : Nat} (a : BitVec i) (b : BitVec j) (c : BitVec k) (d : BitVec l) (e : BitVec m) :
    let w := a ++ b ++ c ++ d ++ e
    w.extractLsb' (m + l + k + j) i = a ∧ w.extractLsb' (m + l + k) j = b ∧ w.extractLsb' (m + l) k = c ∧
      w.extractLsb' m l = d ∧ w.extractLsb' 0 m = e := by
  simp [BitVec.extractLsb'_append_eq_of_le, BitVec.extractLsb'_append_eq_right, Nat.add_assoc]

theorem Slot.ofWord_toWord (x : Slot) : Slot.ofWord x.toWord = x := by
  obtain ⟨hg, hd, hl, ho, he⟩ := extractLsb'_five_fields x.gen x.dec x.last x.o x.e
  exact Slot.mk.injEq .. ▸ ⟨hg, hd, hl, ho, he⟩

/-! ### The obligation -/

/-- Settles O52: an update and a read of a slot rest on the word that its home gives, zero where the slot is in error. -/
theorem wakeSteps : Obligations.WakeSteps := by
  unfold Obligations.WakeSteps
  refine ⟨⟨fun k base site o s hb => ⟨fun hq => ?queued, fun hq => ?dropped⟩,
    fun ck u us s hq ho => exec_wakeUpdatePerform_waits hq ho, ?perform,
    fun ck copy n s hn h0 hf hp hh hl hm => wakeDropFlush_adds hn h0 hf ⟨hh, hp, hl, hm⟩, ?fill,
    fun f loc s hf h1 h2 => ⟨?errorFill, ?errorPerform⟩,
    fun slot base s hb => ⟨fun v hv => does_wakeRead_of_sent hb hv, fun e hs he => does_wakeRead_of_cached hb hs he⟩⟩,
    fun x b l t => ⟨?branch, ?load, rfl, rfl, ?run, x.ofWord_toWord⟩⟩
  case queued =>
    rw [clus_wakeSend hb, Cluster.taking, if_neg (Nat.not_le.2 hq)]
    rfl
  case dropped =>
    rw [clus_wakeSend hb, Cluster.taking, if_pos hq]
    exact ⟨rfl, tget_tset _ 0 base _⟩
  case perform =>
    intro ck u us s hq ho hf hp hh hl hm
    have hv := congrArg Prod.fst (readSlot_of_flawless (s := s.modClus ck (fun c => { c with wakeQ := us })) (loc := u.loc) hf hp hh)
    obtain ⟨t, he, hus, hword, hout, hthr, -⟩ := wakeUpdatePerform_performs hq ho ⟨hh, hp, hl, hm⟩ hv
    exact ⟨t, he, hus, hword, hout, hthr⟩
  case fill =>
    intro k loc s hw hs hl hf hp hh
    have hfill := wakeReadFill_fills hw hs hl
    rwa [readSlot_of_flawless hf hp hh] at hfill
  case errorFill =>
    intro k hw hs hl
    have hfill := wakeReadFill_fills hw hs hl
    rwa [readSlot_of_flaw hf h1 h2] at hfill
  case errorPerform =>
    intro ck u us hq hu ho hp hh hl hm
    subst hu
    have hv := congrArg Prod.fst (readSlot_of_flaw (s := s.modClus ck (fun c => { c with wakeQ := us })) hf h1 h2)
    obtain ⟨t, he, -, hword, hout, -, hsound⟩ := wakeUpdatePerform_performs hq ho ⟨hh, hp, hl, hm⟩ hv
    exact ⟨t, he, hsound, hword, hout⟩
  case branch => simp only [Slot.note, Slot.tick_eq, Bool.false_eq_true, if_false]
  case load => simp only [Slot.note, Slot.tick_eq, Bool.false_eq_true, if_false]
  case run => simp only [Slot.note, Slot.run, Slot.tick_eq, if_true, ite_self]

end Sys2Proof.Machine
end
